-- ==== Sys2Proof/Word.lean ====
section
/-! DEFINITION. The word types of the H7 and the bit-field reading that decode and registers share (R3 to R5). -/

namespace Sys2Proof

/-- A scalar register, a system register, a tick, a device virtual address (R159, R177, R87). -/
abbrev W64 := BitVec 64
/-- An address-slot register, a counter, a 32-bit element (R159, R60, R185). -/
abbrev W32 := BitVec 32
/-- One byte of a memory tier or of the tile store (R5). -/
abbrev Byte := BitVec 8
/-- A mask register: bit e governs element e (R185). -/
abbrev Mask := BitVec 1024

/-- Bits [lo + n - 1 : lo] of a number (R4). -/
def fld (w lo n : Nat) : Nat := w / 2 ^ lo % 2 ^ n

theorem fld_lt (w lo n : Nat) : fld w lo n < 2 ^ n := Nat.mod_lt _ (Nat.two_pow_pos n)

/-- One bit of a number as a truth value. -/
def bit (w i : Nat) : Bool := fld w i 1 = 1

/-- A number as 0 or 1. -/
def b2n (b : Bool) : Nat := if b then 1 else 0

end Sys2Proof
end

