-- ==== Sys2Proof/Config.lean ====
section
/-! DEFINITION. What no rule of the spec fixes: free values (no body, so that nothing can be proved of
them), and the constants of one implementation. Every one is named in the assumption log. -/

namespace Sys2Proof.Config

/-- A free natural number, drawn with the counter of State (log 4): unstated latencies, choices
among allowed outcomes (R350, R53, R65, R349). -/
opaque freeNat : Nat → Nat

/-- A free truth value, drawn with the counter of State (log 4): outcomes that the spec leaves to the
outside, as whether a stage of bring-up fails (R348). -/
opaque freeBool : Nat → Bool

/-- A free 64-bit value, drawn with the counter of State (log 4). -/
opaque freeWord : Nat → W64

/-- The roundings of an inverse DCT, by the 64 dequantized coefficients of a block and the sample: fixed 32-bit integer arithmetic with
constants scaled by 2^13, whose order of operations R330 does not give (log 8). -/
opaque idctRound : List Int → Nat → Int

/-- The firmware images at module reset, 0 of the security processor, 1 and 2 of the command processors, and their signatures
(R343, log 2). -/
opaque firmware : Nat → List Byte
opaque firmwareSig : Nat → List Byte

/-- The public key that verifies firmware, the device identity key, and its certificate chain, fused at manufacture (R343, log 2). -/
opaque firmwareKey : List Byte
opaque deviceKey : List Byte
opaque certificates : List (List Byte)

/-- What the monitor of an island or a stack measures in a second: the rise of WEAR above DRIFT above ERRS, by the draw and the unit
(R342, log 4). -/
opaque ageing : Nat → Nat → BitVec 48

/-- The growth of PTCERR in a second of a holdover, by the holdover's number and the second (R323, log 4). -/
opaque drift : Nat → Nat → Nat

/-- Where the negotiated link of the host port is read in BAR0 (R319, log 20). -/
opaque linkOffset : Nat

/-- The word that is read there for a rate in GT/s and a width in lanes (R319, log 20). -/
opaque linkWord : Nat → Nat → W64

/-- The error code of a failing stage of bring-up (R348, log 4). -/
opaque stageError : Nat → BitVec 8

/-- A correctly rounded special function where the interval evaluation of R119 does not decide, as
the code of the result: the function number and the code of the operand (log 7). -/
opaque specialTail : Nat → Nat → Nat

end Sys2Proof.Config
end

