-- ==== Sys2Proof/Syntax.lean ====
section
/-! DEFINITION. The steps of the H7: one constructor of Instr per row of the opcode table. Rows with a word
(S, A, V, M, E and X slots) carry the fields of their encoding; rows without one (events) carry what the
event is about, and the data that comes with it from outside. -/

namespace Sys2Proof

/-! ### Operands of instructions -/

/-- Rounding modes (R104). -/
inductive RMode where
  | rne | rtz | rdn | rup | rna | sr
  deriving DecidableEq, Repr

/-- Formats of the scalar float forms (R150). -/
inductive FFmt where
  | fp32 | bf16 | fp16
  deriving DecidableEq, Repr

/-- Conditions of FCMP and VCMP (R167, R193). -/
inductive FCond where
  | eq | lt | le | ne | un
  deriving DecidableEq, Repr

/-- Integer targets of FCVTI (R167). -/
inductive IntTy where
  | i64 | u64 | i32 | u32
  deriving DecidableEq, Repr

/-- Sources of FCVTF (R167). -/
inductive CvtSrc where
  | i64 | u64 | f32 | bf16 | f16
  deriving DecidableEq, Repr

/-- Format tags (R101); the reserved codes have no constructor. -/
inductive Tag where
  | none | fp32 | bf16 | fp16 | e4m3f | e5m2f | int32 | int16 | int8 | uint8 | sn4 | raw32
  deriving DecidableEq, Repr

/-- The hold field H of VR forms (R150, R189). -/
inductive Hold where
  | normal | latch | fromLA | fromLB
  deriving DecidableEq, Repr

/-- SN4 types (R103). -/
inductive Sn4Ty where
  | ui | ef | pt | hy
  deriving DecidableEq, Repr

/-- Operations of the reductions and of the scan (R202). -/
inductive RedOp where
  | sum | min | max
  deriving DecidableEq, Repr

/-- An operand selector of the MS body (R151): ring n or latch l. -/
inductive Sel where
  | ring (n : Fin 16) | latch (l : Fin 4)
  deriving DecidableEq, Repr

/-- Direction of CPY and CPYM (R231). -/
inductive Dir where
  | inn | out
  deriving DecidableEq, Repr

/-- Combining operations of CPYA (R234). -/
inductive CpyaOp where
  | addF32 | addBf16 | addI32 | minF32 | maxF32 | minI32 | maxI32
  deriving DecidableEq, Repr

/-- Operations of AMO and SCAMO (R156, R239). -/
inductive AmoOp where
  | addI32 | addI64 | addF32 | min | max | and | or | xor | xchg | cas
  deriving DecidableEq, Repr

/-- Fence scopes (R242). -/
inductive Scope where
  | c | d | p | f
  deriving DecidableEq, Repr

/-- The operand of the semaphore forms: a register or imm19 (R243). -/
inductive SemSrc where
  | reg (s : Fin 32) | imm (v : BitVec 19)
  deriving DecidableEq, Repr

/-- Kinds of collectives (R247). -/
inductive CollKind where
  | ar | rs | ag | bc
  deriving DecidableEq, Repr

/-- Operations of collectives (R247). -/
inductive CollOp where
  | sumF32 | sumI32 | minF32 | maxF32 | minI32 | maxI32
  deriving DecidableEq, Repr

/-- The system registers of R178. -/
inductive SysReg where
  | status | cause | faddr | epc | cause2 | faddr2 | svec | ssp | uivec | slotmap | ngp
  | cif | fn | flen | gm | coreid | launchid | seed | lc | ls | le
  | cc (n : Fin 16) | dcr (n : Fin 16) | wrap (n : Fin 16)
  deriving DecidableEq, Repr

/-! ### The schedule image (R51); its byte layout is not stated (log 9) -/

/-- Fabric topologies (R51, R313). -/
inductive Topology where
  | mesh | ring | tree | torus
  deriving DecidableEq, Repr

/-- Policies of a slip crossing (R42). -/
inductive SlipPol where
  | hold | zero | decay
  deriving DecidableEq, Repr

/-- A region descriptor (R28). -/
structure RegionDesc where
  rid : Nat
  isl : List Nat
  src : Nat
  p : Nat
  q : Nat
  flen : Nat
  nper : Nat
  lbw : Nat
  jtol : Nat
  holdlim : Nat
  deriving DecidableEq, Repr

/-- A group-table entry; `gang` says that it is the gang of its members (R56, R135). -/
structure GroupDesc where
  num : Nat
  cores : List Nat
  gang : Bool
  deriving DecidableEq, Repr

/-- A task-table entry of a core (R55), with the address and the bytes of its text (R351). -/
structure TaskDesc where
  core : Nat
  entry : W64
  start : Nat
  timed : Bool
  phase : Nat
  ccrel : Bool
  textVa : Nat
  text : List Byte
  deriving DecidableEq, Repr

/-- A handle preallocation of a core (R79): view, index and the two words of the entry (R76). -/
structure HandleDesc where
  core : Nat
  view : Nat
  index : Nat
  w0 : W64
  w1 : W64
  deriving DecidableEq, Repr

/-- A ring descriptor of a core (R135, R215). -/
structure RingDesc where
  core : Nat
  ring : Nat
  view : Nat
  rows : Nat
  cols : Nat
  depth : Nat
  deriving DecidableEq, Repr

/-- A phase descriptor of a core: its index and its 640 bytes (R63). -/
structure PhaseDesc where
  core : Nat
  index : Nat
  bytes : List Byte
  deriving DecidableEq, Repr

/-- A subscription installed by the image (R135, R251). -/
structure SubDesc where
  core : Nat
  view : Nat
  pub : Nat
  pubView : Nat
  window : Nat
  deriving DecidableEq, Repr

/-- Initial tile-store data of a handle: bytes of its image by offset (R139). -/
structure TileDesc where
  core : Nat
  view : Nat
  bytes : List (Nat × Byte)
  deriving DecidableEq, Repr

/-- A slip-crossing installation (R42). -/
structure CrossDesc where
  x : Nat
  pisl : Nat
  cisl : Nat
  ch : Nat
  t : Nat
  ptab : Nat
  n : Nat
  d : Nat
  w : List W32
  lat : Nat
  pol : SlipPol
  df : Option W32
  sdiv : Nat
  deriving DecidableEq, Repr

/-- A schedule image (R51). -/
structure Image where
  launchId : BitVec 16
  latefault : Bool
  miglock : Bool
  preds : List (Nat × BitVec 16)
  regions : List RegionDesc
  topology : Topology
  groups : List GroupDesc
  tasks : List TaskDesc
  handles : List HandleDesc
  rings : List RingDesc
  phases : List PhaseDesc
  subs : List SubDesc
  wheel : List (Nat × Nat)
  crossings : List CrossDesc
  tiles : List TileDesc
  deriving DecidableEq, Repr

/-! ### What the events are about -/

/-- Whose frame ends: a core of a timebase region counts its own CIF, and a sample-locked region has
one frame for all its cores (R32, R36). -/
inductive FrameOf where
  | core (c : Nat) | region (r : Nat)
  deriving DecidableEq, Repr

/-- The engine request a table walk is made for (R94). -/
inductive WalkFor where
  | copy (ch : Nat) | amo (id : Nat)
  deriving DecidableEq, Repr

/-- One beat of a remote copy on its way to a receiver (R83, R233). -/
structure Beat where
  src : Nat
  ch : Nat
  cmd : Nat
  view : Nat
  off : Nat
  bytes : List (Nat × Byte)
  op : Option CpyaOp
  deriving DecidableEq, Repr

/-- A line of a subscription batch or of a resync (R252, R253): the publisher and its forward entry, the
subscriber's entry, the batch's number. -/
structure SubLine where
  pub : Nat
  fwd : Nat
  entry : Nat
  batch : Nat
  bytes : List (Nat × Byte)
  resync : Bool
  last : Bool
  deriving DecidableEq, Repr

/-- A byte that a store writes to a handle's image: its offset, its value, and which of its bits the
store writes (a nibble of an SN4 element, R84). -/
structure MByte where
  off : Nat
  val : Byte
  msk : Byte
  deriving DecidableEq, Repr

/-- A store forwarded by a multicast window (R255), with the launch of its source. -/
structure McStore where
  src : Nat
  launch : Nat
  pc : W64
  view : Nat
  size : Nat
  bytes : List MByte
  deriving DecidableEq, Repr

/-- A trace record (R337). -/
structure TraceRec where
  ptc : Nat
  ty : BitVec 8
  cif : BitVec 24
  src : BitVec 16
  launch : BitVec 16
  fn : W32
  payload : W64
  deriving DecidableEq, Repr

/-- Registers written over management, or by the driver through the command processor, that have no
row of their own (R9, R87, R96, R99, R320, R321, R326, R339, R347, R352). -/
inductive MReg where
  | bar0 (off : Nat)
  | ptbase (ctx : Fin 8) | trapvec (ctx : Fin 8) | trapstk (ctx : Fin 8) | pcap (ctx : Fin 8)
  | migctl (die : Fin 9) | reqcnt (die : Fin 9) (n : Fin 9)
  | cxlBase | cxlSize
  deriving DecidableEq, Repr

/-- An access-table target (R97): HBM home controllers of a die, the agent of an I/O die, the window. -/
inductive Target where
  | hbm (die : Fin 9) | io (io : Fin 4) | cxl
  deriving DecidableEq, Repr

/-- A DMA of the host through the PCIe port (R290): bytes, or a schedule image with its bytes' length. -/
inductive HostOp where
  | write (dpa : Nat) (key : Nat) (bytes : List Byte)
  | read (dpa : Nat) (key : Nat) (len : Nat)
  | image (dpa : Nat) (key : Nat) (img : Image)
  deriving DecidableEq, Repr

/-- A host access over CXL (R321): to the host-managed part of IO0's LPDDR-G6, or of the host to its own
memory that the window names. -/
inductive CxlOp where
  | hdmWrite (off : Nat) (bytes : List Byte)
  | hdmRead (off : Nat) (len : Nat)
  | hostWrite (off : Nat) (bytes : List Byte)
  deriving DecidableEq, Repr

/-- A register that the debugger writes (R305). -/
inductive DbgReg where
  | s (n : Fin 32) | a (n : Fin 16) | v (n : Fin 32) (e : Fin 1024) | k (n : Fin 8) (w : Fin 16)
  | vtag (n : Fin 32) (t : Tag) (sc : Bool) (teo : BitVec 8) | vscale (n : Fin 32) (b : Fin 32)
  | status
  deriving DecidableEq, Repr

/-- The data set that an Announce message of IEEE 1588-2019 brings of a master (R322): its two priorities, its clock's class, accuracy and
variance, the grandmaster's identity, the steps to it, and the identity of the sending port. -/
structure PtpSet where
  prio1 : Nat
  cls : Nat
  accuracy : Nat
  variance : Nat
  prio2 : Nat
  gm : Nat
  steps : Nat
  sender : Nat
  deriving DecidableEq, Repr

/-- Whence a sample comes (R327): by an IEEE 1722 packet of a stream, of AAF PCM or of another subtype, its samples of a format as SFMT
numbers them, with their presentation tick; or by the port's word-clock pins. -/
inductive SampleSrc where
  | avtp (sid : W64) (aaf : Bool) (fmt : Fin 4) (tick : Nat)
  | pins
  deriving DecidableEq, Repr

/-- What a KEY_LOAD brings to a slot (R344): the two 256-bit AES keys, that of the data below that of the tweak. -/
structure KeyPair where
  slot : Fin 64
  keys : BitVec 512
  deriving DecidableEq, Repr

/-- What a PTP message, or its absence, tells a port (R322, log 42): a master's data set; the bound on the offset from the grandmaster, in
ticks, that follows from messages that are timestamped; or that the port has lost its master. -/
inductive PtpMsg where
  | announce (x : PtpSet)
  | timing (bound : W64)
  | lost
  deriving DecidableEq, Repr


/-- A fabric collective context that the partition manager sets up (R325). -/
structure XcidCtx where
  xcid : Nat
  rank : Nat
  count : Nat
  m : Nat
  planes : List Nat
  deriving DecidableEq, Repr

/-! ### The table -/

/-- One constructor per row of the opcode table, by family. -/
inductive Instr where
  -- events of the package and of launches
  | launchAdmission (ctx : Fin 8)
  | gangStop (g : Nat)
  | contextSave (g : Nat)
  | admissionComplete (l : Nat)
  | contextRestore (g : Nat)
  | gangResume (g : Nat)
  | launchRetire (l : Nat)
  | taskStart (c : Nat)
  | frameEnd (w : FrameOf)
  | srcStop (r : Nat)
  | regionClockGate (r : Nat)
  | rcgLock (r : Nat)
  | producerSampleArrival (x : Fin 64) (vals : List W32)
  | consumerSampleDelivery (x : Fin 64)
  | slpResultLanding (c : Nat) (id : Nat)
  | realignTick (c : Nat) (tick : Nat)
  | twaitLeave (c : Nat)
  | groupReach (c : Nat)
  | pendingWriteLand (c : Nat)
  | gangHalt (g : Nat)
  | gangRestart (g : Nat)
  | userInterrupt (c : Nat)
  | uiwinClose (c : Nat)
  | copyCommandStart (c : Nat) (ch : Nat)
  | copyLine (c : Nat) (ch : Nat)
  | remoteBeatArrival (c : Nat) (b : Beat)
  | copyCompletion (c : Nat) (ch : Nat)
  | followOnStart (c : Nat)
  | cubeStepRetire (c : Nat)
  | drainCommit (c : Nat)
  | mtileExpansion (c : Nat)
  | amoExecute (c : Nat) (id : Nat)
  | amoCompletion (c : Nat) (id : Nat)
  | scExecute (c : Nat) (id : Nat)
  | scCompletion (c : Nat) (id : Nat)
  | fenceComplete (c : Nat) (id : Nat)
  | memoryAccessPerform (c : Nat) (ch : Nat)
  | translationWalk (c : Nat) (w : WalkFor)
  | collContribution (i : Nat) (c : Nat)
  | collCompletion (i : Nat) (c : Nat)
  | collDeadline (i : Nat)
  | kamrexContrib (i : Nat)
  | subonRequest (p : Nat) (c : Nat) (k : Nat)
  | subonReply (c : Nat) (k : Nat) (ok : Bool)
  | batchWindowClose (p : Nat) (j : Nat)
  | batchLineLanding (c : Nat) (l : SubLine)
  | subscriptionResync (p : Nat) (j : Nat)
  | suboffRequest (p : Nat) (c : Nat) (k : Nat)
  | suboffAck (c : Nat) (k : Nat)
  | subsyncCompletion (p : Nat) (id : Nat)
  | multicastLanding (c : Nat) (m : McStore)
  | exchangeRow (c : Nat)
  | traceRecord (die : Fin 9) (rec : TraceRec)
  | traceRecordPerformed (die : Fin 9)
  | itemAccept (p : Fin 16)
  | unitReady (p : Fin 16)
  | migrationInterval (die : Fin 9)
  | migrationLock (die : Fin 9) (page : Nat)
  | migrationForwarding (die : Fin 9) (page : Nat)
  | migrationComplete (die : Fin 9) (page : Nat)
  | shootdownAck (die : Fin 9) (id : Nat)
  | hostDma (op : HostOp)
  | cxlHostAccess (op : CxlOp)
  | ageingUpdate (isls stks : List Nat)
  -- S slots: integer arithmetic (R163)
  | add (d a b : Fin 32)
  | sub (d a b : Fin 32)
  | and (d a b : Fin 32)
  | or (d a b : Fin 32)
  | xor (d a b : Fin 32)
  | shl (d a b : Fin 32)
  | shr (d a b : Fin 32)
  | sar (d a b : Fin 32)
  | mul (d a b : Fin 32)
  | mulh (d a b : Fin 32)
  | mulhu (d a b : Fin 32)
  | div (d a b : Fin 32)
  | divu (d a b : Fin 32)
  | rem (d a b : Fin 32)
  | remu (d a b : Fin 32)
  | min (d a b : Fin 32)
  | max (d a b : Fin 32)
  | minu (d a b : Fin 32)
  | maxu (d a b : Fin 32)
  | slt (d a b : Fin 32)
  | sltu (d a b : Fin 32)
  | seq (d a b : Fin 32)
  | sel (d a b c : Fin 32)
  | clz (d a : Fin 32)
  | ctz (d a : Fin 32)
  | popc (d a : Fin 32)
  | brev (d a : Fin 32)
  | extb (d a : Fin 32) (n : Fin 8)
  | insb (d a b : Fin 32) (n : Fin 8)
  -- immediate forms (R164)
  | addi (d a : Fin 32) (imm : BitVec 14)
  | andi (d a : Fin 32) (imm : BitVec 14)
  | ori (d a : Fin 32) (imm : BitVec 14)
  | xori (d a : Fin 32) (imm : BitVec 14)
  | shli (d a : Fin 32) (n : Fin 64)
  | shri (d a : Fin 32) (n : Fin 64)
  | sari (d a : Fin 32) (n : Fin 64)
  | slti (d a : Fin 32) (imm : BitVec 14)
  | lui (d : Fin 32) (imm : BitVec 19)
  | muli (d a : Fin 32) (imm : BitVec 14)
  -- scalar floating point (R166)
  | fadd (fmt : FFmt) (m : RMode) (d a b : Fin 32)
  | fsub (fmt : FFmt) (m : RMode) (d a b : Fin 32)
  | fmul (fmt : FFmt) (m : RMode) (d a b : Fin 32)
  | ffma (fmt : FFmt) (m : RMode) (d a b : Fin 32)
  | fmin (fmt : FFmt) (m : RMode) (d a b : Fin 32)
  | fmax (fmt : FFmt) (m : RMode) (d a b : Fin 32)
  | fcmp (fmt : FFmt) (m : RMode) (cond : FCond) (d a b : Fin 32)
  | fcvti (fmt : FFmt) (m : RMode) (ity : IntTy) (d a : Fin 32)
  | fcvtf (fmt : FFmt) (m : RMode) (sty : CvtSrc) (d a : Fin 32)
  -- tile-store access (R168)
  | sld (d : Fin 32) (h : Fin 256) (a : Fin 32)
  | sst (h : Fin 256) (a b : Fin 32)
  -- control (R170 to R176)
  | beq (a b : Fin 32) (off : BitVec 14)
  | bne (a b : Fin 32) (off : BitVec 14)
  | blt (a b : Fin 32) (off : BitVec 14)
  | bge (a b : Fin 32) (off : BitVec 14)
  | bltu (a b : Fin 32) (off : BitVec 14)
  | bgeu (a b : Fin 32) (off : BitVec 14)
  | jmp (off : BitVec 24)
  | jal (off : BitVec 24)
  | jr (a : Fin 32)
  | loop (a : Fin 32) (off : BitVec 14)
  | chk (a : Fin 32) (ch : Fin 16)
  | phase (n : BitVec 14)
  | uiwin (n : BitVec 14)
  | trap (code : BitVec 14)
  | rett (a : Fin 32)
  | bkpt (code : BitVec 14)
  | mfs (d : Fin 32) (r : SysReg)
  | mts (r : SysReg) (a : Fin 32)
  | rdfc (d : Fin 32)
  | halloc (h : Fin 256) (d a b : Fin 32)
  | hfree (h : Fin 256)
  | hinfo (d : Fin 32) (h : Fin 256) (w : Fin 2)
  -- A slot (R183)
  | amov (ad : Fin 16) (imm : BitVec 16)
  | aget (s : Fin 32) (ad : Fin 16)
  | aadd (ad : Fin 16) (imm : BitVec 16)
  | aadds (ad : Fin 16) (s : Fin 32)
  | asetb (bd : Fin 16) (s : Fin 32)
  | ainc (ad bd : Fin 16)
  | ainc2 (ad bd : Fin 16)
  -- V slots: elementwise (R192)
  | vadd (vd va vb : Fin 32) (k : Fin 8) (h : Hold) (m : RMode)
  | vsub (vd va vb : Fin 32) (k : Fin 8) (h : Hold) (m : RMode)
  | vmul (vd va vb : Fin 32) (k : Fin 8) (h : Hold) (m : RMode)
  | vfma (vd va vb : Fin 32) (k : Fin 8) (h : Hold) (m : RMode)
  | vfms (vd va vb : Fin 32) (k : Fin 8) (h : Hold) (m : RMode)
  | vmin (vd va vb : Fin 32) (k : Fin 8) (h : Hold)
  | vmax (vd va vb : Fin 32) (k : Fin 8) (h : Hold)
  | vabs (vd va : Fin 32) (k : Fin 8) (h : Hold)
  | vneg (vd va : Fin 32) (k : Fin 8) (h : Hold)
  | vand (vd va vb : Fin 32) (k : Fin 8) (h : Hold)
  | vor (vd va vb : Fin 32) (k : Fin 8) (h : Hold)
  | vxor (vd va vb : Fin 32) (k : Fin 8) (h : Hold)
  | vshl (vd va vb : Fin 32) (k : Fin 8) (h : Hold)
  | vshr (vd va vb : Fin 32) (k : Fin 8) (h : Hold)
  | vsar (vd va vb : Fin 32) (k : Fin 8) (h : Hold)
  | vmulh (vd va vb : Fin 32) (k : Fin 8) (h : Hold)
  | vadds (vd va vb : Fin 32) (k : Fin 8) (h : Hold)
  | vsubs (vd va vb : Fin 32) (k : Fin 8) (h : Hold)
  | vcmp (kd : Fin 8) (va vb : Fin 32) (k : Fin 8) (h : Hold) (cond : FCond)
  | vrcp (vd va : Fin 32) (k : Fin 8) (h : Hold)
  | vsqrt (vd va : Fin 32) (k : Fin 8) (h : Hold)
  | vrsq (vd va : Fin 32) (k : Fin 8) (h : Hold)
  | vexp2 (vd va : Fin 32) (k : Fin 8) (h : Hold)
  | vlog2 (vd va : Fin 32) (k : Fin 8) (h : Hold)
  | vtanh (vd va : Fin 32) (k : Fin 8) (h : Hold)
  | vcvt (vd va : Fin 32) (k : Fin 8) (h : Hold) (tgt : Tag) (sc : Bool) (m : RMode)
  | vpack4 (vd va : Fin 32) (h : Hold) (ty : Sn4Ty) (m : RMode)
  | vunpack4 (vd va : Fin 32) (k : Fin 8) (h : Hold) (m : RMode)
  | vtag (vd va : Fin 32) (k : Fin 8) (h : Hold) (tgt : Tag)
  | vmov (vd va : Fin 32) (k : Fin 8) (h : Hold)
  | vsel (vd va vb : Fin 32) (k : Fin 8) (h : Hold)
  | vbcs (vd s : Fin 32) (tag : Tag)
  | vbrow (vd va : Fin 32) (row : Fin 16) (k : Fin 8) (h : Hold)
  | vbcol (vd va : Fin 32) (col : Fin 64) (k : Fin 8) (h : Hold)
  | vrotr (vd va : Fin 32) (n : Fin 64) (k : Fin 8) (h : Hold)
  | vrotc (vd va : Fin 32) (n : Fin 16) (k : Fin 8) (h : Hold)
  | vredr (vd va : Fin 32) (op : RedOp) (k : Fin 8) (h : Hold)
  | vredc (vd va : Fin 32) (op : RedOp) (k : Fin 8) (h : Hold)
  | vscanr (vd va : Fin 32) (op : RedOp) (k : Fin 8) (h : Hold)
  | vtrn (vd va : Fin 32) (k : Fin 8) (h : Hold)
  | vperm (vd va vb : Fin 32) (k : Fin 8) (h : Hold)
  | viota (vd : Fin 32) (imm : BitVec 14)
  | vrand (vd s : Fin 32)
  | kand (kd ka kb : Fin 8)
  | kor (kd ka kb : Fin 8)
  | kxor (kd ka kb : Fin 8)
  | knot (kd ka : Fin 8)
  | kpop (s : Fin 32) (ka : Fin 8)
  | kset (kd : Fin 8) (n : BitVec 14)
  | vld (v : Fin 32) (h : Fin 256) (a : Fin 16) (k : Fin 8)
  | vst (v : Fin 32) (h : Fin 256) (a : Fin 16) (k : Fin 8)
  | vldx (v : Fin 32) (h : Fin 256) (a : Fin 16) (k : Fin 8)
  | vstx (v : Fin 32) (h : Fin 256) (a : Fin 16) (k : Fin 8)
  | vldb (v : Fin 32) (h : Fin 256) (a : Fin 16) (k : Fin 8)
  -- M slot (R155); st is the stamp of R58
  | mcfg (st : BitVec 20) (word : W32)
  | mzero (st : BitVec 20) (c : Fin 8)
  | mload (st : BitVec 20) (c : Fin 8) (h : Fin 256)
  | mlatch (st : BitVec 20) (l : Fin 4) (h : Fin 256)
  | mmul (st : BitVec 20) (c : Fin 8) (a b : Sel) (pa pb : Bool) (kv : Fin 256)
  | mmul3 (st : BitVec 20) (c : Fin 8) (a b w : Sel) (pa pb pw : Bool) (kv : Fin 256)
  | mdrain (st : BitVec 20) (c : Fin 8) (hout hdesc : Fin 256) (off : BitVec 16)
  | mdrainv (st : BitVec 20) (c : Fin 8) (vd : Fin 32) (hdesc : Fin 256)
  | mtile (st : BitVec 20) (h : Fin 256)
  | mtile3 (st : BitVec 20) (h : Fin 256)
  | msetf (st : BitVec 20) (f : Fin 8) (h : Fin 256) (off : BitVec 16)
  | nset (st : BitVec 20) (n : Fin 16) (h : Fin 256) (depth : Fin 16)
  | nadv (st : BitVec 20) (n : Fin 16) (count : BitVec 16)
  | nchk (st : BitVec 20) (n : Fin 16) (count : BitVec 16)
  | mstep (st : BitVec 20) (s : Fin 32)
  -- E slot (R156)
  | cpy (st : BitVec 20) (ch : Fin 4) (n : Bool) (hd : Fin 256) (dir : Dir)
  | cpym (st : BitVec 20) (ch : Fin 4) (n : Bool) (hd : Fin 256) (dir : Dir) (f : Fin 8)
  | cpyx (st : BitVec 20) (ch : Fin 4) (n : Bool) (hd : Fin 256)
  | cpya (st : BitVec 20) (ch : Fin 4) (n : Bool) (hd : Fin 256) (op : CpyaOp) (e : Fin 64)
  | cpyd (st : BitVec 20) (ch : Fin 4) (n : Bool) (hd : Fin 256) (hc : Fin 256)
  | cpyi (st : BitVec 20) (ch : Fin 4) (n : Bool) (hd : Fin 256) (p : Fin 16)
  | cpyc (st : BitVec 20) (ch : Fin 4) (n : Bool) (hd : Fin 256)
  | amo (st : BitVec 20) (n : Bool) (op : AmoOp) (sa sb sc : Fin 32)
  | scld (st : BitVec 20) (n : Bool) (sa sc : Fin 32)
  | scst (st : BitVec 20) (n : Bool) (sa sb : Fin 32)
  | scamo (st : BitVec 20) (n : Bool) (op : AmoOp) (sa sb sc : Fin 32)
  | fence (st : BitVec 20) (scope : Scope)
  | seminc (st : BitVec 20) (e : Fin 64) (x : SemSrc)
  | semset (st : BitVec 20) (e : Fin 64) (x : SemSrc)
  | semchk (st : BitVec 20) (e : Fin 64) (x : SemSrc)
  | twait (st : BitVec 20) (sa : Fin 32) (z : Bool)
  | tstamp (st : BitVec 20) (sd : Fin 32)
  | realign (st : BitVec 20) (g : Fin 256) (sa : Fin 32)
  | coll (st : BitVec 20) (kind : CollKind) (ch : Fin 4) (n : Bool) (g : Fin 256) (hd : Fin 256)
      (op : CollOp)
  | subon (st : BitVec 20) (hl hp : Fin 256) (core : BitVec 12) (win : Fin 4)
  | suboff (st : BitVec 20) (hl : Fin 256)
  | subsync (st : BitVec 20) (hp : Fin 256)
  | mcwin (st : BitVec 20) (hs ht g : Fin 256)
  | mcoff (st : BitVec 20) (hs : Fin 256)
  | slpwr (st : BitVec 20) (x : Fin 64) (h : Fin 256) (sa : Fin 32)
  | slprd (st : BitVec 20) (x : Fin 64) (h : Fin 256) (sa : Fin 32)
  | slpst (st : BitVec 20) (x : Fin 64) (h : Fin 256) (sa : Fin 32)
  | trace (st : BitVec 20) (ty : BitVec 8) (sa : Fin 32)
  -- X slot (R157)
  | xtx (port : Fin 16) (v : Fin 32) (row : Fin 16) (count : BitVec 11)
  | xrx (port : Fin 16) (v : Fin 32) (row : Fin 16) (count : BitVec 11)
  | xsel (p q : Fin 16) (n : BitVec 16)
  -- inputs from outside, which no step of the module makes (they stand last: the compiler builds objects of
  -- the first 245 constructors, and of those without operands)
  | registerWrite (r : MReg) (v : W64)
  | qctlWrite (q : Fin 256) (v : W64)
  | qtailWrite (q : Fin 256) (v : W32)
  | ptpMessage (port : Fin 8) (m : PtpMsg)
  | ptcStep (tick : Nat)
  | sampleArrival (p : Fin 16) (src : SampleSrc) (vals : List W32)
  | sourceEdgesReturn (p : Fin 16)
  | sourceEdgesCease (p : Fin 16)
  | kamrexResult (i : Nat) (parts : List (List W32))
  | kamrexAbort (i : Nat)
  | kamrexMgmt (ctx : Fin 8) (x : XcidCtx)
  | kamrexPlaneDown (plane : Fin 36)
  | collectiveDatagram (i : Nat) (dev : Nat) (part : List W32)
  | traceEnable (die : Fin 9) (v : W64)
  | iqtailWrite (p : Fin 16) (v : W32)
  | shootdown (ctx : Fin 8) (lo hi : Nat)
  | linkDown (link : Fin 36)
  | partitionSetup (ctx : Fin 8) (dies : List Nat) (topo : Topology)
  | xcidContextSetup (ctx : Fin 8) (x : XcidCtx)
  | keyLoad (x : KeyPair)
  | keyClear (k : Fin 64)
  | accessTableWrite (t : Target) (master : Fin 4096) (v : BitVec 128)
  | attestationRequest (nonce : List Byte)
  | debugHalt (c : Nat)
  | debugStep (c : Nat)
  | debugStepg (c : Nat)
  | debugResume (c : Nat)
  | debugRegisterWrite (c : Nat) (r : DbgReg) (v : W64)
  | hostPortTraining (rate : Fin 8) (width : Fin 8)
  | moduleReset
  | ptcLockTimeout
  | holdover
  | timingReferencePulse
  | endTask
  | uiret
  | xbegin
  | xend
  deriving DecidableEq, Repr

end Sys2Proof
end

