-- ==== Sys2Proof/WellFormed.lean ====
section
/-! DEFINITION. The limits that the spec puts on an instruction's fields beyond their widths: what step 5 of
R148 checks of a word (ILLEGAL_FIELD). Events have no words and no such limits. -/

namespace Sys2Proof

/-- The code of a format tag (R101). -/
def Tag.code : Tag → Nat
  | .none => 0 | .fp32 => 1 | .bf16 => 2 | .fp16 => 3 | .e4m3f => 4 | .e5m2f => 5
  | .int32 => 7 | .int16 => 8 | .int8 => 9 | .uint8 => 10 | .sn4 => 11 | .raw32 => 12

/-- The tag of a code; a reserved code has none (R101). -/
def Tag.ofCode : Nat → Option Tag
  | 0 => some .none | 1 => some .fp32 | 2 => some .bf16 | 3 => some .fp16 | 4 => some .e4m3f
  | 5 => some .e5m2f | 7 => some .int32 | 8 => some .int16 | 9 => some .int8 | 10 => some .uint8
  | 11 => some .sn4 | 12 => some .raw32 | _ => Option.none

/-- A tag of 8 bits or fewer (R101): the only ones that may be block-scaled. -/
def Tag.narrow : Tag → Bool
  | .e4m3f | .e5m2f | .int8 | .uint8 | .sn4 => true
  | _ => false

namespace Wf

/-- The hold field of a form with two vector sources (R150). -/
def hold2 (va vb : Fin 32) : Hold → Bool
  | .normal | .latch => true
  | .fromLA => va.val = 0
  | .fromLB => vb.val = 0

/-- The hold field of a form whose vb is no vector source (R150, R189). -/
def hold1 (va : Fin 32) : Hold → Bool
  | .normal | .latch => true
  | .fromLA => va.val = 0
  | .fromLB => false

/-- Format codes of CCFG: whether the signed and the scaled bit agree with the format (R209). -/
def cfgFmt (f s c : Nat) : Bool :=
  f < 6 && (s = 0 || f = 4) && (c = 0 || 2 ≤ f) && (c = 1 || f ≠ 5)

/-- A legal configuration word (R209). -/
def cfg (w : Nat) : Bool :=
  fld w 15 10 = 0 && fld w 29 3 < 6 && fld w 26 2 < 3
    && cfgFmt (fld w 12 3) (fld w 11 1) (fld w 10 1)
    && cfgFmt (fld w 7 3) (fld w 6 1) (fld w 5 1)
    && cfgFmt (fld w 2 3) (fld w 1 1) (fld w 0 1)

/-- A pop bit is set only on a ring (R216). -/
def pop : Sel → Bool → Bool
  | .ring _, _ => true
  | .latch _, p => !p

/-- The target of VCVT (R196). -/
def cvt (t : Tag) (sc : Bool) : Bool :=
  t ≠ .none && t ≠ .sn4 && t ≠ .raw32 && (!sc || t.narrow)

/-- The rows that XTX and XRX address (R259). -/
def rows (port : Fin 16) (v : Fin 32) (row : Fin 16) (count : BitVec 11) : Bool :=
  port.val < 4 && count.toNat ≠ 0 && v.val * 16 + row.val + count.toNat ≤ 512

end Wf

/-- What step 5 of R148 requires of an instruction's fields beyond their widths. -/
def Instr.wellFormed : Instr → Bool
  | .chk _ ch => ch.val ≤ 10
  | .phase n => n.toNat < 64
  | .uiwin n => n.toNat ≠ 0 && n.toNat < 8192
  | .vadd _ va vb _ h _ | .vsub _ va vb _ h _ | .vmul _ va vb _ h _
  | .vfma _ va vb _ h _ | .vfms _ va vb _ h _ => Wf.hold2 va vb h
  | .vmin _ va vb _ h | .vmax _ va vb _ h | .vand _ va vb _ h | .vor _ va vb _ h
  | .vxor _ va vb _ h | .vshl _ va vb _ h | .vshr _ va vb _ h | .vsar _ va vb _ h
  | .vmulh _ va vb _ h | .vadds _ va vb _ h | .vsubs _ va vb _ h => Wf.hold2 va vb h
  | .vcmp _ va vb _ h _ => Wf.hold2 va vb h
  | .vsel _ va vb _ h | .vperm _ va vb _ h => Wf.hold2 va vb h
  | .vabs _ va _ h | .vneg _ va _ h => Wf.hold1 va h
  | .vrcp _ va _ h | .vsqrt _ va _ h | .vrsq _ va _ h
  | .vexp2 _ va _ h | .vlog2 _ va _ h | .vtanh _ va _ h => Wf.hold1 va h
  | .vcvt _ va _ h t sc _ => Wf.hold1 va h && Wf.cvt t sc
  | .vpack4 _ va h _ _ => Wf.hold1 va h
  | .vunpack4 _ va _ h _ => Wf.hold1 va h
  | .vtag _ va _ h t => Wf.hold1 va h && t ≠ .none && t ≠ .sn4
  | .vmov _ va _ h => Wf.hold1 va h
  | .vbcs _ _ t => t ≠ .none && t ≠ .sn4
  | .vbrow _ va _ _ h => Wf.hold1 va h
  | .vbcol _ va _ _ h => Wf.hold1 va h
  | .vrotr _ va _ _ h => Wf.hold1 va h
  | .vrotc _ va _ _ h => Wf.hold1 va h
  | .vredr _ va _ _ h | .vredc _ va _ _ h | .vscanr _ va _ _ h => Wf.hold1 va h
  | .vtrn _ va _ h => Wf.hold1 va h
  | .kset _ n => n.toNat ≤ 1024
  | .vldx v _ _ _ | .vstx v _ _ _ => v.val ≤ 30
  | .mcfg _ w => Wf.cfg w.toNat
  | .mmul _ _ a b pa pb _ => Wf.pop a pa && Wf.pop b pb
  | .mmul3 _ _ a b w pa pb pw _ => Wf.pop a pa && Wf.pop b pb && Wf.pop w pw
  | .nset _ _ _ d => d.val ≠ 0
  | .nadv _ _ n => n.toNat ≠ 0 && n.toNat ≤ 16
  | .nchk _ _ n => n.toNat ≤ 16
  | .coll _ k _ _ _ _ op => (k = .ar || k = .rs) || op = .sumF32
  | .trace _ ty _ => 0x80 ≤ ty.toNat
  | .xtx port v row n | .xrx port v row n => Wf.rows port v row n
  | .xsel p q n => p.val < 4 && q.val < 4 && p ≠ q && n.toNat ≠ 0
  | _ => true

end Sys2Proof
end

