-- ==== Sys2Proof/Decode.lean ====
section
/-! DEFINITION. The decoder, from the encoding tables of R149 to R158, and the encoder after it. A word is
decoded for the slot kind that holds it, because the opcode spaces of the kinds overlap. -/

namespace Sys2Proof

/-- The slot kinds in mask order (R141). -/
inductive Kind where
  | s0 | s1 | a | v0 | v1 | m | e | x
  deriving DecidableEq, Repr

/-- The kind number (R141). -/
def Kind.num : Kind → Nat
  | .s0 => 0 | .s1 => 1 | .a => 2 | .v0 => 3 | .v1 => 4 | .m => 5 | .e => 6 | .x => 7

/-- The size of a slot in bytes (R141). -/
def Kind.size : Kind → Nat
  | .m | .e => 8
  | _ => 4

/-- Why a slot's word is no instruction (R148, steps 4 and 5). -/
inductive DecErr where
  | illegalOp | illegalField
  deriving DecidableEq, Repr

/-- What the decoder makes of a word. -/
inductive Decoded where
  | ok (i : Instr)
  | bad (e : DecErr)
  deriving DecidableEq, Repr

/-! ### Fields -/

/-- A 2-bit field. -/
def f2 (w lo : Nat) : Fin 4 := ⟨fld w lo 2, fld_lt w lo 2⟩
/-- A 3-bit field. -/
def f3 (w lo : Nat) : Fin 8 := ⟨fld w lo 3, fld_lt w lo 3⟩
/-- A 4-bit field. -/
def f4 (w lo : Nat) : Fin 16 := ⟨fld w lo 4, fld_lt w lo 4⟩
/-- A 5-bit field. -/
def f5 (w lo : Nat) : Fin 32 := ⟨fld w lo 5, fld_lt w lo 5⟩
/-- A 6-bit field. -/
def f6 (w lo : Nat) : Fin 64 := ⟨fld w lo 6, fld_lt w lo 6⟩
/-- An 8-bit field. -/
def f8 (w lo : Nat) : Fin 256 := ⟨fld w lo 8, fld_lt w lo 8⟩
/-- A field as a bit vector. -/
def fb (w lo n : Nat) : BitVec n := BitVec.ofNat n (fld w lo n)

/-- Rounding-mode codes (R104). -/
def RMode.ofCode : Nat → Option RMode
  | 0 => some .rne | 1 => some .rtz | 2 => some .rdn | 3 => some .rup | 4 => some .rna
  | 5 => some .sr | _ => none
def RMode.code : RMode → Nat
  | .rne => 0 | .rtz => 1 | .rdn => 2 | .rup => 3 | .rna => 4 | .sr => 5

/-- Scalar float format codes (R150). -/
def FFmt.ofCode : Nat → Option FFmt
  | 0 => some .fp32 | 1 => some .bf16 | 2 => some .fp16 | _ => none
def FFmt.code : FFmt → Nat
  | .fp32 => 0 | .bf16 => 1 | .fp16 => 2

/-- Condition codes (R167, R193). -/
def FCond.ofCode : Nat → Option FCond
  | 0 => some .eq | 1 => some .lt | 2 => some .le | 3 => some .ne | 4 => some .un | _ => none
def FCond.code : FCond → Nat
  | .eq => 0 | .lt => 1 | .le => 2 | .ne => 3 | .un => 4

/-- FCVTI target codes (R167). -/
def IntTy.ofCode : Nat → Option IntTy
  | 0 => some .i64 | 1 => some .u64 | 2 => some .i32 | 3 => some .u32 | _ => none
def IntTy.code : IntTy → Nat
  | .i64 => 0 | .u64 => 1 | .i32 => 2 | .u32 => 3

/-- FCVTF source codes (R167). -/
def CvtSrc.ofCode : Nat → Option CvtSrc
  | 0 => some .i64 | 1 => some .u64 | 2 => some .f32 | 3 => some .bf16 | 4 => some .f16 | _ => none
def CvtSrc.code : CvtSrc → Nat
  | .i64 => 0 | .u64 => 1 | .f32 => 2 | .bf16 => 3 | .f16 => 4

/-- Hold codes (R150). -/
def Hold.ofFld : Fin 4 → Hold
  | 0 => .normal | 1 => .latch | 2 => .fromLA | 3 => .fromLB
def Hold.code : Hold → Nat
  | .normal => 0 | .latch => 1 | .fromLA => 2 | .fromLB => 3

/-- SN4 type codes (R103). -/
def Sn4Ty.ofFld : Fin 4 → Sn4Ty
  | 0 => .ui | 1 => .ef | 2 => .pt | 3 => .hy
def Sn4Ty.code : Sn4Ty → Nat
  | .ui => 0 | .ef => 1 | .pt => 2 | .hy => 3

/-- Reduction codes (R202). -/
def RedOp.ofCode : Nat → Option RedOp
  | 0 => some .sum | 1 => some .min | 2 => some .max | _ => none
def RedOp.code : RedOp → Nat
  | .sum => 0 | .min => 1 | .max => 2

/-- Selector codes of the MS body (R151): 0b0nnnn ring n, 0b100ll latch l. -/
def Sel.ofCode (v : Nat) : Option Sel :=
  if fld v 4 1 = 0 then some (.ring (f4 v 0))
  else if fld v 2 2 = 0 then some (.latch (f2 v 0)) else none
def Sel.code : Sel → Nat
  | .ring n => n.val
  | .latch l => 16 + l.val

/-- CPYA codes (R234). -/
def CpyaOp.ofCode : Nat → Option CpyaOp
  | 0 => some .addF32 | 1 => some .addBf16 | 2 => some .addI32 | 3 => some .minF32
  | 4 => some .maxF32 | 5 => some .minI32 | 6 => some .maxI32 | _ => none
def CpyaOp.code : CpyaOp → Nat
  | .addF32 => 0 | .addBf16 => 1 | .addI32 => 2 | .minF32 => 3 | .maxF32 => 4 | .minI32 => 5
  | .maxI32 => 6

/-- AMO codes (R156). -/
def AmoOp.ofCode : Nat → Option AmoOp
  | 0 => some .addI32 | 1 => some .addI64 | 2 => some .addF32 | 3 => some .min | 4 => some .max
  | 5 => some .and | 6 => some .or | 7 => some .xor | 8 => some .xchg | 9 => some .cas | _ => none
def AmoOp.code : AmoOp → Nat
  | .addI32 => 0 | .addI64 => 1 | .addF32 => 2 | .min => 3 | .max => 4 | .and => 5 | .or => 6
  | .xor => 7 | .xchg => 8 | .cas => 9

/-- Fence scopes (R156). -/
def Scope.ofCode : Nat → Option Scope
  | 0 => some .c | 1 => some .d | 2 => some .p | 3 => some .f | _ => none
def Scope.code : Scope → Nat
  | .c => 0 | .d => 1 | .p => 2 | .f => 3

/-- Collective kinds (R247). -/
def CollKind.ofFld : Fin 4 → CollKind
  | 0 => .ar | 1 => .rs | 2 => .ag | 3 => .bc
def CollKind.code : CollKind → Nat
  | .ar => 0 | .rs => 1 | .ag => 2 | .bc => 3

/-- Collective operations (R247). -/
def CollOp.ofCode : Nat → Option CollOp
  | 0 => some .sumF32 | 1 => some .sumI32 | 2 => some .minF32 | 3 => some .maxF32
  | 4 => some .minI32 | 5 => some .maxI32 | _ => none
def CollOp.code : CollOp → Nat
  | .sumF32 => 0 | .sumI32 => 1 | .minF32 => 2 | .maxF32 => 3 | .minI32 => 4 | .maxI32 => 5

/-- Copy directions (R231). -/
def Dir.ofBit (b : Bool) : Dir := if b then .out else .inn
def Dir.code : Dir → Nat
  | .inn => 0 | .out => 1

/-- System-register numbers (R178). -/
def SysReg.ofCode (n : Nat) : Option SysReg :=
  if fld n 4 10 = 2 then some (.cc (f4 n 0))
  else if fld n 4 10 = 3 then some (.dcr (f4 n 0))
  else if fld n 4 10 = 4 then some (.wrap (f4 n 0))
  else match n with
    | 0x000 => some .status | 0x001 => some .cause | 0x002 => some .faddr | 0x003 => some .epc
    | 0x004 => some .cause2 | 0x005 => some .faddr2 | 0x006 => some .svec | 0x007 => some .ssp
    | 0x008 => some .uivec | 0x009 => some .slotmap | 0x00A => some .ngp
    | 0x010 => some .cif | 0x011 => some .fn | 0x012 => some .flen
    | 0x013 => some .gm | 0x014 => some .coreid | 0x015 => some .launchid | 0x016 => some .seed
    | 0x018 => some .lc | 0x019 => some .ls | 0x01A => some .le
    | _ => none
def SysReg.code : SysReg → Nat
  | .status => 0x000 | .cause => 0x001 | .faddr => 0x002 | .epc => 0x003 | .cause2 => 0x004
  | .faddr2 => 0x005 | .svec => 0x006 | .ssp => 0x007 | .uivec => 0x008 | .slotmap => 0x009
  | .ngp => 0x00A | .cif => 0x010 | .fn => 0x011 | .flen => 0x012 | .gm => 0x013 | .coreid => 0x014
  | .launchid => 0x015 | .seed => 0x016 | .lc => 0x018 | .ls => 0x019 | .le => 0x01A
  | .cc n => 0x020 + n.val | .dcr n => 0x030 + n.val | .wrap n => 0x040 + n.val

/-! ### The decoder -/

/-- Step 5 of R148: the fields that must be zero are zero, and the instruction is well formed. -/
def chk5 (zero : Bool) (i : Instr) : Decoded :=
  if zero && i.wellFormed then .ok i else .bad .illegalField

/-- As `chk5`, for a field whose code may be reserved. -/
def chk5o {α : Type} (zero : Bool) (o : Option α) (f : α → Instr) : Decoded :=
  match o with
  | some v => chk5 zero (f v)
  | none => .bad .illegalField

/-- As `chk5o`, for two such fields. -/
def chk5oo {α β : Type} (zero : Bool) (o : Option α) (o' : Option β) (f : α → β → Instr) : Decoded :=
  match o, o' with
  | some v, some v' => chk5 zero (f v v')
  | _, _ => .bad .illegalField

/-- As `chk5o`, for three such fields. -/
def chk5ooo {α β γ : Type} (zero : Bool) (o : Option α) (o' : Option β) (o'' : Option γ)
    (f : α → β → γ → Instr) : Decoded :=
  match o, o', o'' with
  | some v, some v', some v'' => chk5 zero (f v v' v'')
  | _, _, _ => .bad .illegalField

/-- A word of an S slot, S0 and S1 alike but for the opcodes that are legal in S0 only (R152). -/
def decodeS (w : Nat) : Decoded :=
  match fld w 24 8 with
  | 0x01 => chk5 (fld w 0 9 = 0) (.add (f5 w 19) (f5 w 14) (f5 w 9))
  | 0x02 => chk5 (fld w 0 9 = 0) (.sub (f5 w 19) (f5 w 14) (f5 w 9))
  | 0x03 => chk5 (fld w 0 9 = 0) (.and (f5 w 19) (f5 w 14) (f5 w 9))
  | 0x04 => chk5 (fld w 0 9 = 0) (.or (f5 w 19) (f5 w 14) (f5 w 9))
  | 0x05 => chk5 (fld w 0 9 = 0) (.xor (f5 w 19) (f5 w 14) (f5 w 9))
  | 0x06 => chk5 (fld w 0 9 = 0) (.shl (f5 w 19) (f5 w 14) (f5 w 9))
  | 0x07 => chk5 (fld w 0 9 = 0) (.shr (f5 w 19) (f5 w 14) (f5 w 9))
  | 0x08 => chk5 (fld w 0 9 = 0) (.sar (f5 w 19) (f5 w 14) (f5 w 9))
  | 0x09 => chk5 (fld w 0 9 = 0) (.mul (f5 w 19) (f5 w 14) (f5 w 9))
  | 0x0A => chk5 (fld w 0 9 = 0) (.mulh (f5 w 19) (f5 w 14) (f5 w 9))
  | 0x0B => chk5 (fld w 0 9 = 0) (.mulhu (f5 w 19) (f5 w 14) (f5 w 9))
  | 0x0C => chk5 (fld w 0 9 = 0) (.div (f5 w 19) (f5 w 14) (f5 w 9))
  | 0x0D => chk5 (fld w 0 9 = 0) (.divu (f5 w 19) (f5 w 14) (f5 w 9))
  | 0x0E => chk5 (fld w 0 9 = 0) (.rem (f5 w 19) (f5 w 14) (f5 w 9))
  | 0x0F => chk5 (fld w 0 9 = 0) (.remu (f5 w 19) (f5 w 14) (f5 w 9))
  | 0x10 => chk5 (fld w 0 9 = 0) (.min (f5 w 19) (f5 w 14) (f5 w 9))
  | 0x11 => chk5 (fld w 0 9 = 0) (.max (f5 w 19) (f5 w 14) (f5 w 9))
  | 0x12 => chk5 (fld w 0 9 = 0) (.minu (f5 w 19) (f5 w 14) (f5 w 9))
  | 0x13 => chk5 (fld w 0 9 = 0) (.maxu (f5 w 19) (f5 w 14) (f5 w 9))
  | 0x14 => chk5 (fld w 0 9 = 0) (.slt (f5 w 19) (f5 w 14) (f5 w 9))
  | 0x15 => chk5 (fld w 0 9 = 0) (.sltu (f5 w 19) (f5 w 14) (f5 w 9))
  | 0x16 => chk5 (fld w 0 9 = 0) (.seq (f5 w 19) (f5 w 14) (f5 w 9))
  | 0x17 => chk5 (fld w 0 4 = 0) (.sel (f5 w 19) (f5 w 14) (f5 w 9) (f5 w 4))
  | 0x18 => chk5 (fld w 0 14 = 0) (.clz (f5 w 19) (f5 w 14))
  | 0x19 => chk5 (fld w 0 14 = 0) (.ctz (f5 w 19) (f5 w 14))
  | 0x1A => chk5 (fld w 0 14 = 0) (.popc (f5 w 19) (f5 w 14))
  | 0x1B => chk5 (fld w 0 14 = 0) (.brev (f5 w 19) (f5 w 14))
  | 0x1C => chk5 (fld w 3 11 = 0) (.extb (f5 w 19) (f5 w 14) (f3 w 0))
  | 0x1D => chk5 (fld w 3 6 = 0) (.insb (f5 w 19) (f5 w 14) (f5 w 9) (f3 w 0))
  | 0x20 => chk5 true (.addi (f5 w 19) (f5 w 14) (fb w 0 14))
  | 0x21 => chk5 true (.andi (f5 w 19) (f5 w 14) (fb w 0 14))
  | 0x22 => chk5 true (.ori (f5 w 19) (f5 w 14) (fb w 0 14))
  | 0x23 => chk5 true (.xori (f5 w 19) (f5 w 14) (fb w 0 14))
  | 0x27 => chk5 true (.slti (f5 w 19) (f5 w 14) (fb w 0 14))
  | 0x29 => chk5 true (.muli (f5 w 19) (f5 w 14) (fb w 0 14))
  | 0x24 => chk5 (fld w 6 8 = 0) (.shli (f5 w 19) (f5 w 14) (f6 w 0))
  | 0x25 => chk5 (fld w 6 8 = 0) (.shri (f5 w 19) (f5 w 14) (f6 w 0))
  | 0x26 => chk5 (fld w 6 8 = 0) (.sari (f5 w 19) (f5 w 14) (f6 w 0))
  | 0x28 => chk5 true (.lui (f5 w 19) (fb w 0 19))
  | 0x30 => chk5oo (fld w 0 4 = 0) (FFmt.ofCode (fld w 4 2)) (RMode.ofCode (fld w 6 3))
      (fun ft m => .fadd ft m (f5 w 19) (f5 w 14) (f5 w 9))
  | 0x31 => chk5oo (fld w 0 4 = 0) (FFmt.ofCode (fld w 4 2)) (RMode.ofCode (fld w 6 3))
      (fun ft m => .fsub ft m (f5 w 19) (f5 w 14) (f5 w 9))
  | 0x32 => chk5oo (fld w 0 4 = 0) (FFmt.ofCode (fld w 4 2)) (RMode.ofCode (fld w 6 3))
      (fun ft m => .fmul ft m (f5 w 19) (f5 w 14) (f5 w 9))
  | 0x33 => chk5oo (fld w 0 4 = 0) (FFmt.ofCode (fld w 4 2)) (RMode.ofCode (fld w 6 3))
      (fun ft m => .ffma ft m (f5 w 19) (f5 w 14) (f5 w 9))
  | 0x34 => chk5oo (fld w 0 4 = 0) (FFmt.ofCode (fld w 4 2)) (RMode.ofCode (fld w 6 3))
      (fun ft m => .fmin ft m (f5 w 19) (f5 w 14) (f5 w 9))
  | 0x35 => chk5oo (fld w 0 4 = 0) (FFmt.ofCode (fld w 4 2)) (RMode.ofCode (fld w 6 3))
      (fun ft m => .fmax ft m (f5 w 19) (f5 w 14) (f5 w 9))
  | 0x36 => chk5ooo true (FFmt.ofCode (fld w 4 2)) (RMode.ofCode (fld w 6 3)) (FCond.ofCode (fld w 0 4))
      (fun ft m k => .fcmp ft m k (f5 w 19) (f5 w 14) (f5 w 9))
  | 0x37 => chk5ooo (fld w 9 5 = 0) (FFmt.ofCode (fld w 4 2)) (RMode.ofCode (fld w 6 3)) (IntTy.ofCode (fld w 0 4))
      (fun ft m k => .fcvti ft m k (f5 w 19) (f5 w 14))
  | 0x38 => chk5ooo (fld w 9 5 = 0) (FFmt.ofCode (fld w 4 2)) (RMode.ofCode (fld w 6 3)) (CvtSrc.ofCode (fld w 0 4))
      (fun ft m k => .fcvtf ft m k (f5 w 19) (f5 w 14))
  | 0x40 => chk5 (fld w 8 6 = 0) (.sld (f5 w 19) (f8 w 0) (f5 w 14))
  | 0x41 => chk5 (fld w 19 5 = 0 && fld w 8 1 = 0) (.sst (f8 w 0) (f5 w 14) (f5 w 9))
  | 0x50 => chk5 true (.beq (f5 w 19) (f5 w 14) (fb w 0 14))
  | 0x51 => chk5 true (.bne (f5 w 19) (f5 w 14) (fb w 0 14))
  | 0x52 => chk5 true (.blt (f5 w 19) (f5 w 14) (fb w 0 14))
  | 0x53 => chk5 true (.bge (f5 w 19) (f5 w 14) (fb w 0 14))
  | 0x54 => chk5 true (.bltu (f5 w 19) (f5 w 14) (fb w 0 14))
  | 0x55 => chk5 true (.bgeu (f5 w 19) (f5 w 14) (fb w 0 14))
  | 0x56 => chk5 true (.jmp (fb w 0 24))
  | 0x57 => chk5 true (.jal (fb w 0 24))
  | 0x58 => chk5 (fld w 19 5 = 0 && fld w 0 14 = 0) (.jr (f5 w 14))
  | 0x59 => chk5 (fld w 14 5 = 0) (.loop (f5 w 19) (fb w 0 14))
  | 0x5A => chk5 (fld w 0 24 = 0) .endTask
  | 0x5B => chk5 (fld w 19 5 = 0 && fld w 4 10 = 0) (.chk (f5 w 14) (f4 w 0))
  | 0x5C => chk5 (fld w 14 10 = 0) (.phase (fb w 0 14))
  | 0x5D => chk5 (fld w 14 10 = 0) (.uiwin (fb w 0 14))
  | 0x5E => chk5 (fld w 0 24 = 0) .uiret
  | 0x5F => chk5 (fld w 14 10 = 0) (.trap (fb w 0 14))
  | 0x60 => chk5 (fld w 19 5 = 0 && fld w 0 14 = 0) (.rett (f5 w 14))
  | 0x61 => chk5 (fld w 14 10 = 0) (.bkpt (fb w 0 14))
  | 0x62 => chk5o (fld w 14 5 = 0) (SysReg.ofCode (fld w 0 14)) (fun r => .mfs (f5 w 19) r)
  | 0x63 => chk5o (fld w 19 5 = 0) (SysReg.ofCode (fld w 0 14)) (fun r => .mts r (f5 w 14))
  | 0x64 => chk5 (fld w 0 19 = 0) (.rdfc (f5 w 19))
  | 0x65 => chk5 (fld w 8 1 = 0) (.halloc (f8 w 0) (f5 w 19) (f5 w 14) (f5 w 9))
  | 0x66 => chk5 (fld w 8 16 = 0) (.hfree (f8 w 0))
  | 0x67 => chk5 (fld w 9 10 = 0) (.hinfo (f5 w 19) (f8 w 0) ⟨fld w 8 1, fld_lt w 8 1⟩)
  | _ => .bad .illegalOp

/-- A word of S1: opcodes 0x50 to 0x67 are legal in S0 only (R152). -/
def decodeS1 (w : Nat) : Decoded :=
  if 0x50 ≤ fld w 24 8 then .bad .illegalOp else decodeS w

/-- A word of the A slot (R153). -/
def decodeA (w : Nat) : Decoded :=
  match fld w 24 8 with
  | 0x01 => chk5 (fld w 16 4 = 0) (.amov (f4 w 20) (fb w 0 16))
  | 0x02 => chk5 (fld w 16 4 = 0 && fld w 0 11 = 0) (.aget (f5 w 11) (f4 w 20))
  | 0x03 => chk5 (fld w 16 4 = 0) (.aadd (f4 w 20) (fb w 0 16))
  | 0x04 => chk5 (fld w 16 4 = 0 && fld w 0 11 = 0) (.aadds (f4 w 20) (f5 w 11))
  | 0x05 => chk5 (fld w 20 4 = 0 && fld w 0 11 = 0) (.asetb (f4 w 16) (f5 w 11))
  | 0x06 => chk5 (fld w 0 16 = 0) (.ainc (f4 w 20) (f4 w 16))
  | 0x07 => chk5 (fld w 0 16 = 0) (.ainc2 (f4 w 20) (f4 w 16))
  | _ => .bad .illegalOp

/-- A word of a V slot (R154). -/
def decodeV (w : Nat) : Decoded :=
  match fld w 24 8 with
  | 0x01 => chk5o (fld w 3 1 = 0) (RMode.ofCode (fld w 0 3))
      (fun m => .vadd (f5 w 19) (f5 w 14) (f5 w 9) (f3 w 6) (Hold.ofFld (f2 w 4)) m)
  | 0x02 => chk5o (fld w 3 1 = 0) (RMode.ofCode (fld w 0 3))
      (fun m => .vsub (f5 w 19) (f5 w 14) (f5 w 9) (f3 w 6) (Hold.ofFld (f2 w 4)) m)
  | 0x03 => chk5o (fld w 3 1 = 0) (RMode.ofCode (fld w 0 3))
      (fun m => .vmul (f5 w 19) (f5 w 14) (f5 w 9) (f3 w 6) (Hold.ofFld (f2 w 4)) m)
  | 0x04 => chk5o (fld w 3 1 = 0) (RMode.ofCode (fld w 0 3))
      (fun m => .vfma (f5 w 19) (f5 w 14) (f5 w 9) (f3 w 6) (Hold.ofFld (f2 w 4)) m)
  | 0x05 => chk5o (fld w 3 1 = 0) (RMode.ofCode (fld w 0 3))
      (fun m => .vfms (f5 w 19) (f5 w 14) (f5 w 9) (f3 w 6) (Hold.ofFld (f2 w 4)) m)
  | 0x06 => chk5 (fld w 0 4 = 0) (.vmin (f5 w 19) (f5 w 14) (f5 w 9) (f3 w 6) (Hold.ofFld (f2 w 4)))
  | 0x07 => chk5 (fld w 0 4 = 0) (.vmax (f5 w 19) (f5 w 14) (f5 w 9) (f3 w 6) (Hold.ofFld (f2 w 4)))
  | 0x0A => chk5 (fld w 0 4 = 0) (.vand (f5 w 19) (f5 w 14) (f5 w 9) (f3 w 6) (Hold.ofFld (f2 w 4)))
  | 0x0B => chk5 (fld w 0 4 = 0) (.vor (f5 w 19) (f5 w 14) (f5 w 9) (f3 w 6) (Hold.ofFld (f2 w 4)))
  | 0x0C => chk5 (fld w 0 4 = 0) (.vxor (f5 w 19) (f5 w 14) (f5 w 9) (f3 w 6) (Hold.ofFld (f2 w 4)))
  | 0x0D => chk5 (fld w 0 4 = 0) (.vshl (f5 w 19) (f5 w 14) (f5 w 9) (f3 w 6) (Hold.ofFld (f2 w 4)))
  | 0x0E => chk5 (fld w 0 4 = 0) (.vshr (f5 w 19) (f5 w 14) (f5 w 9) (f3 w 6) (Hold.ofFld (f2 w 4)))
  | 0x0F => chk5 (fld w 0 4 = 0) (.vsar (f5 w 19) (f5 w 14) (f5 w 9) (f3 w 6) (Hold.ofFld (f2 w 4)))
  | 0x10 => chk5 (fld w 0 4 = 0) (.vmulh (f5 w 19) (f5 w 14) (f5 w 9) (f3 w 6) (Hold.ofFld (f2 w 4)))
  | 0x11 => chk5 (fld w 0 4 = 0) (.vadds (f5 w 19) (f5 w 14) (f5 w 9) (f3 w 6) (Hold.ofFld (f2 w 4)))
  | 0x12 => chk5 (fld w 0 4 = 0) (.vsubs (f5 w 19) (f5 w 14) (f5 w 9) (f3 w 6) (Hold.ofFld (f2 w 4)))
  | 0x08 => chk5 (fld w 9 5 = 0 && fld w 0 4 = 0) (.vabs (f5 w 19) (f5 w 14) (f3 w 6) (Hold.ofFld (f2 w 4)))
  | 0x09 => chk5 (fld w 9 5 = 0 && fld w 0 4 = 0) (.vneg (f5 w 19) (f5 w 14) (f3 w 6) (Hold.ofFld (f2 w 4)))
  | 0x20 => chk5 (fld w 9 5 = 0 && fld w 0 4 = 0) (.vrcp (f5 w 19) (f5 w 14) (f3 w 6) (Hold.ofFld (f2 w 4)))
  | 0x21 => chk5 (fld w 9 5 = 0 && fld w 0 4 = 0) (.vsqrt (f5 w 19) (f5 w 14) (f3 w 6) (Hold.ofFld (f2 w 4)))
  | 0x22 => chk5 (fld w 9 5 = 0 && fld w 0 4 = 0) (.vrsq (f5 w 19) (f5 w 14) (f3 w 6) (Hold.ofFld (f2 w 4)))
  | 0x23 => chk5 (fld w 9 5 = 0 && fld w 0 4 = 0) (.vexp2 (f5 w 19) (f5 w 14) (f3 w 6) (Hold.ofFld (f2 w 4)))
  | 0x24 => chk5 (fld w 9 5 = 0 && fld w 0 4 = 0) (.vlog2 (f5 w 19) (f5 w 14) (f3 w 6) (Hold.ofFld (f2 w 4)))
  | 0x25 => chk5 (fld w 9 5 = 0 && fld w 0 4 = 0) (.vtanh (f5 w 19) (f5 w 14) (f3 w 6) (Hold.ofFld (f2 w 4)))
  | 0x30 => chk5 (fld w 9 5 = 0 && fld w 0 4 = 0) (.vmov (f5 w 19) (f5 w 14) (f3 w 6) (Hold.ofFld (f2 w 4)))
  | 0x3A => chk5 (fld w 9 5 = 0 && fld w 0 4 = 0) (.vtrn (f5 w 19) (f5 w 14) (f3 w 6) (Hold.ofFld (f2 w 4)))
  | 0x18 => chk5o (fld w 22 2 = 0) (FCond.ofCode (fld w 0 4))
      (fun c => .vcmp (f3 w 19) (f5 w 14) (f5 w 9) (f3 w 6) (Hold.ofFld (f2 w 4)) c)
  | 0x28 => chk5oo true (Tag.ofCode (fld w 9 5)) (RMode.ofCode (fld w 0 3))
      (fun t m => .vcvt (f5 w 19) (f5 w 14) (f3 w 6) (Hold.ofFld (f2 w 4)) t (bit w 3) m)
  | 0x29 => chk5o (fld w 11 3 = 0 && fld w 6 3 = 0 && fld w 3 1 = 0) (RMode.ofCode (fld w 0 3))
      (fun m => .vpack4 (f5 w 19) (f5 w 14) (Hold.ofFld (f2 w 4)) (Sn4Ty.ofFld (f2 w 9)) m)
  | 0x2A => chk5o (fld w 9 5 = 0 && fld w 3 1 = 0) (RMode.ofCode (fld w 0 3))
      (fun m => .vunpack4 (f5 w 19) (f5 w 14) (f3 w 6) (Hold.ofFld (f2 w 4)) m)
  | 0x2B => chk5o (fld w 0 4 = 0) (Tag.ofCode (fld w 9 5))
      (fun t => .vtag (f5 w 19) (f5 w 14) (f3 w 6) (Hold.ofFld (f2 w 4)) t)
  | 0x31 => chk5 (fld w 0 4 = 0) (.vsel (f5 w 19) (f5 w 14) (f5 w 9) (f3 w 6) (Hold.ofFld (f2 w 4)))
  | 0x32 => chk5o (fld w 5 9 = 0) (Tag.ofCode (fld w 0 5)) (fun t => .vbcs (f5 w 19) (f5 w 14) t)
  | 0x33 => chk5 (fld w 13 1 = 0 && fld w 0 4 = 0) (.vbrow (f5 w 19) (f5 w 14) (f4 w 9) (f3 w 6) (Hold.ofFld (f2 w 4)))
  | 0x34 => chk5 (fld w 1 3 = 0) (.vbcol (f5 w 19) (f5 w 14)
      ⟨fld w 9 5 + 32 * fld w 0 1, by have := fld_lt w 9 5; have := fld_lt w 0 1; omega⟩ (f3 w 6) (Hold.ofFld (f2 w 4)))
  | 0x35 => chk5 (fld w 1 3 = 0) (.vrotr (f5 w 19) (f5 w 14)
      ⟨fld w 9 5 + 32 * fld w 0 1, by have := fld_lt w 9 5; have := fld_lt w 0 1; omega⟩ (f3 w 6) (Hold.ofFld (f2 w 4)))
  | 0x36 => chk5 (fld w 13 1 = 0 && fld w 0 4 = 0) (.vrotc (f5 w 19) (f5 w 14) (f4 w 9) (f3 w 6) (Hold.ofFld (f2 w 4)))
  | 0x37 => chk5o (fld w 11 3 = 0 && fld w 0 4 = 0) (RedOp.ofCode (fld w 9 2))
      (fun q => .vredr (f5 w 19) (f5 w 14) q (f3 w 6) (Hold.ofFld (f2 w 4)))
  | 0x38 => chk5o (fld w 11 3 = 0 && fld w 0 4 = 0) (RedOp.ofCode (fld w 9 2))
      (fun q => .vredc (f5 w 19) (f5 w 14) q (f3 w 6) (Hold.ofFld (f2 w 4)))
  | 0x39 => chk5o (fld w 11 3 = 0 && fld w 0 4 = 0) (RedOp.ofCode (fld w 9 2))
      (fun q => .vscanr (f5 w 19) (f5 w 14) q (f3 w 6) (Hold.ofFld (f2 w 4)))
  | 0x3B => chk5 (fld w 0 4 = 0) (.vperm (f5 w 19) (f5 w 14) (f5 w 9) (f3 w 6) (Hold.ofFld (f2 w 4)))
  | 0x3C => chk5 (fld w 14 5 = 0) (.viota (f5 w 19) (fb w 0 14))
  | 0x3D => chk5 (fld w 0 14 = 0) (.vrand (f5 w 19) (f5 w 14))
  | 0x40 => chk5 (fld w 22 2 = 0 && fld w 17 2 = 0 && fld w 12 2 = 0 && fld w 0 9 = 0)
      (.kand (f3 w 19) (f3 w 14) (f3 w 9))
  | 0x41 => chk5 (fld w 22 2 = 0 && fld w 17 2 = 0 && fld w 12 2 = 0 && fld w 0 9 = 0)
      (.kor (f3 w 19) (f3 w 14) (f3 w 9))
  | 0x42 => chk5 (fld w 22 2 = 0 && fld w 17 2 = 0 && fld w 12 2 = 0 && fld w 0 9 = 0)
      (.kxor (f3 w 19) (f3 w 14) (f3 w 9))
  | 0x43 => chk5 (fld w 22 2 = 0 && fld w 17 2 = 0 && fld w 0 14 = 0) (.knot (f3 w 19) (f3 w 14))
  | 0x44 => chk5 (fld w 22 2 = 0 && fld w 0 14 = 0) (.kpop (f5 w 14) (f3 w 19))
  | 0x45 => chk5 (fld w 22 2 = 0 && fld w 14 5 = 0) (.kset (f3 w 19) (fb w 0 14))
  | 0x48 => chk5 (fld w 0 4 = 0) (.vld (f5 w 19) (f8 w 11) (f4 w 7) (f3 w 4))
  | 0x49 => chk5 (fld w 0 4 = 0) (.vst (f5 w 19) (f8 w 11) (f4 w 7) (f3 w 4))
  | 0x4A => chk5 (fld w 0 4 = 0) (.vldx (f5 w 19) (f8 w 11) (f4 w 7) (f3 w 4))
  | 0x4B => chk5 (fld w 0 4 = 0) (.vstx (f5 w 19) (f8 w 11) (f4 w 7) (f3 w 4))
  | 0x4C => chk5 (fld w 0 4 = 0) (.vldb (f5 w 19) (f8 w 11) (f4 w 7) (f3 w 4))
  | _ => .bad .illegalOp

/-- A word of the M slot (R151, R155). -/
def decodeM (w : Nat) : Decoded :=
  let st := fb w 36 20
  match fld w 56 8 with
  | 0x01 => chk5 (fld w 32 4 = 0) (.mcfg st (fb w 0 32))
  | 0x02 => chk5 (fld w 35 1 = 0 && fld w 0 32 = 0) (.mzero st (f3 w 32))
  | 0x03 => chk5 (fld w 35 1 = 0 && fld w 0 24 = 0) (.mload st (f3 w 32) (f8 w 24))
  | 0x04 => chk5 (fld w 34 2 = 0 && fld w 0 24 = 0) (.mlatch st (f2 w 32) (f8 w 24))
  | 0x05 => chk5oo (fld w 18 5 = 0 && fld w 14 2 = 0 && fld w 0 6 = 0)
      (Sel.ofCode (fld w 28 5)) (Sel.ofCode (fld w 23 5))
      (fun a b => .mmul st (f3 w 33) a b (bit w 17) (bit w 16) (f8 w 6))
  | 0x06 => chk5ooo (fld w 14 1 = 0 && fld w 0 6 = 0)
      (Sel.ofCode (fld w 28 5)) (Sel.ofCode (fld w 23 5)) (Sel.ofCode (fld w 18 5))
      (fun a b x => .mmul3 st (f3 w 33) a b x (bit w 17) (bit w 16) (bit w 15) (f8 w 6))
  | 0x07 => chk5 (fld w 35 1 = 0) (.mdrain st (f3 w 32) (f8 w 24) (f8 w 16) (fb w 0 16))
  | 0x08 => chk5 (fld w 35 1 = 0 && fld w 29 3 = 0 && fld w 0 16 = 0)
      (.mdrainv st (f3 w 32) (f5 w 24) (f8 w 16))
  | 0x09 => chk5 (fld w 32 4 = 0 && fld w 0 24 = 0) (.mtile st (f8 w 24))
  | 0x0A => chk5 (fld w 32 4 = 0 && fld w 0 24 = 0) (.mtile3 st (f8 w 24))
  | 0x0B => chk5 (fld w 35 1 = 0 && fld w 16 8 = 0) (.msetf st (f3 w 32) (f8 w 24) (fb w 0 16))
  | 0x0C => chk5 (fld w 16 8 = 0 && fld w 4 12 = 0) (.nset st (f4 w 32) (f8 w 24) (f4 w 0))
  | 0x0D => chk5 (fld w 16 16 = 0) (.nadv st (f4 w 32) (fb w 0 16))
  | 0x0E => chk5 (fld w 16 16 = 0) (.nchk st (f4 w 32) (fb w 0 16))
  | 0x0F => chk5 (fld w 5 31 = 0) (.mstep st (f5 w 0))
  | _ => .bad .illegalOp

/-- The operand of a semaphore form (R243): a register with imm19 zero, or imm19 with the register zero. -/
def semSrc (w : Nat) : Option SemSrc :=
  if fld w 33 3 ≠ 0 then none
  else if fld w 32 1 = 1 then
    if fld w 0 19 = 0 then some (.reg (f5 w 19)) else none
  else if fld w 19 5 = 0 then some (.imm (fb w 0 19)) else none

/-- A word of the E slot (R151, R156). -/
def decodeE (w : Nat) : Decoded :=
  let st := fb w 36 20
  let ch := f2 w 34
  let n := bit w 33
  let hd := f8 w 25
  let na := bit w 35
  let sa := f5 w 26
  let sb := f5 w 21
  let sc := f5 w 16
  match fld w 56 8 with
  | 0x01 => chk5 (fld w 1 24 = 0) (.cpy st ch n hd (Dir.ofBit (bit w 0)))
  | 0x02 => chk5 (fld w 4 21 = 0) (.cpym st ch n hd (Dir.ofBit (bit w 0)) (f3 w 1))
  | 0x03 => chk5 (fld w 0 25 = 0) (.cpyx st ch n hd)
  | 0x04 => chk5o (fld w 10 15 = 0) (CpyaOp.ofCode (fld w 0 4)) (fun q => .cpya st ch n hd q (f6 w 4))
  | 0x05 => chk5 (fld w 8 17 = 0) (.cpyd st ch n hd (f8 w 0))
  | 0x06 => chk5 (fld w 4 21 = 0) (.cpyi st ch n hd (f4 w 0))
  | 0x07 => chk5 (fld w 0 25 = 0) (.cpyc st ch n hd)
  | 0x10 => chk5o (fld w 0 16 = 0) (AmoOp.ofCode (fld w 31 4)) (fun q => .amo st na q sa sb sc)
  | 0x11 => chk5 (fld w 31 4 = 0 && fld w 21 5 = 0 && fld w 0 16 = 0) (.scld st na sa sc)
  | 0x12 => chk5 (fld w 31 4 = 0 && fld w 0 21 = 0) (.scst st na sa sb)
  | 0x13 => chk5o (fld w 0 16 = 0) (AmoOp.ofCode (fld w 31 4)) (fun q => .scamo st na q sa sb sc)
  | 0x18 => chk5o (fld w 0 32 = 0) (Scope.ofCode (fld w 32 4)) (fun q => .fence st q)
  | 0x19 => chk5o (fld w 30 2 = 0) (semSrc w) (fun q => .seminc st (f6 w 24) q)
  | 0x1A => chk5o (fld w 30 2 = 0) (semSrc w) (fun q => .semset st (f6 w 24) q)
  | 0x1B => chk5o (fld w 30 2 = 0) (semSrc w) (fun q => .semchk st (f6 w 24) q)
  | 0x1C => chk5 (fld w 33 3 = 0 && fld w 24 8 = 0 && fld w 0 19 = 0) (.twait st (f5 w 19) (bit w 32))
  | 0x1D => chk5 (fld w 24 12 = 0 && fld w 0 19 = 0) (.tstamp st (f5 w 19))
  | 0x1E => chk5 (fld w 32 4 = 0 && fld w 0 19 = 0) (.realign st (f8 w 24) (f5 w 19))
  | 0x20 => chk5o (fld w 0 12 = 0) (CollOp.ofCode (fld w 12 3))
      (fun q => .coll st (CollKind.ofFld (f2 w 34)) (f2 w 32) (bit w 31) (f8 w 23) (f8 w 15) q)
  | 0x28 => chk5 (fld w 0 6 = 0) (.subon st (f8 w 28) (f8 w 20) (fb w 8 12) (f2 w 6))
  | 0x29 => chk5 (fld w 0 28 = 0) (.suboff st (f8 w 28))
  | 0x2A => chk5 (fld w 0 28 = 0) (.subsync st (f8 w 28))
  | 0x2B => chk5 (fld w 0 12 = 0) (.mcwin st (f8 w 28) (f8 w 20) (f8 w 12))
  | 0x2C => chk5 (fld w 0 28 = 0) (.mcoff st (f8 w 28))
  | 0x30 => chk5 (fld w 0 17 = 0) (.slpwr st (f6 w 30) (f8 w 22) (f5 w 17))
  | 0x31 => chk5 (fld w 0 17 = 0) (.slprd st (f6 w 30) (f8 w 22) (f5 w 17))
  | 0x32 => chk5 (fld w 0 17 = 0) (.slpst st (f6 w 30) (f8 w 22) (f5 w 17))
  | 0x38 => chk5 (fld w 0 23 = 0) (.trace st (fb w 28 8) (f5 w 23))
  | _ => .bad .illegalOp

/-- A word of the X slot (R157). -/
def decodeX (w : Nat) : Decoded :=
  match fld w 24 8 with
  | 0x01 => chk5 (fld w 0 24 = 0) .xbegin
  | 0x02 => chk5 (fld w 0 24 = 0) .xend
  | 0x03 => chk5 true (.xtx (f4 w 20) (f5 w 15) (f4 w 11) (fb w 0 11))
  | 0x04 => chk5 true (.xrx (f4 w 20) (f5 w 15) (f4 w 11) (fb w 0 11))
  | 0x05 => chk5 true (.xsel (f4 w 20) (f4 w 16) (fb w 0 16))
  | _ => .bad .illegalOp

/-- The decoder: the instruction that a slot of kind k holds, or why it holds none (R148 steps 4 and 5, R158). -/
def decodeSlot : Kind → Nat → Decoded
  | .s0, w => decodeS w
  | .s1, w => decodeS1 w
  | .a, w => decodeA w
  | .v0, w => decodeV w
  | .v1, w => decodeV w
  | .m, w => decodeM w
  | .e, w => decodeE w
  | .x, w => decodeX w

/-! ### The encoder -/

/-- The SR layout (R149). -/
def encSR (op d a b f : Nat) : Nat := op * 2 ^ 24 + d * 2 ^ 19 + a * 2 ^ 14 + b * 2 ^ 9 + f
/-- The SI, SB and SS layouts (R149). -/
def encSI (op d a imm : Nat) : Nat := op * 2 ^ 24 + d * 2 ^ 19 + a * 2 ^ 14 + imm
/-- The SU layout (R149). -/
def encSU (op d imm : Nat) : Nat := op * 2 ^ 24 + d * 2 ^ 19 + imm
/-- The SJ layout (R149). -/
def encSJ (op off : Nat) : Nat := op * 2 ^ 24 + off
/-- The AR layout (R149). -/
def encAR (op ad bd s : Nat) : Nat := op * 2 ^ 24 + ad * 2 ^ 20 + bd * 2 ^ 16 + s * 2 ^ 11
/-- The AI layout (R149). -/
def encAI (op ad imm : Nat) : Nat := op * 2 ^ 24 + ad * 2 ^ 20 + imm
/-- The VR layout (R149). -/
def encVR (op vd va vb k h f : Nat) : Nat :=
  op * 2 ^ 24 + vd * 2 ^ 19 + va * 2 ^ 14 + vb * 2 ^ 9 + k * 2 ^ 6 + h * 2 ^ 4 + f
/-- The VM layout (R149). -/
def encVM (op v h a k : Nat) : Nat :=
  op * 2 ^ 24 + v * 2 ^ 19 + h * 2 ^ 11 + a * 2 ^ 7 + k * 2 ^ 4
/-- The M and E layout around a body (R149). -/
def encME (op st body : Nat) : Nat := op * 2 ^ 56 + st * 2 ^ 36 + body
/-- The MH body (R151). -/
def encMH (op st r h1 h2 imm : Nat) : Nat :=
  encME op st (r * 2 ^ 32 + h1 * 2 ^ 24 + h2 * 2 ^ 16 + imm)
/-- The MS body (R151). -/
def encMS (op st c a b w pop kv : Nat) : Nat :=
  encME op st (c * 2 ^ 33 + a * 2 ^ 28 + b * 2 ^ 23 + w * 2 ^ 18 + pop * 2 ^ 15 + kv * 2 ^ 6)
/-- The EC body (R151). -/
def encEC (op st ch n hd aux : Nat) : Nat :=
  encME op st (ch * 2 ^ 34 + n * 2 ^ 33 + hd * 2 ^ 25 + aux)
/-- The EA body (R151). -/
def encEA (op st n q sa sb sc : Nat) : Nat :=
  encME op st (n * 2 ^ 35 + q * 2 ^ 31 + sa * 2 ^ 26 + sb * 2 ^ 21 + sc * 2 ^ 16)
/-- The ES body (R151). -/
def encES (op st sel idx sa imm : Nat) : Nat :=
  encME op st (sel * 2 ^ 32 + idx * 2 ^ 24 + sa * 2 ^ 19 + imm)
/-- The EG body (R151). -/
def encEG (op st kind ch n g hd q : Nat) : Nat :=
  encME op st (kind * 2 ^ 34 + ch * 2 ^ 32 + n * 2 ^ 31 + g * 2 ^ 23 + hd * 2 ^ 15 + q * 2 ^ 12)
/-- The EH body (R151). -/
def encEH (op st h1 h2 core win : Nat) : Nat :=
  encME op st (h1 * 2 ^ 28 + h2 * 2 ^ 20 + core * 2 ^ 8 + win * 2 ^ 6)
/-- The EX body (R151). -/
def encEX (op st x h1 sa : Nat) : Nat := encME op st (x * 2 ^ 30 + h1 * 2 ^ 22 + sa * 2 ^ 17)
/-- The XP layout (R149). -/
def encXP (op port v row count : Nat) : Nat :=
  op * 2 ^ 24 + port * 2 ^ 20 + v * 2 ^ 15 + row * 2 ^ 11 + count

/-- The f field of a scalar float form (R150). -/
def fcode (m : RMode) (ft : FFmt) (lo : Nat) : Nat := m.code * 2 ^ 6 + ft.code * 2 ^ 4 + lo

/-- The ES operand of a semaphore form. -/
def encSem (op st e : Nat) : SemSrc → Nat
  | .reg s => encES op st 1 e s.val 0
  | .imm v => encES op st 0 e 0 v.toNat

/-- The slot kind and the word of an instruction; an event has none. S0 stands for S0 and S1, V0 for V0 and V1. -/
def encode : Instr → Option (Kind × Nat)
  | .add d a b => some (.s0, encSR 0x01 d a b 0)
  | .sub d a b => some (.s0, encSR 0x02 d a b 0)
  | .and d a b => some (.s0, encSR 0x03 d a b 0)
  | .or d a b => some (.s0, encSR 0x04 d a b 0)
  | .xor d a b => some (.s0, encSR 0x05 d a b 0)
  | .shl d a b => some (.s0, encSR 0x06 d a b 0)
  | .shr d a b => some (.s0, encSR 0x07 d a b 0)
  | .sar d a b => some (.s0, encSR 0x08 d a b 0)
  | .mul d a b => some (.s0, encSR 0x09 d a b 0)
  | .mulh d a b => some (.s0, encSR 0x0A d a b 0)
  | .mulhu d a b => some (.s0, encSR 0x0B d a b 0)
  | .div d a b => some (.s0, encSR 0x0C d a b 0)
  | .divu d a b => some (.s0, encSR 0x0D d a b 0)
  | .rem d a b => some (.s0, encSR 0x0E d a b 0)
  | .remu d a b => some (.s0, encSR 0x0F d a b 0)
  | .min d a b => some (.s0, encSR 0x10 d a b 0)
  | .max d a b => some (.s0, encSR 0x11 d a b 0)
  | .minu d a b => some (.s0, encSR 0x12 d a b 0)
  | .maxu d a b => some (.s0, encSR 0x13 d a b 0)
  | .slt d a b => some (.s0, encSR 0x14 d a b 0)
  | .sltu d a b => some (.s0, encSR 0x15 d a b 0)
  | .seq d a b => some (.s0, encSR 0x16 d a b 0)
  | .sel d a b c => some (.s0, encSR 0x17 d a b (c * 2 ^ 4))
  | .clz d a => some (.s0, encSR 0x18 d a 0 0)
  | .ctz d a => some (.s0, encSR 0x19 d a 0 0)
  | .popc d a => some (.s0, encSR 0x1A d a 0 0)
  | .brev d a => some (.s0, encSR 0x1B d a 0 0)
  | .extb d a n => some (.s0, encSR 0x1C d a 0 n)
  | .insb d a b n => some (.s0, encSR 0x1D d a b n)
  | .addi d a imm => some (.s0, encSI 0x20 d a imm.toNat)
  | .andi d a imm => some (.s0, encSI 0x21 d a imm.toNat)
  | .ori d a imm => some (.s0, encSI 0x22 d a imm.toNat)
  | .xori d a imm => some (.s0, encSI 0x23 d a imm.toNat)
  | .slti d a imm => some (.s0, encSI 0x27 d a imm.toNat)
  | .muli d a imm => some (.s0, encSI 0x29 d a imm.toNat)
  | .shli d a n => some (.s0, encSI 0x24 d a n)
  | .shri d a n => some (.s0, encSI 0x25 d a n)
  | .sari d a n => some (.s0, encSI 0x26 d a n)
  | .lui d imm => some (.s0, encSU 0x28 d imm.toNat)
  | .fadd ft m d a b => some (.s0, encSR 0x30 d a b (fcode m ft 0))
  | .fsub ft m d a b => some (.s0, encSR 0x31 d a b (fcode m ft 0))
  | .fmul ft m d a b => some (.s0, encSR 0x32 d a b (fcode m ft 0))
  | .ffma ft m d a b => some (.s0, encSR 0x33 d a b (fcode m ft 0))
  | .fmin ft m d a b => some (.s0, encSR 0x34 d a b (fcode m ft 0))
  | .fmax ft m d a b => some (.s0, encSR 0x35 d a b (fcode m ft 0))
  | .fcmp ft m k d a b => some (.s0, encSR 0x36 d a b (fcode m ft k.code))
  | .fcvti ft m k d a => some (.s0, encSR 0x37 d a 0 (fcode m ft k.code))
  | .fcvtf ft m k d a => some (.s0, encSR 0x38 d a 0 (fcode m ft k.code))
  | .sld d h a => some (.s0, encSR 0x40 d a 0 h)
  | .sst h a b => some (.s0, encSR 0x41 0 a b h)
  | .beq a b off => some (.s0, encSI 0x50 a b off.toNat)
  | .bne a b off => some (.s0, encSI 0x51 a b off.toNat)
  | .blt a b off => some (.s0, encSI 0x52 a b off.toNat)
  | .bge a b off => some (.s0, encSI 0x53 a b off.toNat)
  | .bltu a b off => some (.s0, encSI 0x54 a b off.toNat)
  | .bgeu a b off => some (.s0, encSI 0x55 a b off.toNat)
  | .jmp off => some (.s0, encSJ 0x56 off.toNat)
  | .jal off => some (.s0, encSJ 0x57 off.toNat)
  | .jr a => some (.s0, encSR 0x58 0 a 0 0)
  | .loop a off => some (.s0, encSI 0x59 a 0 off.toNat)
  | .endTask => some (.s0, encSJ 0x5A 0)
  | .chk a ch => some (.s0, encSI 0x5B 0 a ch)
  | .phase n => some (.s0, encSI 0x5C 0 0 n.toNat)
  | .uiwin n => some (.s0, encSI 0x5D 0 0 n.toNat)
  | .uiret => some (.s0, encSJ 0x5E 0)
  | .trap c => some (.s0, encSI 0x5F 0 0 c.toNat)
  | .rett a => some (.s0, encSI 0x60 0 a 0)
  | .bkpt c => some (.s0, encSI 0x61 0 0 c.toNat)
  | .mfs d r => some (.s0, encSI 0x62 d 0 r.code)
  | .mts r a => some (.s0, encSI 0x63 0 a r.code)
  | .rdfc d => some (.s0, encSI 0x64 d 0 0)
  | .halloc h d a b => some (.s0, encSR 0x65 d a b h)
  | .hfree h => some (.s0, encSR 0x66 0 0 0 h)
  | .hinfo d h w => some (.s0, encSR 0x67 d 0 0 (w * 2 ^ 8 + h))
  | .amov ad imm => some (.a, encAI 0x01 ad imm.toNat)
  | .aget s ad => some (.a, encAR 0x02 ad 0 s)
  | .aadd ad imm => some (.a, encAI 0x03 ad imm.toNat)
  | .aadds ad s => some (.a, encAR 0x04 ad 0 s)
  | .asetb bd s => some (.a, encAR 0x05 0 bd s)
  | .ainc ad bd => some (.a, encAR 0x06 ad bd 0)
  | .ainc2 ad bd => some (.a, encAR 0x07 ad bd 0)
  | .vadd vd va vb k h m => some (.v0, encVR 0x01 vd va vb k h.code m.code)
  | .vsub vd va vb k h m => some (.v0, encVR 0x02 vd va vb k h.code m.code)
  | .vmul vd va vb k h m => some (.v0, encVR 0x03 vd va vb k h.code m.code)
  | .vfma vd va vb k h m => some (.v0, encVR 0x04 vd va vb k h.code m.code)
  | .vfms vd va vb k h m => some (.v0, encVR 0x05 vd va vb k h.code m.code)
  | .vmin vd va vb k h => some (.v0, encVR 0x06 vd va vb k h.code 0)
  | .vmax vd va vb k h => some (.v0, encVR 0x07 vd va vb k h.code 0)
  | .vand vd va vb k h => some (.v0, encVR 0x0A vd va vb k h.code 0)
  | .vor vd va vb k h => some (.v0, encVR 0x0B vd va vb k h.code 0)
  | .vxor vd va vb k h => some (.v0, encVR 0x0C vd va vb k h.code 0)
  | .vshl vd va vb k h => some (.v0, encVR 0x0D vd va vb k h.code 0)
  | .vshr vd va vb k h => some (.v0, encVR 0x0E vd va vb k h.code 0)
  | .vsar vd va vb k h => some (.v0, encVR 0x0F vd va vb k h.code 0)
  | .vmulh vd va vb k h => some (.v0, encVR 0x10 vd va vb k h.code 0)
  | .vadds vd va vb k h => some (.v0, encVR 0x11 vd va vb k h.code 0)
  | .vsubs vd va vb k h => some (.v0, encVR 0x12 vd va vb k h.code 0)
  | .vsel vd va vb k h => some (.v0, encVR 0x31 vd va vb k h.code 0)
  | .vperm vd va vb k h => some (.v0, encVR 0x3B vd va vb k h.code 0)
  | .vabs vd va k h => some (.v0, encVR 0x08 vd va 0 k h.code 0)
  | .vneg vd va k h => some (.v0, encVR 0x09 vd va 0 k h.code 0)
  | .vrcp vd va k h => some (.v0, encVR 0x20 vd va 0 k h.code 0)
  | .vsqrt vd va k h => some (.v0, encVR 0x21 vd va 0 k h.code 0)
  | .vrsq vd va k h => some (.v0, encVR 0x22 vd va 0 k h.code 0)
  | .vexp2 vd va k h => some (.v0, encVR 0x23 vd va 0 k h.code 0)
  | .vlog2 vd va k h => some (.v0, encVR 0x24 vd va 0 k h.code 0)
  | .vtanh vd va k h => some (.v0, encVR 0x25 vd va 0 k h.code 0)
  | .vmov vd va k h => some (.v0, encVR 0x30 vd va 0 k h.code 0)
  | .vtrn vd va k h => some (.v0, encVR 0x3A vd va 0 k h.code 0)
  | .vcmp kd va vb k h c => some (.v0, encVR 0x18 kd va vb k h.code c.code)
  | .vcvt vd va k h t sc m => some (.v0, encVR 0x28 vd va t.code k h.code (b2n sc * 2 ^ 3 + m.code))
  | .vpack4 vd va h ty m => some (.v0, encVR 0x29 vd va ty.code 0 h.code m.code)
  | .vunpack4 vd va k h m => some (.v0, encVR 0x2A vd va 0 k h.code m.code)
  | .vtag vd va k h t => some (.v0, encVR 0x2B vd va t.code k h.code 0)
  | .vbcs vd s t => some (.v0, encSI 0x32 vd s t.code)
  | .vbrow vd va row k h => some (.v0, encVR 0x33 vd va row k h.code 0)
  | .vbcol vd va col k h => some (.v0, encVR 0x34 vd va (col % 32) k h.code (col / 32))
  | .vrotr vd va n k h => some (.v0, encVR 0x35 vd va (n % 32) k h.code (n / 32))
  | .vrotc vd va n k h => some (.v0, encVR 0x36 vd va n k h.code 0)
  | .vredr vd va q k h => some (.v0, encVR 0x37 vd va q.code k h.code 0)
  | .vredc vd va q k h => some (.v0, encVR 0x38 vd va q.code k h.code 0)
  | .vscanr vd va q k h => some (.v0, encVR 0x39 vd va q.code k h.code 0)
  | .viota vd imm => some (.v0, encSI 0x3C vd 0 imm.toNat)
  | .vrand vd s => some (.v0, encSI 0x3D vd s 0)
  | .kand kd ka kb => some (.v0, encVR 0x40 kd ka kb 0 0 0)
  | .kor kd ka kb => some (.v0, encVR 0x41 kd ka kb 0 0 0)
  | .kxor kd ka kb => some (.v0, encVR 0x42 kd ka kb 0 0 0)
  | .knot kd ka => some (.v0, encVR 0x43 kd ka 0 0 0 0)
  | .kpop s ka => some (.v0, encSI 0x44 ka s 0)
  | .kset kd n => some (.v0, encSI 0x45 kd 0 n.toNat)
  | .vld v h a k => some (.v0, encVM 0x48 v h a k)
  | .vst v h a k => some (.v0, encVM 0x49 v h a k)
  | .vldx v h a k => some (.v0, encVM 0x4A v h a k)
  | .vstx v h a k => some (.v0, encVM 0x4B v h a k)
  | .vldb v h a k => some (.v0, encVM 0x4C v h a k)
  | .mcfg st w => some (.m, encME 0x01 st.toNat w.toNat)
  | .mzero st c => some (.m, encMH 0x02 st.toNat c 0 0 0)
  | .mload st c h => some (.m, encMH 0x03 st.toNat c h 0 0)
  | .mlatch st l h => some (.m, encMH 0x04 st.toNat l h 0 0)
  | .mmul st c a b pa pb kv =>
      some (.m, encMS 0x05 st.toNat c a.code b.code 0 (b2n pa * 4 + b2n pb * 2) kv)
  | .mmul3 st c a b w pa pb pw kv =>
      some (.m, encMS 0x06 st.toNat c a.code b.code w.code (b2n pa * 4 + b2n pb * 2 + b2n pw) kv)
  | .mdrain st c ho hd off => some (.m, encMH 0x07 st.toNat c ho hd off.toNat)
  | .mdrainv st c vd hd => some (.m, encMH 0x08 st.toNat c vd hd 0)
  | .mtile st h => some (.m, encMH 0x09 st.toNat 0 h 0 0)
  | .mtile3 st h => some (.m, encMH 0x0A st.toNat 0 h 0 0)
  | .msetf st f h off => some (.m, encMH 0x0B st.toNat f h 0 off.toNat)
  | .nset st n h d => some (.m, encMH 0x0C st.toNat n h 0 d)
  | .nadv st n c => some (.m, encMH 0x0D st.toNat n 0 0 c.toNat)
  | .nchk st n c => some (.m, encMH 0x0E st.toNat n 0 0 c.toNat)
  | .mstep st s => some (.m, encMH 0x0F st.toNat 0 0 0 s)
  | .cpy st ch n hd d => some (.e, encEC 0x01 st.toNat ch (b2n n) hd d.code)
  | .cpym st ch n hd d f => some (.e, encEC 0x02 st.toNat ch (b2n n) hd (f * 2 + d.code))
  | .cpyx st ch n hd => some (.e, encEC 0x03 st.toNat ch (b2n n) hd 0)
  | .cpya st ch n hd q e => some (.e, encEC 0x04 st.toNat ch (b2n n) hd (e * 2 ^ 4 + q.code))
  | .cpyd st ch n hd hc => some (.e, encEC 0x05 st.toNat ch (b2n n) hd hc)
  | .cpyi st ch n hd q => some (.e, encEC 0x06 st.toNat ch (b2n n) hd q)
  | .cpyc st ch n hd => some (.e, encEC 0x07 st.toNat ch (b2n n) hd 0)
  | .amo st n q sa sb sc => some (.e, encEA 0x10 st.toNat (b2n n) q.code sa sb sc)
  | .scld st n sa sc => some (.e, encEA 0x11 st.toNat (b2n n) 0 sa 0 sc)
  | .scst st n sa sb => some (.e, encEA 0x12 st.toNat (b2n n) 0 sa sb 0)
  | .scamo st n q sa sb sc => some (.e, encEA 0x13 st.toNat (b2n n) q.code sa sb sc)
  | .fence st q => some (.e, encES 0x18 st.toNat q.code 0 0 0)
  | .seminc st e x => some (.e, encSem 0x19 st.toNat e x)
  | .semset st e x => some (.e, encSem 0x1A st.toNat e x)
  | .semchk st e x => some (.e, encSem 0x1B st.toNat e x)
  | .twait st sa z => some (.e, encES 0x1C st.toNat (b2n z) 0 sa 0)
  | .tstamp st sd => some (.e, encES 0x1D st.toNat 0 0 sd 0)
  | .realign st g sa => some (.e, encES 0x1E st.toNat 0 g sa 0)
  | .coll st k ch n g hd q => some (.e, encEG 0x20 st.toNat k.code ch (b2n n) g hd q.code)
  | .subon st hl hp c w => some (.e, encEH 0x28 st.toNat hl hp c.toNat w)
  | .suboff st h => some (.e, encEH 0x29 st.toNat h 0 0 0)
  | .subsync st h => some (.e, encEH 0x2A st.toNat h 0 0 0)
  | .mcwin st hs ht g => some (.e, encEH 0x2B st.toNat hs ht (g * 2 ^ 4) 0)
  | .mcoff st h => some (.e, encEH 0x2C st.toNat h 0 0 0)
  | .slpwr st x h sa => some (.e, encEX 0x30 st.toNat x h sa)
  | .slprd st x h sa => some (.e, encEX 0x31 st.toNat x h sa)
  | .slpst st x h sa => some (.e, encEX 0x32 st.toNat x h sa)
  | .trace st ty sa => some (.e, encME 0x38 st.toNat (ty.toNat * 2 ^ 28 + sa * 2 ^ 23))
  | .xbegin => some (.x, encXP 0x01 0 0 0 0)
  | .xend => some (.x, encXP 0x02 0 0 0 0)
  | .xtx q v row n => some (.x, encXP 0x03 q v row n.toNat)
  | .xrx q v row n => some (.x, encXP 0x04 q v row n.toNat)
  | .xsel q r n => some (.x, 0x05 * 2 ^ 24 + q * 2 ^ 20 + r * 2 ^ 16 + n.toNat)
  | _ => none

/-! ### Words of the opcode table -/

/-- The first kind, of those whose slots are n bytes long, in which a word is an instruction (log 6). -/
def kindOfWord (nbits w : Nat) : Option Kind :=
  let ok := fun k => match decodeSlot k w with
    | .ok _ => true
    | .bad _ => false
  if nbits = 32 then [Kind.s0, .a, .v0, .x].find? ok
  else if nbits = 64 then [Kind.m, .e].find? ok
  else none

/-- The instruction that the decoder reads from a table word of nbits bits (the fixed name of the host). -/
def decodeTableWord (nbits w : Nat) : Option Instr :=
  match kindOfWord nbits w with
  | some k => match decodeSlot k w with
    | .ok i => some i
    | .bad _ => none
  | none => none

end Sys2Proof
end

