-- ==== Sys2Proof/Machine/State.lean ====
section
/-! DEFINITION. The state of the package: plain data, holding every piece of state that the spec gives the
machine (INVENTORY.md, State), the reasons a step can stop, and the state after module reset. Time is
counted in units of 1/65,536 of 1/13 tick, in which a timebase cycle, a tick and NPER are whole. -/

namespace Sys2Proof.Machine

open Sys2Proof

/-- A map from numbers, as a list of pairs with rising keys. -/
abbrev AMap (α : Type) := List (Nat × α)

/-- A memory: bytes by address, addresses rising, no entry equal to what an unlisted address reads as. -/
abbrev Mem := List Host.Cell

/-! ### Registers of a core -/

/-- The scalar and address registers (R159, R160, R171, R182). -/
structure Scalar where
  s : Vector W64 32
  sh : Vector W64 8
  a : Vector W32 16
  b : Vector W64 16
  wrap : Vector W32 16
  lc : W64
  ls : W64
  le : W64
  seed : W64
  uivec : W64
  deriving DecidableEq, Repr

/-- STATUS and the registers of traps (R179, R292 to R295); `rdCause` to `rdEpc` record what the handler has
read, for EARLY (R299); `flBits` are the flags raised so far in cycle `flAt`, for an MTS that commits in it (R112). -/
structure TrapRegs where
  status : W64
  cause : W64
  faddr : W64
  epc : W64
  cause2 : W64
  faddr2 : W64
  svec : W64
  ssp : W64
  tngp : W64
  ngp : W64
  rdCause : Bool
  rdFaddr : Bool
  rdEpc : Bool
  flAt : Nat
  flBits : BitVec 6
  deriving DecidableEq, Repr

/-- A fault of a completion that no CHK has raised yet (R61): the number of the completion on its channel,
the cause code and FADDR. -/
structure Unraised where
  ch : Nat
  num : W32
  code : Nat
  faddr : W64
  deriving DecidableEq, Repr

/-- Counters, semaphores, DCR, Tilth table and identity of a core (R57, R60, R72, R73, R243, R278). -/
structure Counters where
  cc : Vector W32 16
  cbase : Vector W32 16
  sem : Vector W32 64
  dcr : Vector W64 16
  g : Nat
  gm : W64
  launchid : BitVec 16
  tilth : AMap Nat
  unraised : List Unraised
  deriving DecidableEq, Repr

/-- A vector register or a hold latch: its containers in element order (an empty list is all zeros), its tag
and its scale area (R101, R102, R185). -/
structure VReg where
  data : List W32
  tag : Tag
  sc : Bool
  teo : BitVec 8
  scales : List Byte
  deriving DecidableEq, Repr

/-- Vector registers, masks and the hold latches of V0 and V1 (R185). -/
structure VecRegs where
  v : Vector VReg 32
  k : Vector Mask 8
  la : Vector VReg 2
  lb : Vector VReg 2
  deriving DecidableEq, Repr

/-- An accumulator (R208): element (i, j) at i * 32 + j; an empty list is all +0. -/
structure Acc where
  data : List W32
  tag : Tag
  sat : Bool
  deriving DecidableEq, Repr

/-- A stationary latch (R208, R214). -/
structure Latch where
  rows : Nat
  cols : Nat
  data : List W32
  tag : Tag
  sc : Bool
  teo : BitVec 8
  scales : List Byte
  deriving DecidableEq, Repr

/-- A slot of a ring that a copy in flight holds (R235): the copy, and whether it has completed with OK while an earlier one
has not. -/
structure RingResv where
  cmd : Nat
  done : Bool
  deriving DecidableEq, Repr

/-- An operand ring (R208, R215). -/
structure Ring where
  bound : Bool
  view : Nat
  index : Nat
  depth : Nat
  rows : Nat
  cols : Nat
  head : BitVec 16
  tail : BitVec 16
  resv : List RingResv
  deriving DecidableEq, Repr

/-- A cube command in the follow-on queue (R226). -/
structure FollowCmd where
  word : W64
  pc : W64
  deriving DecidableEq, Repr

/-- What the cube pipe is executing (R211): from when and for how many cycles, the lines it reads by bank, the
accumulator it writes, the rings, views and entries it reads, the rings it pops, the flags it raises at its
retirement, whether its completion is counted on channel 8, and the cycle in which it, or the macro tile that it is part of,
was issued. -/
structure PipeCmd where
  start : Nat
  len : Nat
  banks : List (Nat × Nat)
  acc : Option Nat
  rings : List Nat
  views : List Nat
  ents : List Nat
  pops : List Nat
  flags : BitVec 6
  follow : Bool
  issued : Nat
  deriving DecidableEq, Repr

/-- A drain in progress (R221): its issue cycle, the lines it writes by bank, the view and the entry of the handle that it writes
(none for MDRAINV), the views and the entries that it reads, the bytes of the image that commit, the flags, whether it is counted on
channel 8, the cycle of its issue or of its macro tile's, and the cycles by which a macro tile's last drain ends later (R223). -/
structure DrainCmd where
  start : Nat
  banks : List (Nat × Nat)
  pc : W64
  out : Option (Nat × Nat)
  rviews : List Nat
  rents : List Nat
  bytes : List MByte
  flags : BitVec 6
  follow : Bool
  issued : Nat
  late : Nat
  deriving DecidableEq, Repr

/-- A macro tile in progress (R223 to R225): the captured descriptor and configuration, the tile, the command
within it, the cycle of the tile's start, the cycle of the next command, and whether the sequencer stops at the
next tile; the views that it reads, and the cycle of its issue. -/
structure MacroTile where
  tri : Bool
  pc : W64
  desc : List Byte
  ccfg : W32
  q : Nat
  step : Nat
  start : Nat
  next : Nat
  hold : Bool
  follow : Bool
  rviews : List Nat
  issued : Nat
  deriving DecidableEq, Repr

/-- An accumulator as MSTEP and the debugger still see it (R211): its number, the value that a step has since changed, that step's bundle
and order, and the cycle from which the old value is seen no longer: six after the step's retirement, none while it executes. -/
structure OldAcc where
  n : Nat
  val : Acc
  pc : W64
  seq : Nat
  till : Option Nat
  deriving DecidableEq, Repr

/-- The cube (R208, R211). `olds` are the accumulators that a step has changed unseen, oldest first. -/
structure Cube where
  acc : Vector Acc 8
  lat : Vector Latch 4
  rings : Vector Ring 16
  fol : Vector W64 8
  ccfg : W32
  qidx : W32
  queue : List FollowCmd
  pipe : Option PipeCmd
  drainUntil : Nat
  drains : List DrainCmd
  mtile : Option MacroTile
  olds : List OldAcc
  deriving DecidableEq, Repr

/-! ### The tile store and its tables -/

/-- A tile-table entry: its two words (R76). -/
structure TEntry where
  w0 : W64
  w1 : W64
  deriving DecidableEq, Repr

/-- A view (R79). -/
structure View where
  b : Bool
  gen : BitVec 8
  index : BitVec 8
  deriving DecidableEq, Repr

/-- The tile table, the views and the bytes of the tile store, byte b of line l of bank k at
k * 65536 + l * 64 + b (R75 to R79). -/
structure Tile where
  ents : Vector TEntry 256
  views : Vector View 256
  mem : Mem
  deriving DecidableEq, Repr

/-! ### What is in flight in a core -/

/-- Where a pending write goes (R160, R308). -/
inductive PDest where
  | s (n : Nat) | sh (n : Nat) | a (n : Nat) | b (n : Nat) | wrap (n : Nat)
  | v (n : Nat) | k (n : Nat) | la (u : Nat) | lb (u : Nat)
  | e (n : Nat) | sys (r : SysReg) | flags | ccfg | ring (n : Nat) | fol (n : Nat)
  deriving DecidableEq, Repr

/-- What a pending write carries. `vr` writes the active elements of a register and its tag; `rowZero` zeros elements and leaves the
tag and the scale area (R259); `semInc` and `adv` add to what is there. -/
inductive PVal where
  | w (x : W64)
  | vr (x : VReg) (m : Mask)
  | rowZero (m : Mask)
  | mask (x m : Mask)
  | semSet (x : W32)
  | semInc (x : W32)
  | ringIs (r : Ring)
  | adv (n : Nat)
  deriving DecidableEq, Repr

/-- A pending write (R160, R161): the cycle it lands in, or the cycles left while it is frozen; the order of
its instruction and the slot kind, and the bundle it came from. -/
structure PWrite where
  due : Nat
  seq : Nat
  kind : Nat
  pc : W64
  dest : PDest
  val : PVal
  deriving DecidableEq, Repr

/-- What a load reads in its bank cycle (R168, R204, R256). -/
inductive LoadKind where
  | sld (e : Nat)
  | vld (a : Nat) | vldb (a : Nat) | vldx (row : Nat) (idx : List Nat)
  | slp (id : Nat) (off : Nat) (n : Nat)
  deriving DecidableEq, Repr

/-- An access of an issued slot to the tile store that has its own cycle, with the entry as it stood at
issue: a load's read, which fills the pending write of the same order, or a store's commit. -/
inductive TAct where
  | load (view : Nat) (ent : TEntry) (l : LoadKind)
  | commit (view : Nat) (index : Nat) (ent : TEntry) (bytes : List MByte)
  deriving DecidableEq, Repr

/-- A tile-store access that is due (R169, R206, R268). -/
structure TOp where
  due : Nat
  seq : Nat
  kind : Nat
  pc : W64
  act : TAct
  deriving DecidableEq, Repr

/-- The line of a multicast landing to come: its target view, the size of its image, its launch, and the line of the image (R255). -/
structure McUse where
  view : Nat
  size : Nat
  launch : Nat
  line : Nat
  deriving DecidableEq, Repr

/-- A bank cycle taken: by a multicast landing to come (class 0, whose bank and line follow from `mc`), a timed slot access (class 1),
an access of a cube command that is over (class 2, its place in `seq`), or an asynchronous access that has been served (class 3 or 4)
(R85). -/
structure Claim where
  cyc : Nat
  bank : Nat
  line : Nat
  seq : Nat
  cls : Nat
  mc : Option McUse
  deriving DecidableEq, Repr

/-- A request of an asynchronous requester for a bank (R71, R85): who asks (a copy channel below 4, then 4 the subscription receiver
and 5 to 7 the link receiver, with a number of its own), since which cycle, and the cycle in which it takes part; whether the phase sets
of that cycle have let it pass (R277), and for a beat the entry, with its GEN, that its view was resolved to when it came (R83). -/
structure BankReq where
  id : Nat × Nat
  bank : Nat
  since : Nat
  ready : Option Nat
  passed : Bool
  got : Option (Nat × BitVec 8 × TEntry)
  deriving DecidableEq, Repr

/-- What a store or a drain that has committed held until then: its cycle, its engine, the views that it read and wrote, and the entries
that a drain named; in the cycle of its commit it is still in flight (R81, R270). -/
structure DoneAcc where
  cyc : Nat
  eng : Nat
  rd : List Nat
  wr : List Nat
  ents : List Nat
  deriving DecidableEq, Repr

/-- Units that issued instructions occupy (R162, R186, R22): busy until before the cycle named. -/
structure Units where
  divU : Vector Nat 2
  vU : Vector Nat 2
  fpm : Nat
  ports : List (Nat × Nat × Nat)
  deriving DecidableEq, Repr

/-- Everything in flight in the issue pipelines of a core: pending writes that count, those frozen by a trap, and those
frozen by a stop (R161); `reqs` are the requests that wait for a bank, `turns` the requester last served of a bank and class (R85),
`done` the stores and drains that commit in the present cycle (R270); `groups` counts the groups that have issued (R306); `vtags` holds
for a vector register the tag of the last instruction issued to write it (R188). -/
structure Flight where
  regs : List PWrite
  frozen : List PWrite
  stopped : List PWrite
  ops : List TOp
  claims : List Claim
  reqs : List BankReq
  turns : AMap Nat
  done : List DoneAcc
  units : Units
  vtags : AMap (Tag × Bool × BitVec 8)
  seq : Nat
  groups : Nat
  deriving DecidableEq, Repr

/-- An XTX, XRX or XSEL in progress (R259, R260): 0, 1 or 2; its ports, register, first row, count, next row,
the cycle of its next row, its order and its bundle. -/
structure XCmd where
  op : Nat
  port : Nat
  port2 : Nat
  v : Nat
  row : Nat
  count : Nat
  j : Nat
  at_ : Nat
  seq : Nat
  pc : W64
  deriving DecidableEq, Repr

/-- The exchange port (R258 to R261): the phase flag, its commands, and rows arriving by port and cycle. -/
structure Xchg where
  on : Bool
  cmds : List XCmd
  arrive : List (Nat × Nat × VReg)
  saved : Bool
  savedCmds : List XCmd
  deriving DecidableEq, Repr

/-! ### Engines of a core -/

/-- The forms of a copy (R231). -/
inductive CopyOp where
  | inn | out | x | red (op : CpyaOp) (e : Nat) | huff (table : List Byte) | input (port : Nat) | loc
  deriving DecidableEq, Repr

/-- The fields of a copy descriptor (R230). -/
structure CDesc where
  va : W64
  loff : Nat
  foff : Nat
  n0 : Nat
  n1 : Nat
  n2 : Nat
  ls1 : Int
  ls2 : Int
  fs1 : Int
  fs2 : Int
  lv : Nat
  fv : Nat
  fcore : Nat
  ring : Bool
  ringn : Nat
  deriving DecidableEq, Repr

/-- A request on its way to its target: its VA, its DPA, the page entry it was translated with (R93), and the log2 of that page's size. -/
structure Req where
  va : Nat
  dpa : Nat
  pte : W64
  size : Nat
  deriving DecidableEq, Repr

/-- A copy command of a channel (R229 to R238). `startC` is the cycle from which it is counted as executing, `pos` counts bytes moved in
transfer order, `lset` the destination lines touched, `acc` says that all its accesses are accepted, `perf` that all are performed,
`offDie` that the latest goes to another die, `buf` is the line on its way, `bits` the coded stream or unit that has come so far, `table`
the view and the entry of a code table. -/
structure CopyCmd where
  id : Nat
  op : CopyOp
  fol : Option Nat
  notify : Bool
  pc : W64
  priv : Bool
  g : Nat
  view : Nat
  desc : CDesc
  dindex : Nat
  lindex : Nat
  findex : Nat
  slot : Nat
  waits : List Nat
  started : Bool
  startC : Nat
  pos : Nat
  lset : List Nat
  code : Nat
  faddr : W64
  buf : List Byte
  bits : List Byte
  rq : Option Req
  acc : Bool
  offDie : Bool
  perf : Bool
  table : Option (Nat × Nat)
  rent : Option (Nat × BitVec 8)
  flags : BitVec 6
  deriving DecidableEq, Repr

/-- An AMO or an SC operation (R239 to R241). `w0` is the position time of an SC operation, `seq` its place in issue order, `landed`
that its old value has landed. -/
structure AmoCmd where
  id : Nat
  op : AmoOp
  isLoad : Bool
  isStore : Bool
  addr : W64
  opnd : W64
  cmp : W64
  dest : Nat
  shadow : Bool
  notify : Bool
  pc : W64
  priv : Bool
  g : Nat
  waits : List Nat
  w0 : Nat
  issued : Bool
  offDie : Bool
  performed : Bool
  seq : Nat
  landed : Bool
  old : W64
  code : Nat
  faddr : W64
  flags : BitVec 6
  rq : Option Req
  deriving DecidableEq, Repr

/-- A fence in flight (R242, R284): the commands it covers. Slot stores that have committed are performed. -/
structure FenceRec where
  id : Nat
  scope : Scope
  covers : List Nat
  pc : W64
  deriving DecidableEq, Repr

/-- The rendezvous check of R287: the fence judged, the instant it completed, the tick of the TWAIT and its bundle;
before the TWAIT the tick is absent. -/
structure Rendez where
  fence : Nat
  done : Option Nat
  tick : Option W64
  pc : W64
  deriving DecidableEq, Repr

/-- A COLL of a core (R247): its instance, its descriptor, the instant and the generation of its issue, and its
progress; how it ends, with the lines written and the flags, once that is settled and its status word waits for its bank. -/
structure CollCmd where
  id : Nat
  ch : Nat
  inst : Nat
  notify : Bool
  pc : W64
  priv : Bool
  view : Nat
  dindex : Nat
  sva : W64
  dva : W64
  count : Nat
  waits : List Nat
  t0 : Nat
  g : Nat
  sent : Bool
  code : Option Nat
  faddr : W64
  lines : Nat
  flags : BitVec 6
  counts : Bool
  deriving DecidableEq, Repr

/-- A trace or slip-crossing send of a core that a fence covers until it is done (R242): a record, or the elements for a crossing once
they are read, with the view and the entry of their handle; the instant of its issue, and that at which it arrives, once it has left. `hw`
marks a record that the hardware writes, which no fence covers and which waits for the core's records before it (R291). -/
structure MiscSend where
  id : Nat
  waits : List Nat
  record : Option TraceRec
  x : Nat
  src : Option (Nat × Nat)
  vals : Option (List W32)
  t0 : Nat
  at_ : Option Nat
  hw : Bool
  deriving DecidableEq, Repr

/-- A result of SLPRD or SLPST on its way to the handle (R256): the fences it waits for, the cycle in which the crossing is
read, where it lands, what is read there, and the lines still to land. -/
structure SlipRes where
  id : Nat
  waits : List Nat
  view : Nat
  index : Nat
  x : Nat
  n : Nat
  off : Nat
  status : Bool
  sent : Bool
  got : Option (List W32)
  todo : Option (List Nat)
  deriving DecidableEq, Repr

/-- The engines of a core. `acks` are the COLLs whose Kamrex or Ethernet send is not acknowledged (R284); `nextId` numbers commands and
fences; `lastPerf` is the instant at which an access of the core was last performed (R287); `collK` counts COLLs by group. -/
structure Engines where
  chans : Vector (List CopyCmd) 4
  amos : List AmoCmd
  scs : List AmoCmd
  wheel : List Nat
  lastPos : Nat
  fences : List FenceRec
  rendez : List Rendez
  colls : Vector (List CollCmd) 4
  collK : AMap Nat
  misc : List MiscSend
  slips : List SlipRes
  acks : List Nat
  nextId : Nat
  lastPerf : Nat
  tlb : List (Nat × Nat × Nat × W64)
  deriving DecidableEq, Repr

/-- State of a subscriber entry (R251, R254). -/
inductive SubSt where
  | pending | active | closing
  deriving DecidableEq, Repr

/-- A subscriber entry (R251): the captured entry of the local view. -/
structure SubEnt where
  view : Nat
  index : Nat
  gen : BitVec 8
  pub : Nat
  pview : Nat
  win : Nat
  st : SubSt
  pc : W64
  deriving DecidableEq, Repr

/-- An open batch window (R252): when it closes, and the bytes written in it. -/
structure BatchWin where
  closeAt : Nat
  bytes : List (Nat × Byte)
  deriving DecidableEq, Repr

/-- A publisher's forward entry (R251 to R254); `sent` counts batches on their way, `lineFree` is the first cycle
in which another line of the entry may land (R273), `fresh` is the number of batches sent before the resync
that has followed the subscriber's stop. -/
structure FwdEnt where
  sub : Nat
  slot : Nat
  view : Nat
  index : Nat
  gen : BitVec 8
  win : Nat
  open_ : Option BatchWin
  stale : Bool
  batch : Nat
  lineFree : Nat
  fresh : Option Nat
  deriving DecidableEq, Repr

/-- A batch sent: its forward entry, its number, and when it is acknowledged, once it has landed (R254). -/
structure SubBatch where
  fwd : Nat
  batch : Nat
  ackAt : Option Nat
  deriving DecidableEq, Repr

/-- A SUBSYNC in flight (R254): the batches it waits for, as forward slot and batch number. -/
structure SubSync where
  id : Nat
  waits : List (Nat × Nat)
  notify : Bool
  deriving DecidableEq, Repr

/-- A multicast window (R255). -/
structure McWin where
  index : Nat
  gen : BitVec 8
  group : Nat
  target : Nat
  from_ : Nat
  pc : W64
  deriving DecidableEq, Repr

/-- Subscriptions and multicast windows of a core. `dropRest` names batches whose later lines are suppressed
(R277), `inflight` the batches sent. -/
structure Subs where
  subs : AMap SubEnt
  fwds : AMap FwdEnt
  syncs : List SubSync
  inflight : List SubBatch
  mcs : List McWin
  dropRest : List (Nat × Nat)
  deriving DecidableEq, Repr

/-! ### Tasks, phases and the sequencer of a core -/

/-- A task of a core (R55); its start is held as an instant (R66). -/
structure TaskEnt where
  entry : W64
  start : Nat
  timed : Bool
  phase : Nat
  ccrel : Bool
  deriving DecidableEq, Repr

/-- A phase descriptor (R63): CMODE and the read and write sets of the nine engines. -/
structure PDesc where
  async : Bool
  rd : List (BitVec 256)
  wr : List (BitVec 256)
  deriving DecidableEq, Repr

/-- Tasks, pinned text and phases of a core (R55, R63, R64, R86). `mark` is the number of the next engine command and the cycle when the
phase was loaded: commands before it carry their views into the phase; `icache` holds the lines of untimed code in the instruction cache,
by VA in lines, the latest first (R86). -/
structure Prog where
  tasks : List TaskEnt
  cur : Option TaskEnt
  text : List (Nat × List Byte)
  descs : AMap PDesc
  phase : Option (Nat × PDesc)
  mark : Nat × Nat
  firstDone : Bool
  icache : List (Nat × List Byte)
  deriving DecidableEq, Repr

/-- States of a core (R305). -/
inductive CSt where
  | idle | run | wait | trap | halt | suspend | stopped | haltedDf
  deriving DecidableEq, Repr

/-- What a core idles for (R302). -/
inductive IdleKind where
  | none | gap | stamp | twait | uiwin
  deriving DecidableEq, Repr

/-- The sequencer and the clock of a core. While it counts, CIF at cycle r is cif + (r - ref); else it is cif; `atEnd` says that the frame
that it counts has come to its end, and none has followed it (R32). `reach` is the cycle of the next act of the sequencer, `pc` the first
byte of the group then reached; `dir` is what the committed slots of a faulted group still direct when it completes (1 END, 2 UIRET, 3
UIWIN, 4 TWAIT); `lead` is the cycles that a core stopped before its first cycle has still to wait, `realign` the ticks of REALIGNs to
come (R49); `twLate` is the lateness of the TWAIT in ticks, `twBase` is the first byte of the TWAIT's group, `twBack` the TWAIT that a trapped group has committed; `reenter` and `target`
are the slot and the directed next group of a group that is re-entered; `held` are faults to be raised by the next group, as cause, FADDR
and cycle (R277, R224); `late` is a LATE_START for the next group, and whether SLOTRES keeps its value (R68); `stepDue` is a step trap
that waits for an idle of TWAIT or of a window to end (R307); `reachedAt` is the cycle in which a group that idles for its stamp was
reached; `heldAt` is the cycle in which a debugger's step has ended, while nothing of the core advances (R306), and `brk` says that the
core has stopped at a breakpoint under a debugger, to go on from EPC and SLOTRES (R309). -/
structure Seq where
  st : CSt
  pc : W64
  reach : Nat
  armed : Bool
  idle : Nat
  kind : IdleKind
  twLeave : Option (W64 × Bool)
  twLate : Nat
  twPc : W64
  twBase : W64
  twBack : Option (W64 × Bool × W64)
  reenter : Option Nat
  target : Option W64
  counting : Bool
  cif : W32
  atEnd : Bool
  fn : BitVec 48
  ref : Nat
  lead : Nat
  realign : List Nat
  epoch : Nat
  launch : Option Nat
  region : Option Nat
  gang : Option Nat
  held : List (Nat × W64 × Nat)
  late : Option (W64 × Bool)
  stepDue : Bool
  reachedAt : Nat
  frozenAt : Nat
  handlerFrom : Nat
  dir : Nat
  heldAt : Option Nat
  brk : Bool
  deriving DecidableEq, Repr

/-- User-interrupt windows (R69, R70): the last cycle of the open window, when and by which bundle it was
opened, the pending completions as the time they became pending and the channel, whether a window ended in a
handler, and the cycles left of a window set aside at a stop. -/
structure Ui where
  win : Option Nat
  opened : Nat
  pc : W64
  pend : List (Nat × Nat)
  overrun : Bool
  saved : Nat
  ret : W64
  deriving DecidableEq, Repr

/-- The debugger's registers (R305). -/
structure Dbg where
  attach : Bool
  tick : W32
  deriving DecidableEq, Repr

/-- A core. -/
structure Core where
  sc : Scalar
  tr : TrapRegs
  ct : Counters
  vec : VecRegs
  cube : Cube
  tile : Tile
  fl : Flight
  x : Xchg
  eng : Engines
  sub : Subs
  prog : Prog
  seq : Seq
  ui : Ui
  dbg : Dbg
  deriving DecidableEq, Repr

/-! ### Regions, gangs, launches -/

/-- States of a region (R36). -/
inductive RSt where
  | running | held | stopped | relocking
  deriving DecidableEq, Repr

/-- A region of an admitted launch (R28 to R38). `per` cycles last `len`, and cycle r begins `(r - anchorR) * len / per` after anchorT;
`fbase` is the first cycle of the present frame; `reads` numbers the port frame that it reads, `lastOrder` the last one that it has taken.
-/
structure Region where
  launch : Nat
  desc : RegionDesc
  st : RSt
  anchorT : Nat
  anchorR : Nat
  len : Nat
  per : Nat
  fbase : Nat
  fn : BitVec 48
  started : Bool
  lastLand : Nat
  lockLeft : Option Nat
  locked : Bool
  jitter : Bool
  gated : Bool
  reads : Option Nat
  lastOrder : Nat
  deriving DecidableEq, Repr

/-- States of a gang (R65 to R68). -/
inductive GSt where
  | running | stopping | saving | saved | restoring | halting | halted
  deriving DecidableEq, Repr

/-- A gang (R56, R65 to R68, R297, R303); `step` is the debugger's step in progress, 1 STEP, 2 STEPG, and `stepSum` what its
cores had issued before it (R306); `dbgT` is the instant at which a HALT stops the cores that are in their handlers (R305). -/
structure Gang where
  launch : Nat
  num : Nat
  cores : List Nat
  st : GSt
  stopT : Nat
  haltT : Nat
  trapped : List Nat
  retts : List (Nat × Nat)
  ended : List Nat
  lastRett : Nat
  lastRettT : Nat
  restartT : Nat
  saved : AMap Core
  resumeT : Nat
  wantBy : Option Nat
  drops : Nat
  byDebug : Bool
  step : Nat
  stepSum : Nat
  dbgT : Nat
  df : Bool
  deriving DecidableEq, Repr

/-- States of a launch (R53). -/
inductive LSt where
  | admitting | running | aborting | retired
  deriving DecidableEq, Repr

/-- Statuses of a completion record (R52, R320). -/
inductive LStatus where
  | ok | lateStart | regionConfig | launchConfig | doubleFault | aborted
  deriving DecidableEq, Repr

/-- A launch taken from a queue (R51 to R54). -/
structure Launch where
  ctx : Nat
  queue : Nat
  prio : Nat
  img : Image
  st : LSt
  status : LStatus
  preempted : List Nat
  deriving DecidableEq, Repr

/-- A participant of a collective instance (R248). -/
structure CollPart where
  core : Nat
  rank : Nat
  cmd : Nat
  pc : W64
  data : Option (List W32)
  deriving DecidableEq, Repr

/-- States of a collective instance (R248, R249). -/
inductive CollSt where
  | open_ | sent | merged | aborted | mismatch
  deriving DecidableEq, Repr

/-- A collective instance (R248): instance k of group g of a launch. -/
structure CollInst where
  launch : Nat
  g : Nat
  k : Nat
  kind : CollKind
  op : CollOp
  count : Nat
  xcid : Nat
  root : Nat
  deadline : W64
  m : Nat
  devRank : Nat
  devCount : Nat
  parts : List CollPart
  remote : AMap (List W32)
  st : CollSt
  deriving DecidableEq, Repr

/-! ### Dies, I/O dies and the package -/

/-- A target's access table and denial log (R97): an absent entry is zero. -/
structure TargetSt where
  table : AMap (BitVec 128)
  log : List (Nat × Nat × Nat)
  deriving DecidableEq, Repr

/-- A line record of the race detector (R279). -/
structure RaceRec where
  g : Nat
  writer : Option Nat
  readers : List Nat
  manyR : Bool
  atomics : List Nat
  manyA : Bool
  deriving DecidableEq, Repr

/-- A value that a write has replaced in a word of a line: the word, the instant, and the value (R281). -/
structure OldWord where
  word : Nat
  at_ : Nat
  val : W32
  deriving DecidableEq, Repr

/-- What racing reads of a line of device memory may still find (R281): the launch whose engines have written the line, their plain
writes as generation and core, and the values replaced since that launch began to write it, oldest first. -/
structure LineHist where
  launch : Nat
  writers : List (Nat × Nat)
  olds : List OldWord
  deriving DecidableEq, Repr

/-- A migration in progress (R96): the page's context and VA, where its entry lies, the log2 of its size, its old and its new DPA
(in the interleaved view in LPDDR-G6), its KEY, its state (0 COPYING, 1 LOCKED, 2 FORWARDING), dirty lines, and the requests held at
the old home and at the new one. -/
structure Migr where
  ctx : Nat
  va : Nat
  pteAt : Nat
  size : Nat
  old : Nat
  new : Nat
  key : Nat
  st : Nat
  dirty : List Nat
  held : List Instr
  direct : List Instr
  deriving DecidableEq, Repr

/-- Trace registers of a die (R339), the records accepted and not yet performed, and the instant at which TRRD was last moved on
(R340). -/
structure TraceSt where
  ctl : W64
  head : W64
  done : W64
  overrun : Bool
  rd : BitVec 63
  dropped : BitVec 48
  queue : List (Nat × TraceRec)
  snap : Nat
  deriving DecidableEq, Repr

/-- A compute die (R94, R96, R99, R279, R339); `ivlEnd` is the end of the counting interval in progress. -/
structure Die where
  tlb : List (Nat × Nat × Nat × W64)
  migctl : W64
  ivlEnd : Nat
  counts : AMap (List Nat)
  migr : List Migr
  reqcnt : Vector (BitVec 48) 9
  race : AMap RaceRec
  satG : Option Nat
  tr : TraceSt
  deriving DecidableEq, Repr

/-- A port frame (R327): its bytes, the tick of its last sample. -/
structure PortFrame where
  bytes : List Byte
  q : Nat
  tick : Nat
  order : Nat
  deriving DecidableEq, Repr

/-- A frame slot of a port (R35). -/
inductive FrameSlot where
  | empty | ready (f : PortFrame) | inUse (f : PortFrame)
  deriving DecidableEq, Repr

/-- A unit of the input engine (R333): its header and data, and its status. -/
structure InUnit where
  bytes : List Byte
  code : Nat
  deriving DecidableEq, Repr

/-- An item accepted from a port's item queue and not yet ready (R329): its bytes, its sample index, the port's SPCFG and
AUGCFG at its acceptance with that tick, and the code of the check that rejects it, 0 for none (R330). -/
structure Item where
  bytes : List Byte
  idx : W32
  spcfg : W64
  augcfg : W64
  tick : Nat
  code : Nat
  deriving DecidableEq, Repr

/-- A stream port (R35, R326 to R334). `rx` holds the samples of the frame being assembled, and `taint` says that one of them
arrived before lock; `order` counts frames that have landed; `ivl` and `ivl2` are the last two intervals between edges, 0 where there
is none. -/
structure Port where
  spcfg : W64
  spsid : W64
  splim : W64
  splim2 : W64
  augcfg : W64
  iqctl : W64
  iqhead : W32
  iqtail : W32
  rx : List (List W32)
  taint : Bool
  slots : FrameSlot × FrameSlot
  order : Nat
  edges : Bool
  lastEdge : Nat
  ivl : Nat
  ivl2 : Nat
  items : List Item
  units : List InUnit
  taken : W32
  deriving DecidableEq, Repr

/-- A producer sample of a crossing (R43, R45). -/
structure XSample where
  i : Nat
  t : Nat
  vals : List W32
  deriving DecidableEq, Repr

/-- What a delivery of a crossing found (R44): its instant, its number, the offset, and STALE and the run of stale deliveries before it. -/
structure Delivered where
  at_ : Nat
  n : Nat
  soff : Int
  stale : Nat
  run : Nat
  deriving DecidableEq, Repr

/-- A slip crossing (R42 to R46). Ticks are held in the units of `State.now`, arrivals as whole ticks; `run` counts the deliveries of the
current run of stale ones, and `was` is the last delivery, while the tick in which it lies may still bring samples (log 39). -/
structure Crossing where
  launch : Nat
  desc : CrossDesc
  inst : Nat
  recv : Nat
  soff : Int
  t0 : Int
  xs : List XSample
  last : Option (List W32)
  ys : List (Nat × List W32)
  nextN : Nat
  deliv : Nat
  stale : Nat
  slip : Nat
  run : Nat
  was : Option Delivered
  reanchor : Bool
  deriving DecidableEq, Repr

/-- A partition context of a command processor (R20, R54, R87, R92, R312, R325, R347, R352). -/
structure Ctx where
  dies : List Nat
  topo : Topology
  steer : W64
  xcids : List XcidCtx
  ptbase : W64
  trapvec : W64
  trapstk : W64
  pcap : W64
  origins : Vector Nat 4
  deriving DecidableEq, Repr

/-- A command queue (R52, R320). -/
structure CmdQueue where
  ctl : W64
  head : W32
  tail : W32
  deriving DecidableEq, Repr

/-- What disciplines the PTC (R323), with the instant at which holdover began and a number of its own (log 4). -/
inductive Discipline where
  | none | ptp (port : Nat) | pins | holdover (since key : Nat)
  deriving DecidableEq, Repr

/-- A request translated before its entry was invalidated, by its core, its command and its place in it (R95). -/
structure Outst where
  core : Nat
  cmd : Nat
  pos : Nat
  deriving DecidableEq, Repr

/-- A shootdown awaiting acknowledgements (R95): the VA range, the dies to come, those that have invalidated their entries, the
requests that these have still to bring home, the migration it serves, as its die and its old DPA. -/
structure Shoot where
  id : Nat
  ctx : Nat
  lo : Nat
  hi : Nat
  dies : List Nat
  seen : List Nat
  pend : List (Nat × Outst)
  migr : Option (Nat × Nat)
  deriving DecidableEq, Repr

/-- A voltage-table entry of an island (R346): frequency in kHz, millivolts, milliwatts. -/
structure VEntry where
  khz : Nat
  mv : Nat
  mw : Nat
  deriving DecidableEq, Repr

/-- Registers and units of the package as a whole; `ptp` and `ptpBound` hold, by Ethernet port, the master that it hears and the bound that
its messages give (R322); `fuseV` holds the table of each island, `islandMv` the voltage of those that are set, the others being held at
retention voltage (R346); `ageHist` holds the WEAR of each monitor since 1000 hours ago, `ageN` the updates made (R342); `fw` the firmware
images with their signatures, with the key that verifies them, the device identity key and its certificate chain (R343). -/
structure Pkg where
  hdie : Nat
  hcause : Bool
  down : BitVec 36
  auth : BitVec 2
  lost0 : Bool
  lost2 : Bool
  lattab : List Nat
  bootst : W64
  ptcerr : W64
  disc : Discipline
  ptp : AMap PtpSet
  ptpBound : AMap W64
  keys : AMap (BitVec 512)
  cxlBase : W64
  cxlSize : W64
  link : Nat × Nat
  planesDown : BitVec 36
  fuseV : AMap (List VEntry)
  islandMv : AMap Nat
  ageI : AMap W64
  ageS : AMap W64
  ageHist : AMap (List (Nat × Nat))
  ageN : Nat
  fw : List (List Byte × List Byte)
  fwKey : List Byte
  devKey : List Byte
  chain : List (List Byte)
  report : List Byte
  hostRead : List Byte
  mgmtStatus : Nat
  deriving DecidableEq, Repr

/-! ### What is due -/

/-- An act of the machine that is no row of the table of its own: part of a row's effect that has its own
instant (log 5). -/
inductive Micro where
  | tileOps (c : Nat) (epoch : Nat)
  | bringUp (stage : Nat)
  | stopBroadcast (l : Nat)
  | tryPreempt (g : Nat)
  | tryResume (g : Nat)
  | count (c : Nat) (ch : Nat) (fault : Option (Nat × W64))
  | semInc (c : Nat) (e : Nat) (x : W32)
  | phaseLoad (c : Nat) (d : Nat)
  | kick (c : Nat)
  | frameLast (c : Nat)
  | handlerHalt (g : Nat)
  | lostFreeze (c : Nat)
  | sampleEdge (p : Nat)
  | closeAll (c : Nat)
  | scLeave (c : Nat) (id : Nat)
  | sendAcked (l : Nat) (c : Nat) (id : Nat)
  deriving DecidableEq, Repr

/-- What is done when its time comes. -/
inductive Act where
  | ev (i : Instr)
  | mi (m : Micro)
  deriving DecidableEq, Repr

/-- An entry of the agenda: its instant, its rank within the instant (log 5), and what is done. -/
structure Due where
  t : Nat
  rank : Nat
  act : Act
  deriving DecidableEq, Repr

/-- A fetched slot of the group that issues: its kind number, its word and the first byte of its bundle. -/
structure SlotWord where
  kind : Nat
  word : Nat
  bundle : W64
  deriving DecidableEq, Repr

/-- The issue group whose slots are being issued, in kind order (R144): the core, the group's first byte and
the byte after it, the slots to come, the slot that issues now, where control goes after the group, and
whether the group ends the task or returns from a handler. -/
structure Issue where
  active : Bool
  core : Nat
  base : W64
  next : W64
  slots : List SlotWord
  cur : SlotWord
  target : Option W64
  ends : Bool
  s0pc : W64
  back : Option (W64 × W64)
  uiret : Bool
  twait : Option Nat
  uiwin : Option Nat
  deriving DecidableEq, Repr

/-- The state of the package. `lineKeys` holds, for a line of HBM or LPDDR-G6 by canonical DPA, the keys under which it was last
written (R98): `mem` holds its bytes as an access under those keys reads them; `hist` what racing reads of a line may find (R281). -/
structure State where
  now : Nat
  freeCtr : Nat
  agenda : List Due
  issue : Issue
  pkg : Pkg
  ctxs : Vector Ctx 8
  queues : AMap CmdQueue
  images : AMap Image
  launches : AMap Launch
  regions : AMap Region
  gangs : AMap Gang
  insts : AMap CollInst
  cores : AMap Core
  dies : AMap Die
  targets : AMap TargetSt
  ports : Vector Port 16
  cross : AMap Crossing
  shoots : List Shoot
  mem : Mem
  lineKeys : AMap (BitVec 512)
  hist : AMap LineHist
  nextKey : Nat
  deriving DecidableEq, Repr

/-! ### Why a step can stop -/

/-- Faults of the model: the machine stops. -/
inductive Fault where
  /-- Raised by HOST_DMA and CXL_HOST_ACCESS for an address that R90 and R321 give no target. Safe: the spec
  says that nothing is there, and no rule says what the host then sees. -/
  | noTarget
  deriving DecidableEq, Repr

/-- Refusals of the model: no meaning is given. -/
inductive Refusal where
  /-- Raised by the arms of `exec` for an instruction that has no meaning yet. Safe: nothing can be
  proved of what it does. -/
  | notModelled (mnemonic : String)
  deriving DecidableEq, Repr

/-! ### The state after module reset -/

/-- A vector register that is zero with tag NONE (R185). -/
def VReg.zero : VReg := ⟨[], .none, false, 0, []⟩

/-- Scalar registers at reset: zero (log 1). -/
def Scalar.init : Scalar where
  s := Vector.replicate 32 0
  sh := Vector.replicate 8 0
  a := Vector.replicate 16 0
  b := Vector.replicate 16 0
  wrap := Vector.replicate 16 0
  lc := 0
  ls := 0
  le := 0
  seed := 0
  uivec := 0

/-- STATUS has SLOTRES 15 and all else 0 at reset (R179); SVEC and SSP are 0 (R352); CAUSE is 0 (R292);
the others are the model's choice (log 1). -/
def TrapRegs.init : TrapRegs where
  status := 0xF
  cause := 0
  faddr := 0
  epc := 0
  cause2 := 0
  faddr2 := 0
  svec := 0
  ssp := 0
  tngp := BitVec.allOnes 64
  ngp := 0
  rdCause := false
  rdFaddr := false
  rdEpc := false
  flAt := 0
  flBits := 0

/-- DCR and GM are 0 at reset (R57, R73); the counters are the model's choice (log 1). -/
def Counters.init : Counters where
  cc := Vector.replicate 16 0
  cbase := Vector.replicate 16 0
  sem := Vector.replicate 64 0
  dcr := Vector.replicate 16 0
  g := 0
  gm := 0
  launchid := 0
  tilth := []
  unraised := []

/-- Vector state at reset (log 1). -/
def VecRegs.init : VecRegs where
  v := Vector.replicate 32 .zero
  k := Vector.replicate 8 0
  la := Vector.replicate 2 .zero
  lb := Vector.replicate 2 .zero

/-- An unbound ring (R208). -/
def Ring.unset : Ring := ⟨false, 0, 0, 0, 0, 0, 0, 0, []⟩

/-- The cube at reset (R208). -/
def Cube.init : Cube where
  acc := Vector.replicate 8 ⟨[], .none, false⟩
  lat := Vector.replicate 4 ⟨0, 0, [], .none, false, 0, []⟩
  rings := Vector.replicate 16 .unset
  fol := Vector.replicate 8 0
  ccfg := 0
  qidx := 0
  queue := []
  pipe := none
  drainUntil := 0
  drains := []
  mtile := none
  olds := []

/-- Tile table, views and tile store at reset (R76, R79). -/
def Tile.init : Tile where
  ents := Vector.replicate 256 ⟨0, 0⟩
  views := Vector.replicate 256 ⟨false, 0, 0⟩
  mem := []

/-- Nothing in flight. -/
def Flight.init : Flight where
  regs := []
  frozen := []
  stopped := []
  ops := []
  claims := []
  reqs := []
  turns := []
  done := []
  units := ⟨Vector.replicate 2 0, Vector.replicate 2 0, 0, []⟩
  vtags := []
  seq := 0
  groups := 0

/-- No engine work. -/
def Engines.init : Engines where
  chans := Vector.replicate 4 []
  amos := []
  scs := []
  wheel := []
  lastPos := 0
  fences := []
  rendez := []
  colls := Vector.replicate 4 []
  collK := []
  misc := []
  slips := []
  acks := []
  nextId := 0
  lastPerf := 0
  tlb := []

/-- An idle sequencer. -/
def Seq.init : Seq where
  st := .idle
  pc := 0
  reach := 0
  armed := false
  idle := 0
  kind := .none
  twLeave := none
  twLate := 0
  twPc := 0
  twBase := 0
  twBack := none
  reenter := none
  target := none
  counting := false
  cif := 0
  atEnd := false
  fn := 0
  ref := 0
  lead := 0
  realign := []
  epoch := 0
  launch := none
  region := none
  gang := none
  held := []
  late := none
  stepDue := false
  reachedAt := 0
  frozenAt := 0
  handlerFrom := 0
  dir := 0
  heldAt := none
  brk := false

/-- A core after module reset. -/
def Core.init : Core where
  sc := .init
  tr := .init
  ct := .init
  vec := .init
  cube := .init
  tile := .init
  fl := .init
  x := ⟨false, [], [], false, []⟩
  eng := .init
  sub := ⟨[], [], [], [], [], []⟩
  prog := ⟨[], none, [], [], none, (0, 0), false, []⟩
  seq := .init
  ui := ⟨none, 0, 0, [], false, 0, 0⟩
  dbg := ⟨false, 0⟩

/-- A die after module reset (R96, R99, R339). -/
def Die.init : Die where
  tlb := []
  migctl := 0
  ivlEnd := 0
  counts := []
  migr := []
  reqcnt := Vector.replicate 9 0
  race := []
  satG := none
  tr := ⟨0, 0, 0, false, 0, 0, [], 0⟩

/-- A stream port after module reset (R326, R349). -/
def Port.init : Port where
  spcfg := 0
  spsid := 0
  splim := 0
  splim2 := 0
  augcfg := 0
  iqctl := 0
  iqhead := 0
  iqtail := 0
  rx := []
  taint := false
  slots := (.empty, .empty)
  order := 0
  edges := false
  lastEdge := 0
  ivl := 0
  ivl2 := 0
  items := []
  units := []
  taken := 0

/-- A partition context after module reset (R54, R92, R352; the rest log 1). -/
def Ctx.init : Ctx where
  dies := []
  topo := .mesh
  steer := 0
  xcids := []
  ptbase := 0
  trapvec := 0
  trapstk := 0
  pcap := 0
  origins := Vector.replicate 4 0

/-- The package after module reset: fuses by log 2, bring-up not begun (R348). The latency table is filled when
the fuses are read. -/
def Pkg.init : Pkg where
  hdie := 8
  hcause := false
  down := 0
  auth := 0
  lost0 := false
  lost2 := false
  lattab := []
  bootst := 0
  ptcerr := 0
  disc := .none
  ptp := []
  ptpBound := []
  keys := []
  cxlBase := 0
  cxlSize := 0
  link := (0, 0)
  planesDown := 0
  fuseV := (List.range 72).map (fun i => (i, List.replicate 16 ⟨1300000, 0, 0⟩))
  islandMv := []
  ageI := []
  ageS := []
  ageHist := []
  ageN := 0
  fw := (List.range 3).map (fun i => (Config.firmware i, Config.firmwareSig i))
  fwKey := Config.firmwareKey
  devKey := Config.deviceKey
  chain := Config.certificates
  report := []
  hostRead := []
  mgmtStatus := 0

/-- No group is being issued. -/
def Issue.none : Issue where
  active := false
  core := 0
  base := 0
  next := 0
  slots := []
  cur := ⟨0, 0, 0⟩
  target := Option.none
  ends := false
  s0pc := 0
  back := Option.none
  uiret := false
  twait := Option.none
  uiwin := Option.none

/-- The machine right after module reset (R348): every register at its reset value, bring-up begins. -/
def State.reset : State where
  now := 0
  freeCtr := 0
  agenda := [⟨0, 0, .mi (.bringUp 1)⟩]
  issue := .none
  pkg := .init
  ctxs := Vector.replicate 8 .init
  queues := []
  images := []
  launches := []
  regions := []
  gangs := []
  insts := []
  cores := []
  dies := []
  targets := []
  ports := Vector.replicate 16 .init
  cross := []
  shoots := []
  mem := []
  lineKeys := []
  hist := []
  nextKey := 1

end Sys2Proof.Machine
end

