-- ==== Sys2Proof/Machine/Bits.lean ====
section
/-! DEFINITION. Bit fields of registers, sign extension, little-endian bytes, maps and memories: what every
other file reads and writes by. -/

namespace Sys2Proof.Machine

open Sys2Proof

/-! ### Fields of registers -/

/-- Bits [lo + n - 1 : lo] of a register, as a number. -/
def getF {w : Nat} (x : BitVec w) (lo n : Nat) : Nat := fld x.toNat lo n

/-- One bit of a register. -/
def getB {w : Nat} (x : BitVec w) (i : Nat) : Bool := x.getLsbD i

/-- A register with bits [lo + n - 1 : lo] set to a number. -/
def setF {w : Nat} (x : BitVec w) (lo n v : Nat) : BitVec w :=
  let keep := ~~~ (BitVec.ofNat w ((2 ^ n - 1) * 2 ^ lo))
  (x &&& keep) ||| BitVec.ofNat w (v % 2 ^ n * 2 ^ lo)

/-- A register with one bit set to a truth value. -/
def setB {w : Nat} (x : BitVec w) (i : Nat) (v : Bool) : BitVec w := setF x i 1 (b2n v)

/-- The number of n bits read as two's complement. -/
def sxt (n v : Nat) : Int := if 2 * (v % 2 ^ n) < 2 ^ n then (v % 2 ^ n : Nat) else (v % 2 ^ n : Nat) - (2 ^ n : Nat)

/-- An integer as a word, modulo 2^w. -/
def ofI (w : Nat) (i : Int) : BitVec w := BitVec.ofInt w i

/-- Ceiling division. -/
def cdiv (a b : Nat) : Nat := (a + b - 1) / b

/-! ### Bytes (R5) -/

/-- The n bytes of a number, lowest first. -/
def leBytes : Nat → Nat → List Byte
  | 0, _ => []
  | n + 1, v => BitVec.ofNat 8 v :: leBytes n (v / 256)

/-- The number that bytes give, lowest first. -/
def ofLe : List Byte → Nat
  | [] => 0
  | b :: r => b.toNat + 256 * ofLe r

/-! ### Maps -/

/-- The value under a key. -/
def AMap.get? {α : Type} : AMap α → Nat → Option α
  | [], _ => none
  | (k', v) :: r, k => if k = k' then some v else AMap.get? r k

/-- A map with a value under a key. -/
def AMap.put {α : Type} : AMap α → Nat → α → AMap α
  | [], k, v => [(k, v)]
  | (k', v') :: r, k, v =>
    if k < k' then (k, v) :: (k', v') :: r
    else if k = k' then (k, v) :: r
    else (k', v') :: AMap.put r k v

/-- A map without a key. -/
def AMap.del {α : Type} (m : AMap α) (k : Nat) : AMap α := m.filter (fun p => p.1 ≠ k)

/-- A map with a value changed, if it is there. -/
def AMap.upd {α : Type} (m : AMap α) (k : Nat) (f : α → α) : AMap α :=
  match AMap.get? m k with
  | some v => AMap.put m k (f v)
  | none => m

/-! ### Memories -/

/-- What an address that a memory does not list reads as (log 3; R79 for tile stores). -/
def Mem.unlisted : Byte := 0

/-- The byte at an address. -/
def Mem.read (m : Mem) (a : Nat) : Byte := (AMap.get? m a).getD Mem.unlisted

/-- A memory with a byte at an address: writing what an unlisted address reads as removes the entry. -/
def Mem.write (m : Mem) (a : Nat) (b : Byte) : Mem :=
  if b = Mem.unlisted then AMap.del m a else AMap.put m a b

/-- The canonical form: addresses strictly rising, no entry that an unlisted address would read as. -/
def Mem.wf : Mem → Bool
  | [] => true
  | (_, b) :: [] => b ≠ Mem.unlisted
  | (a, b) :: (a', b') :: r => b ≠ Mem.unlisted && a < a' && Mem.wf ((a', b') :: r)

/-- Bytes written one after the other, each at its own address. -/
def Mem.writes (m : Mem) : List (Nat × Byte) → Mem
  | [] => m
  | (a, b) :: r => Mem.writes (Mem.write m a b) r

/-- n bytes from an address on. -/
def Mem.bytes (m : Mem) (a n : Nat) : List Byte := (List.range n).map (fun i => Mem.read m (a + i))

/-- The little-endian number of n bytes at an address. -/
def Mem.num (m : Mem) (a n : Nat) : Nat := ofLe (Mem.bytes m a n)

/-- Bytes laid from an address on. -/
def layAt (a : Nat) (bs : List Byte) : List (Nat × Byte) := (bs.zipIdx).map (fun p => (a + p.2, p.1))

/-! ### Lists -/

/-- A list sorted into place by a key, after the entries of the same key. -/
def insertBy {α : Type} (key : α → Nat) (x : α) : List α → List α
  | [] => [x]
  | y :: r => if key x < key y then x :: y :: r else y :: insertBy key x r

/-- The first entry that satisfies a test, and the list without it. -/
def takeFirst {α : Type} (p : α → Bool) : List α → Option (α × List α)
  | [] => none
  | x :: r =>
    if p x then some (x, r)
    else match takeFirst p r with
      | some (y, r') => some (y, x :: r')
      | none => none

/-- A list with every entry that satisfies a test changed. -/
def mapIf {α : Type} (p : α → Bool) (f : α → α) (l : List α) : List α :=
  l.map (fun x => if p x then f x else x)

end Sys2Proof.Machine
end

