-- ==== Sys2Proof/Machine/Num.lean ====
section
/-! DEFINITION. Number formats and arithmetic (R100 to R121): exact values as dyadic numbers, one rounding
function for every float format, the flags of R112, SN4 and block scaling, and the special functions. -/

namespace Sys2Proof.Machine

open Sys2Proof

/-! ### Flags (R112), in the order of STATUS[21:16] -/

/-- A set of flags: bit 0 NV, 1 DZ, 2 OF, 3 UF, 4 NX, 5 SAT. -/
abbrev Flags := BitVec 6

def flNV : Flags := 1
def flDZ : Flags := 2
def flOF : Flags := 4
def flUF : Flags := 8
def flNX : Flags := 16
def flSAT : Flags := 32

/-- A flag when a condition holds. -/
def flIf (b : Bool) (f : Flags) : Flags := if b then f else 0

/-! ### Values -/

/-- An exact value: NaN (signalling or not), infinity, or ± m × 2^e with the sign of a zero kept. -/
inductive FVal where
  | nan (sig : Bool)
  | inf (neg : Bool)
  | fin (neg : Bool) (m : Nat) (e : Int)
  deriving DecidableEq, Repr

def FVal.isNan : FVal → Bool
  | .nan _ => true
  | _ => false

def FVal.isSig : FVal → Bool
  | .nan s => s
  | _ => false

def FVal.isZero : FVal → Bool
  | .fin _ m _ => m = 0
  | _ => false

/-- The value with its sign flipped. -/
def FVal.neg : FVal → FVal
  | .nan s => .nan s
  | .inf n => .inf (!n)
  | .fin n m e => .fin (!n) m e

def FVal.sign : FVal → Bool
  | .nan _ => false
  | .inf n => n
  | .fin n _ _ => n

/-- An integer as an exact value. -/
def FVal.ofInt (i : Int) : FVal := .fin (i < 0) i.natAbs 0

/-- The value times 2^k. -/
def FVal.scale (k : Int) : FVal → FVal
  | .fin n m e => .fin n m (e + k)
  | v => v

/-- A float format (R100): precision with the leading bit, exponent of the smallest normal, width, the code of
the largest finite magnitude, and whether it has infinities and NaNs. -/
structure Fmt where
  p : Nat
  emin : Int
  w : Nat
  maxCode : Nat
  ieee : Bool
  deriving DecidableEq, Repr

def fmt32 : Fmt := ⟨24, -126, 32, 0x7F7FFFFF, true⟩
def fmtBf16 : Fmt := ⟨8, -126, 16, 0x7F7F, true⟩
def fmt16 : Fmt := ⟨11, -14, 16, 0x7BFF, true⟩
def fmtE4m3 : Fmt := ⟨4, -6, 8, 0x7F, false⟩
def fmtE5m2 : Fmt := ⟨3, -14, 8, 0x7F, false⟩

/-- The canonical quiet NaN (R111). -/
def Fmt.nanCode (f : Fmt) : Nat := f.maxCode + 1 + 2 ^ (f.p - 2)

/-- The value of a code (R100). -/
def Fmt.decode (f : Fmt) (c : Nat) : FVal :=
  let neg := bit c (f.w - 1)
  let mag := fld c 0 (f.w - 1)
  let e := mag / 2 ^ (f.p - 1)
  let m := mag % 2 ^ (f.p - 1)
  if f.ieee && f.maxCode < mag then
    if mag = f.maxCode + 1 then .inf neg else .nan (m < 2 ^ (f.p - 2))
  else if e = 0 then .fin neg m (f.emin - (f.p - 1 : Nat))
  else .fin neg (2 ^ (f.p - 1) + m) (f.emin - (f.p - 1 : Nat) + ((e : Nat) - 1 : Int))

/-! ### The generator (R110) -/

/-- G(key, c). -/
def genG (key c : Nat) : Nat :=
  let m := 2 ^ 32
  let h := (c * 0x9E3779B1 + key) % m
  let h := Nat.xor h (h / 2 ^ 16)
  let h := h * 0x85EBCA6B % m
  let h := Nat.xor h (h / 2 ^ 13)
  let h := h * 0xC2B2AE35 % m
  Nat.xor h (h / 2 ^ 16)

/-- The G of SR for the element of linear index i (R109). -/
def srG (seed : W64) (i : Nat) : Nat :=
  genG (fld seed.toNat 0 32) ((fld seed.toNat 32 32 + i) % 2 ^ 32)

/-! ### Rounding -/

/-- Whether the magnitude q + r/den, q an integer and r < den, rounds away from zero (R104, R109). -/
def roundsUp (mode : RMode) (g : Nat) (neg odd : Bool) (r den : Nat) : Bool :=
  match mode with
  | .rne => den < 2 * r || (2 * r = den && odd)
  | .rtz => false
  | .rdn => neg && r ≠ 0
  | .rup => !neg && r ≠ 0
  | .rna => r ≠ 0 && den ≤ 2 * r
  | .sr => r ≠ 0 && g < r * 2 ^ 32 / den

/-- The magnitude num/den rounded to an integer, and whether it was inexact. -/
def roundNat (mode : RMode) (g : Nat) (neg : Bool) (num den : Nat) : Nat × Bool :=
  let q := num / den
  let r := num % den
  (if roundsUp mode g neg (q % 2 = 1) r den then q + 1 else q, r ≠ 0)

/-- num/den × 2^k as a fraction of naturals. -/
def shiftQ (num den : Nat) (k : Int) : Nat × Nat :=
  if 0 ≤ k then (num * 2 ^ k.toNat, den) else (num, den * 2 ^ (-k).toNat)

/-- floor(log2(num/den)) of a positive fraction. -/
def log2Q (num den : Nat) : Int :=
  let l : Int := (Nat.log2 num : Int) - (Nat.log2 den : Int)
  let s := shiftQ num den (-l)
  if s.1 < s.2 then l - 1 else l

/-- The nonzero magnitude num/den × 2^e rounded into a float format: code of the magnitude, flags (R105,
R109, R112). -/
def roundMag (f : Fmt) (mode : RMode) (g : Nat) (neg : Bool) (num den : Nat) (e : Int) : Nat × Flags :=
  let l := log2Q num den + e
  let pm : Int := (f.p - 1 : Nat)
  let qmin := f.emin - pm
  let q := if l - pm < qmin then qmin else l - pm
  let s := shiftQ num den (e - q)
  let r := roundNat mode g neg s.1 s.2
  let code := (q - qmin).toNat * 2 ^ (f.p - 1) + r.1
  if f.maxCode < code then
    let toInf := match mode with
      | .rtz => false
      | .rdn => neg
      | .rup => !neg
      | _ => true
    (if f.ieee && toInf then f.maxCode + 1 else f.maxCode, flOF ||| flNX)
  else
    let s' := shiftQ num den (e - (l - pm))
    let r' := roundNat mode g neg s'.1 s'.2
    let tiny := l + 1 < f.emin || (l + 1 = f.emin && r'.1 < 2 ^ f.p)
    (code, flIf r.2 flNX ||| flIf (r.2 && tiny) flUF)

/-- The sign bit of a code. -/
def Fmt.signBit (f : Fmt) (neg : Bool) : Nat := if neg then 2 ^ (f.w - 1) else 0

/-- A value rounded into a float format: code and flags (R105, R111). -/
def Fmt.round (f : Fmt) (mode : RMode) (g : Nat) (v : FVal) : Nat × Flags :=
  match v with
  | .nan _ => if f.ieee then (f.nanCode, 0) else (0, flNV)
  | .inf n =>
    if f.ieee then (f.signBit n + f.maxCode + 1, 0) else (f.signBit n + f.maxCode, flNV)
  | .fin n m e =>
    if m = 0 then (if f.ieee then f.signBit n else 0, 0)
    else
      let r := roundMag f mode g n m 1 e
      (if r.1 = 0 && !f.ieee then 0 else f.signBit n + r.1, r.2)

/-- A value rounded into an integer range (R106). -/
def roundRange (mode : RMode) (g : Nat) (lo hi : Int) (v : FVal) : Int × Flags :=
  match v with
  | .nan _ => (0, flNV)
  | .inf n => (if n then lo else hi, flNV ||| flSAT)
  | .fin n m e =>
    let s := shiftQ m 1 e
    let r := roundNat mode g n s.1 s.2
    let i : Int := if n then -(r.1 : Int) else r.1
    if i < lo then (lo, flNV ||| flSAT)
    else if hi < i then (hi, flNV ||| flSAT)
    else (i, flIf r.2 flNX)

/-! ### Exact arithmetic -/

/-- A signed magnitude at exponent e' ≤ e as an integer. -/
def finInt (n : Bool) (m : Nat) (e e' : Int) : Int :=
  let x := m * 2 ^ (e - e').toNat
  if n then -(x : Int) else x

/-- The exact sum with the sign of a zero sum by the mode, and NV for ∞ - ∞ (R111). -/
def addX (mode : RMode) (a b : FVal) : FVal × Flags :=
  match a, b with
  | .nan s, .nan s' => (.nan false, flIf (s || s') flNV)
  | .nan s, _ => (.nan false, flIf s flNV)
  | _, .nan s => (.nan false, flIf s flNV)
  | .inf n, .inf n' => if n = n' then (.inf n, 0) else (.nan false, flNV)
  | .inf n, _ => (.inf n, 0)
  | _, .inf n => (.inf n, 0)
  | .fin n m e, .fin n' m' e' =>
    let e0 := if e < e' then e else e'
    let x := finInt n m e e0 + finInt n' m' e' e0
    if x = 0 then
      if m = 0 && m' = 0 && n = n' then (.fin n 0 0, 0) else (.fin (mode = .rdn) 0 0, 0)
    else (.fin (x < 0) x.natAbs e0, 0)

/-- The exact product, and NV for 0 × ∞ (R111). -/
def mulX (a b : FVal) : FVal × Flags :=
  match a, b with
  | .nan s, .nan s' => (.nan false, flIf (s || s') flNV)
  | .nan s, _ => (.nan false, flIf s flNV)
  | _, .nan s => (.nan false, flIf s flNV)
  | .inf n, v => if v.isZero then (.nan false, flNV) else (.inf (n != v.sign), 0)
  | v, .inf n => if v.isZero then (.nan false, flNV) else (.inf (n != v.sign), 0)
  | .fin n m e, .fin n' m' e' => (.fin (n != n') (m * m') (e + e'), 0)

/-- a × b + c exactly. -/
def fmaX (mode : RMode) (a b c : FVal) : FVal × Flags :=
  let p := mulX a b
  let r := addX mode p.1 c
  (r.1, p.2 ||| r.2 ||| flIf c.isSig flNV)

/-- Rounds an exact result and joins the flags. -/
def Fmt.fin (f : Fmt) (mode : RMode) (g : Nat) (r : FVal × Flags) : Nat × Flags :=
  let q := f.round mode g r.1
  (q.1, q.2 ||| r.2)

def Fmt.add (f : Fmt) (mode : RMode) (g a b : Nat) : Nat × Flags :=
  f.fin mode g (addX mode (f.decode a) (f.decode b))
def Fmt.sub (f : Fmt) (mode : RMode) (g a b : Nat) : Nat × Flags :=
  f.fin mode g (addX mode (f.decode a) (f.decode b).neg)
def Fmt.mul (f : Fmt) (mode : RMode) (g a b : Nat) : Nat × Flags :=
  f.fin mode g (mulX (f.decode a) (f.decode b))
/-- a × b + c with one rounding. -/
def Fmt.fma (f : Fmt) (mode : RMode) (g a b c : Nat) : Nat × Flags :=
  f.fin mode g (fmaX mode (f.decode a) (f.decode b) (f.decode c))
/-- a × b - c with one rounding. -/
def Fmt.fms (f : Fmt) (mode : RMode) (g a b c : Nat) : Nat × Flags :=
  f.fin mode g (fmaX mode (f.decode a) (f.decode b) (f.decode c).neg)

/-- The order of values that are not NaN, with -0 equal to +0. -/
def FVal.lt (a b : FVal) : Bool :=
  match a, b with
  | .nan _, _ => false
  | _, .nan _ => false
  | .inf n, .inf n' => n && !n'
  | .inf n, .fin _ _ _ => n
  | .fin _ _ _, .inf n => !n
  | .fin n m e, .fin n' m' e' =>
    let e0 := if e < e' then e else e'
    finInt n m e e0 < finInt n' m' e' e0

/-- Whether a is below b with -0 below +0 (R166). -/
def FVal.below (a b : FVal) : Bool :=
  FVal.lt a b || (a.isZero && b.isZero && a.sign && !b.sign)

/-- FMIN and FMAX on codes (R166). -/
def Fmt.minmax (f : Fmt) (isMax : Bool) (a b : Nat) : Nat × Flags :=
  let x := f.decode a
  let y := f.decode b
  let fl := flIf (x.isSig || y.isSig) flNV
  if x.isNan && y.isNan then (f.nanCode, fl)
  else if x.isNan then (fld b 0 f.w, fl)
  else if y.isNan then (fld a 0 f.w, fl)
  else if isMax then (if FVal.below x y then fld b 0 f.w else fld a 0 f.w, fl)
  else (if FVal.below y x then fld b 0 f.w else fld a 0 f.w, fl)

/-- A comparison of values with its NaN rules (R167). -/
def cmpVal (c : FCond) (x y : FVal) : Bool × Flags :=
  let un := x.isNan || y.isNan
  let sig := flIf (x.isSig || y.isSig) flNV
  let eq := !un && !FVal.lt x y && !FVal.lt y x
  match c with
  | .eq => (eq, sig)
  | .lt => (FVal.lt x y, sig ||| flIf un flNV)
  | .le => (FVal.lt x y || eq, sig ||| flIf un flNV)
  | .ne => (!eq, sig)
  | .un => (un, sig)

/-! ### Tags -/

end Sys2Proof.Machine

namespace Sys2Proof

open Sys2Proof.Machine

/-- The float format of a tag, if it is a float (R100). -/
def Tag.fmt : Tag → Option Fmt
  | .fp32 => some fmt32
  | .bf16 => some fmtBf16
  | .fp16 => some fmt16
  | .e4m3f => some fmtE4m3
  | .e5m2f => some fmtE5m2
  | _ => Option.none

/-- FP32, BF16 and FP16: the float tags of the vector and scalar arithmetic (R192). -/
def Tag.isFloat : Tag → Bool
  | .fp32 | .bf16 | .fp16 => true
  | _ => false

/-- The integer tags (R192). -/
def Tag.isInt : Tag → Bool
  | .int32 | .int16 | .int8 | .uint8 => true
  | _ => false

/-- The container of an element in bytes (R185); NONE counts as 4 (R186). -/
def Tag.bytes : Tag → Nat
  | .fp32 | .int32 | .raw32 | .none => 4
  | .bf16 | .fp16 | .int16 => 2
  | _ => 1

/-- The code EB of a tag's element (R78). -/
def Tag.eb : Tag → Nat
  | .fp32 | .int32 | .raw32 | .none => 3
  | .bf16 | .fp16 | .int16 => 2
  | .sn4 => 0
  | _ => 1

/-- The width of a container in bits. -/
def Tag.bits (t : Tag) : Nat := 8 * t.bytes

/-- The range of an integer tag (R100). -/
def Tag.range : Tag → Int × Int
  | .int32 => (-2147483648, 2147483647)
  | .int16 => (-32768, 32767)
  | .int8 => (-128, 127)
  | .uint8 => (0, 255)
  | _ => (0, 0)

/-- The integer that a container holds under an integer tag. -/
def Tag.int (t : Tag) (c : Nat) : Int :=
  match t with
  | .uint8 => (fld c 0 8 : Nat)
  | _ => sxt t.bits c

/-- The value of an element's code under an unscaled tag. -/
def Tag.value (t : Tag) (c : Nat) : FVal :=
  match t.fmt with
  | some f => f.decode c
  | Option.none => .ofInt (t.int c)

/-- A value converted into an unscaled tag: container and flags (R105, R106). `fromInt` marks an integer
source, whose saturation raises SAT only. -/
def Tag.convert (t : Tag) (mode : RMode) (g : Nat) (fromInt : Bool) (v : FVal) : Nat × Flags :=
  match t.fmt with
  | some f => f.fin mode g (v, flIf v.isSig flNV)
  | Option.none =>
    let r := roundRange mode g t.range.1 t.range.2 v
    let fl := if fromInt then r.2 &&& flSAT else r.2
    ((ofI 32 r.1).toNat % 2 ^ t.bits, fl)

end Sys2Proof

namespace Sys2Proof.Machine

open Sys2Proof

/-- SN4 code values q (R103). -/
def sn4q (ty : Nat) (c : Nat) : Int :=
  let tab := fun (l : List Nat) =>
    let m : Nat := l.getD (fld c 0 3) 0
    if bit c 3 then -(m : Int) else m
  match ty with
  | 0 => sxt 4 c
  | 1 => tab [0, 1, 2, 3, 4, 6, 8, 12]
  | 2 => tab [0, 1, 2, 4, 8, 16, 32, 64]
  | _ => tab [0, 1, 2, 3, 4, 5, 8, 16]

/-- log2 of the type factor f (R103). -/
def sn4f (ty : Nat) : Int :=
  match ty with
  | 1 => -1
  | 2 => -3
  | _ => 0

/-- The value of an element of a tile or register: code, scale byte and TEO (R102). -/
def elemValue (t : Tag) (sc : Bool) (teo : BitVec 8) (c : Nat) (scale : Byte) : FVal :=
  if !sc then t.value c
  else
    let e := fld scale.toNat 0 6
    let ty := fld scale.toNat 6 2
    if e = 63 then .nan false
    else
      let k : Int := (e : Int) - 32 + teo.toInt
      if t = .sn4 then (FVal.ofInt (sn4q ty c)).scale (sn4f ty + k) else (t.value c).scale k

/-! ### Block packing (R107) -/

/-- Magnitudes of the nonnegative codes of an SN4 type and the next one beyond, which rounding "as if the exponent were unbounded"
needs (R105): for UI, EF and PT it continues the type's own progression; for HY no rule gives one, and 32, the next power of two, is
the model's choice (log 35). -/
def sn4Mags : Sn4Ty → List Nat
  | .ui => [0, 1, 2, 3, 4, 5, 6, 7, 8]
  | .ef => [0, 1, 2, 3, 4, 6, 8, 12, 16]
  | .pt => [0, 1, 2, 4, 8, 16, 32, 64, 128]
  | .hy => [0, 1, 2, 3, 4, 5, 8, 16, 32]

/-- The position of a magnitude num/den among rising magnitudes: the index of the largest not above it. -/
def magIndex (num den : Nat) : List Nat → Nat
  | [] => 0
  | [_] => 0
  | _ :: y :: r => if num < y * den then 0 else 1 + magIndex num den (y :: r)

/-- A magnitude rounded onto a list of magnitudes: the index and whether it was inexact. The code's bit 0
breaks ties (R104). -/
def roundMags (mode : RMode) (g : Nat) (neg : Bool) (mags : List Nat) (num den : Nat) : Nat × Bool :=
  let i := magIndex num den mags
  let lo := mags.getD i 0
  let hi := mags.getD (i + 1) lo
  let r := num - lo * den
  if hi = lo then (i, r ≠ 0)
  else (if roundsUp mode g neg (i % 2 = 1) r ((hi - lo) * den) then i + 1 else i, r ≠ 0)

/-- A value in units of the type's q set rounded to an SN4 code (R105): code, inexact, beyond the largest. -/
def roundSn4 (ty : Sn4Ty) (mode : RMode) (g : Nat) (v : FVal) : Nat × Bool × Bool :=
  match v with
  | .fin n m e =>
    let s := shiftQ m 1 e
    match ty with
    | .ui =>
      let r := roundNat mode g n s.1 s.2
      let top := if n then 8 else 7
      let k := if top < r.1 then top else r.1
      (if n then (16 - k) % 16 else k, r.2, top < r.1)
    | _ =>
      let r := roundMags mode g n (sn4Mags ty) s.1 s.2
      let ovr := 7 < r.1
      let k := if ovr then 7 else r.1
      (if n && k ≠ 0 then 8 + k else k, r.2 || (ovr && s.1 ≠ (sn4Mags ty).getD 7 0 * s.2), ovr)
  | _ => (0, false, false)

/-- What a block is packed into: a scaled 8-bit tag or an SN4 type. -/
inductive PackTo where
  | tag (t : Tag)
  | sn4 (ty : Sn4Ty)
  deriving DecidableEq, Repr

/-- emax of R103 and R107. -/
def PackTo.emax : PackTo → Int
  | .tag .e4m3f => 8
  | .tag .e5m2f => 16
  | .tag .int8 => 6
  | .tag _ => 7
  | .sn4 .ui => 3
  | .sn4 .ef => 2
  | .sn4 .pt => 3
  | .sn4 .hy => 4

/-- floor(log2 |x|) of a nonzero finite value. -/
def FVal.log2 : FVal → Int
  | .fin _ m e => (Nat.log2 m : Int) + e
  | _ => 0

/-- The larger magnitude of two finite values. -/
def absMax (a b : FVal) : FVal :=
  match a, b with
  | .fin _ m e, .fin _ m' e' => if FVal.lt (.fin false m e) (.fin false m' e') then .fin false m' e' else .fin false m e
  | _, _ => a

/-- One element of a packed block: code and flags. -/
def packElem (p : PackTo) (mode : RMode) (g : Nat) (clamped : Bool) (k : Int) (v : FVal) : Nat × Flags :=
  match p with
  | .sn4 ty =>
    let r := roundSn4 ty mode g (v.scale (-(sn4f ty.code + k)))
    (r.1, flIf (r.2.1 || r.2.2) flNX ||| flIf (r.2.2 && clamped) flOF)
  | .tag t =>
    match t.fmt with
    | some f =>
      let r := f.round mode g (v.scale (-k))
      (r.1, if getB r.2 2 && !clamped then r.2 &&& ~~~flOF else r.2)
    | none =>
      let r := roundRange mode g t.range.1 t.range.2 (v.scale (-k))
      let fl := if getB r.2 5 then flNX ||| flIf clamped flOF else r.2
      ((ofI 8 r.1).toNat, fl)

/-- A block packed by R107: the exponent E, the codes, the flags. `gs` gives each element's G for SR. -/
def packBlock (p : PackTo) (mode : RMode) (teo : Int) (gs : List Nat) (xs : List FVal) : Nat × List Nat × Flags :=
  let bad := xs.any (fun v => match v with | .fin _ _ _ => false | _ => true)
  let sigs := flIf (xs.any FVal.isSig) flNV
  if bad then
    (63, xs.map (fun _ => 0),
      sigs ||| flIf (xs.any (fun v => match v with | .inf _ => true | _ => false)) flNV)
  else
    let amax := xs.foldl absMax (.fin false 0 0)
    if amax.isZero then (0, xs.map (fun _ => 0), 0)
    else
      let e0 := amax.log2 - p.emax + 32 - teo
      let e : Nat := if e0 < 0 then 0 else if 62 < e0 then 62 else e0.toNat
      let k : Int := (e : Int) - 32 + teo
      let rs := (xs.zip gs).map (fun q => packElem p mode q.2 (62 < e0) k q.1)
      (e, rs.map (·.1), rs.foldl (fun f r => f ||| r.2) (flIf (e0 < 0) flUF ||| flIf (62 < e0) flOF))

/-! ### Special functions (R119) -/

/-- The largest r with r × r ≤ n, for n below 4^bits. -/
def isqrt : Nat → Nat → Nat → Nat
  | 0, r, _ => r
  | b + 1, r, n =>
    let c := r + 2 ^ b
    isqrt b (if c * c ≤ n then c else r) n

/-- Bits of the fixed-point evaluation. -/
def fxP : Nat := 224

/-- ln 2 in units of 2^-256, rounded down. -/
def fxLn2 : Nat := 0xb17217f7d1cf79abc9e3b39803f2f6af40f343267298b62d8a0d175b8baafa2b
/-- 1 / ln 2 in units of 2^-256, rounded down. -/
def fxLog2e : Nat := 0x171547652b82fe1777d0ffda0d23a7d11d6aef551bad2b4b1164a2cd9a342648f

/-- Terms of the exponential series of y / 2^fxP, each from the one before. -/
def expTerms (y : Nat) : Nat → Nat → Nat → Nat
  | 0, _, _ => 0
  | n + 1, k, term => term + expTerms y n (k + 1) (term * y / 2 ^ fxP / k)

/-- 2^f for f in [0, 1) given in units of 2^-fxP, in units of 2^-fxP, within 2^12 units below the value. -/
def exp2Frac (f : Nat) : Nat := expTerms (f * fxLn2 / 2 ^ 256) 72 1 (2 ^ fxP)

/-- The odd-power series of atanh, in units of 2^-fxP. -/
def atanhTerms (z2 : Nat) : Nat → Nat → Nat → Nat
  | 0, _, _ => 0
  | n + 1, k, pw => pw / k + atanhTerms z2 n (k + 2) (pw * z2 / 2 ^ fxP)

/-- log2(y) for y in [1, 2) given in units of 2^-fxP, in units of 2^-fxP, within 2^12 units below the value. -/
def log2Frac (y : Nat) : Nat :=
  let one := 2 ^ fxP
  let z := (y - one) * one / (y + one)
  2 * atanhTerms (z * z / one) 80 1 z * fxLog2e / 2 ^ 256

/-- The function numbers of the special functions. -/
inductive SpFn where
  | rcp | sqrt | rsq | exp2 | log2 | tanh
  deriving DecidableEq, Repr

def SpFn.num : SpFn → Nat
  | .rcp => 0 | .sqrt => 1 | .rsq => 2 | .exp2 => 3 | .log2 => 4 | .tanh => 5

/-- The correctly rounded value of a positive number between lo and hi, both times 2^e: where the two ends
round alike that is it; else the free tail of Config (log 7). -/
def roundBetween (f : Fmt) (fn : SpFn) (code : Nat) (neg : Bool) (lo hi : Nat) (e : Int) : Nat × Flags :=
  let a := roundMag f .rne 0 neg lo 1 e
  let b := roundMag f .rne 0 neg hi 1 e
  let s := f.signBit neg
  if a.1 = b.1 then (s + a.1, a.2 ||| flNX)
  else (s + Config.specialTail fn.num code % 2 ^ (f.w - 1), a.2 ||| flNX)

/-- 2^x for a finite nonzero x = ± m × 2^e. -/
def spExp2 (f : Fmt) (code : Nat) (n : Bool) (m : Nat) (e : Int) : Nat × Flags :=
  let one := 2 ^ fxP
  -- |x| beyond the range of either format
  if 10 ≤ (Nat.log2 m : Int) + e then
    if n then roundMag f .rne 0 false 1 1 (-2000) else roundMag f .rne 0 false 1 1 2000
  else
    let s := shiftQ (m * one) 1 e
    let ax := s.1 / s.2
    let exact := s.1 % s.2 = 0
    let ip := if n then (if ax % one = 0 && exact then -((ax / one : Nat) : Int) else -((ax / one : Nat) : Int) - 1)
      else ((ax / one : Nat) : Int)
    let fr := if n then (if ax % one = 0 && exact then 0 else one - ax % one) else ax % one
    if fr = 0 && exact then roundMag f .rne 0 false 1 1 ip
    else
      let lo := if fr = 0 then one else exp2Frac (fr - (if n && fr = one then 1 else 0))
      roundBetween f .exp2 code false (lo - 1) (lo + 2 ^ 14) (ip - fxP)

/-- log2 of a positive finite x = m × 2^e, and the sign of the result. -/
def spLog2 (f : Fmt) (code m : Nat) (e : Int) : Nat × Flags :=
  let l := Nat.log2 m
  let k : Int := (l : Int) + e
  if m = 2 ^ l then f.round .rne 0 (.ofInt k)
  else
    let one := 2 ^ fxP
    let fr := log2Frac (m * one / 2 ^ l)
    let lo : Int := k * (one : Nat) + fr - 2
    let hi : Int := k * (one : Nat) + fr + 2 ^ 14
    if 0 ≤ k then roundBetween f .log2 code false lo.toNat hi.toNat (-fxP)
    else roundBetween f .log2 code true (-hi).toNat (-lo).toNat (-fxP)

/-- tanh of a finite nonzero x = ± m × 2^e. -/
def spTanh (f : Fmt) (code : Nat) (n : Bool) (m : Nat) (e : Int) : Nat × Flags :=
  let one := 2 ^ fxP
  let l := (Nat.log2 m : Int) + e
  if l < -30 then
    let r := roundMag f .rne 0 n (m * 2 ^ 64 - 1) 1 (e - 64)
    (f.signBit n + r.1, r.2)
  else if 5 ≤ l then
    let r := roundMag f .rne 0 n (2 ^ 64 - 1) 1 (-64)
    (f.signBit n + r.1, r.2)
  else
    let s := shiftQ (2 * m * one) 1 e
    let y := s.1 / s.2                     -- 2|x|
    let z := y * fxLog2e / 2 ^ 256         -- 2|x| / ln 2
    let ip := z / one
    -- e^(-2|x|) = 2^(-ip-1) × 2^(1-fr)
    let q := exp2Frac (one - 1 - z % one) / 2 ^ (ip + 1)
    let qlo := q - 2 ^ 16
    let qhi := q + 2 ^ 16
    roundBetween f .tanh code n ((one - qhi) * one / (one + qhi)) ((one - qlo) * one / (one + qlo) + 1) (-fxP)

/-- 1 / sqrt(x) for a positive finite x = m × 2^e. -/
def spRsq (f : Fmt) (m : Nat) (e : Int) : Nat × Flags :=
  let odd := e % 2 ≠ 0
  let m' := if odd then 2 * m else m
  let e' := if odd then e - 1 else e
  let num := 2 ^ 256
  let r := isqrt 129 0 (num / m')
  let exact := r * r * m' = num
  roundMag f .rne 0 false (2 * r + b2n (!exact)) 1 (-129 - e' / 2)

/-- sqrt(x) for a positive finite x = m × 2^e. -/
def spSqrt (f : Fmt) (m : Nat) (e : Int) : Nat × Flags :=
  let odd := e % 2 ≠ 0
  let m' := (if odd then 2 * m else m) * 2 ^ 64
  let e' := if odd then e - 1 else e
  let r := isqrt 64 0 m'
  let exact := r * r = m'
  roundMag f .rne 0 false (2 * r + b2n (!exact)) 1 (e' / 2 - 33)

/-- The table of R119: code of the result and flags. -/
def special (f : Fmt) (fn : SpFn) (code : Nat) : Nat × Flags :=
  let pinf := f.maxCode + 1
  let nan := f.nanCode
  let one := (f.round .rne 0 (.ofInt 1)).1
  match f.decode code with
  | .nan s => (nan, flIf s flNV)
  | .inf false =>
    match fn with
    | .rcp | .rsq => (0, 0)
    | .tanh => (one, 0)
    | _ => (pinf, 0)
  | .inf true =>
    match fn with
    | .rcp => (f.signBit true, 0)
    | .exp2 => (0, 0)
    | .tanh => (f.signBit true + one, 0)
    | _ => (nan, flNV)
  | .fin n m e =>
    if m = 0 then
      match fn with
      | .rcp | .rsq => (f.signBit n + pinf, flDZ)
      | .sqrt | .tanh => (f.signBit n, 0)
      | .exp2 => (one, 0)
      | .log2 => (f.signBit true + pinf, flDZ)
    else
      match fn with
      | .rcp => let r := roundMag f .rne 0 n 1 m (-e); (f.signBit n + r.1, r.2)
      | .sqrt => if n then (nan, flNV) else spSqrt f m e
      | .rsq => if n then (nan, flNV) else spRsq f m e
      | .exp2 => spExp2 f code n m e
      | .log2 => if n then (nan, flNV) else spLog2 f code m e
      | .tanh => spTanh f code n m e

end Sys2Proof.Machine
end

