-- ==== Sys2Proof/Machine/Time.lean ====
section
/-! DEFINITION. Ticks, cycles and the latencies of the package (R7, R8, R32, R33, R47, R48, R256, R313). Time is
held in units of 1/65,536 of 1/13 tick. -/

namespace Sys2Proof.Machine

open Sys2Proof

/-- One tick (R7). -/
def tick : Nat := 851968

/-- One cycle at 1.3 GHz: 10/13 tick (R8, R33). -/
def tbCycle : Nat := 655360

/-- One unit of NPER, 2^-16 tick (R28). -/
def nperUnit : Nat := 13

/-- The PTC reading: whole ticks (R7, R27). -/
def State.ptc (s : State) : Nat := s.now / tick

/-! ### Identifiers (R18) -/

/-- The die of a core id. -/
def coreDie (c : Nat) : Nat := c / 256
/-- The row of a core within its die. -/
def coreRow (c : Nat) : Nat := c % 256 / 16
/-- The column of a core within its die. -/
def coreCol (c : Nat) : Nat := c % 16
/-- The island of a core. -/
def coreIsland (c : Nat) : Nat := coreDie c * 8 + coreRow c / 5 * 4 + coreCol c / 4

/-- A die position that is live (R14). -/
def State.liveDie (s : State) (d : Nat) : Bool := d < 9 && d ≠ s.pkg.hdie

/-- The host port answers management reads only once a stage of bring-up has failed (R348). -/
def State.hostUp (s : State) : Bool := getF s.pkg.bootst 8 8 = 0

/-- A core id that exists (R18, R19). -/
def State.liveCore (s : State) (c : Nat) : Bool := s.liveDie (coreDie c) && c % 256 < 160

/-- An island id that exists (R18). -/
def State.liveIsland (s : State) (i : Nat) : Bool := s.liveDie (i / 8)

/-! ### Routes and the die latency table -/

/-- The distance of two numbers. -/
def dist (a b : Nat) : Nat := (a - b) + (b - a)

/-- Positions passed when going from a to b in steps of one, a left out and b kept. -/
def between (a b : Nat) : List Nat :=
  if a ≤ b then (List.range (b - a)).map (fun i => a + 1 + i)
  else (List.range (a - b)).map (fun i => a - 1 - i)

/-- The dies that a route along gx and then along gy enters after leaving a (R47). -/
def routeXY (a b : Nat) : List Nat :=
  (between (a % 3) (b % 3)).map (fun x => a / 3 * 3 + x)
    ++ (between (a / 3) (b / 3)).map (fun y => y * 3 + b % 3)

/-- The route along gy first (R315). -/
def routeYX (a b : Nat) : List Nat :=
  (between (a / 3) (b / 3)).map (fun y => y * 3 + a % 3)
    ++ (between (a % 3) (b % 3)).map (fun x => b / 3 * 3 + x)

/-- The formula of R47 on a route: the harvested dies between its ends count as repeater passes. -/
def routeLat (hdie : Nat) (route : List Nat) : Nat :=
  4 + 20 * route.length + 8 * (route.dropLast.filter (· = hdie)).length

/-- The fused die latency table (R47). -/
def fusedLat (hdie a b : Nat) : Nat :=
  if a = b || a = hdie || b = hdie then 0 else routeLat hdie (routeXY a b)

/-- The current table (R316): the fused one, or the replacement of R315. -/
def State.dieLat (s : State) (a b : Nat) : Nat :=
  match s.pkg.lattab with
  | [] => fusedLat s.pkg.hdie a b
  | t => t.getD (9 * a + b) 0xFF

/-- Core hops within a die (R48). -/
def coreHops (c d : Nat) : Nat := dist (coreRow c) (coreRow d) + dist (coreCol c) (coreCol d)

/-- The packet latency between two cores, in cycles at 1.3 GHz (R47, R48). -/
def State.packetLat (s : State) (c d : Nat) : Nat :=
  if coreDie c = coreDie d then 6 + 2 * coreHops c d else s.dieLat (coreDie c) (coreDie d)

/-- The edge die of an I/O die on the route of R256 from die d. -/
def edgeDie (d io : Nat) : Nat :=
  match io with
  | 0 => d % 3
  | 1 => d / 3 * 3 + 2
  | 2 => 6 + d % 3
  | _ => d / 3 * 3

/-- LX of R256: from a core of die d to I/O die io, in cycles at 1.3 GHz. -/
def State.ioLat (s : State) (d io : Nat) : Nat :=
  let route := routeXY d (edgeDie d io)
  4 + 20 * (route.length + 1) + 8 * (route.filter (· = s.pkg.hdie)).length

/-! ### Cycles of a region -/

/-- The region of a core, if it is sample-locked. -/
def State.lockedRegion (s : State) (k : Core) : Option Region :=
  match k.seq.region with
  | some r => match AMap.get? s.regions r with
    | some g => if g.desc.src = 0 then none else some g
    | none => none
  | none => none

/-- The number of the cycle in progress at an instant: 13e + k of R33 in a timebase region. -/
def cycleOf (g : Option Region) (t : Nat) : Nat :=
  match g with
  | none => t / tbCycle
  | some g => g.anchorR + ((t - g.anchorT + 1) * g.per - 1) / g.len

/-- The instant at which a cycle begins. -/
def instOf (g : Option Region) (r : Nat) : Nat :=
  match g with
  | none => r * tbCycle
  | some g => g.anchorT + (r - g.anchorR) * g.len / g.per

/-- The first cycle whose instant is at or after a time (R33). -/
def firstCycle (g : Option Region) (t : Nat) : Nat :=
  match g with
  | none => cdiv t tbCycle
  | some g => g.anchorR + cdiv ((t - g.anchorT) * g.per) g.len

/-- The frame length of a core's region in cycles: P or FLEN (R30, R32). -/
def State.frameLen (s : State) (k : Core) : Nat :=
  match k.seq.region with
  | some r => match AMap.get? s.regions r with
    | some g => if g.desc.src = 0 then g.desc.flen else g.desc.p
    | none => 0
  | none => 0

/-- A number of 1.3 GHz cycles in cycles of a region, ceil(x × f / 1.3 GHz) (R255, R256). -/
def toRegion (g : Option Region) (x : Nat) : Nat :=
  match g with
  | none => x
  | some g => cdiv (x * tbCycle * g.per) g.len

end Sys2Proof.Machine
end

