-- ==== Sys2Proof/Machine/Ops.lean ====
section
/-! DEFINITION. The named operations over the state: the agenda, free values, cores and their registers, pending
writes, the determinism cause register, trace, stopping and starting a core, taking an exception and
returning from one. -/

namespace Sys2Proof.Machine

open Sys2Proof

/-- The outcome of a step. -/
abbrev Out := Host.Outcome State Fault Refusal

/-! ### Agenda and free values -/

/-- Whether an entry of the agenda comes before another: by instant, then by rank (log 5). -/
def Due.before (a b : Due) : Bool := a.t < b.t || (a.t = b.t && a.rank < b.rank)

/-- An entry put into its place, after the entries of the same instant and rank. -/
def insertDue (d : Due) : List Due → List Due
  | [] => [d]
  | e :: r => if d.before e then d :: e :: r else e :: insertDue d r

/-- An act posted for an instant, which is never before the present one. -/
def State.post (s : State) (t rank : Nat) (a : Act) : State :=
  { s with agenda := insertDue ⟨if t < s.now then s.now else t, rank, a⟩ s.agenda }

/-- A row of the table posted for an instant. -/
def State.postEv (s : State) (t rank : Nat) (i : Instr) : State := s.post t rank (.ev i)

/-- A part of a row's effect posted for an instant. -/
def State.postMi (s : State) (t rank : Nat) (m : Micro) : State := s.post t rank (.mi m)

/-- The next free number (log 4). -/
def State.free (s : State) : Nat := Config.freeNat s.freeCtr

/-- The state after a free value has been drawn. -/
def State.drawn (s : State) : State := { s with freeCtr := s.freeCtr + 1 }

/-- A row posted after a free delay from an instant on. -/
def State.postFree (s : State) (t rank : Nat) (i : Instr) : State :=
  s.drawn.postEv (t + s.free) rank i

/-! ### Cores -/

/-- A core by id. -/
def State.core (s : State) (c : Nat) : Core := (AMap.get? s.cores c).getD Core.init

/-- The state with a core replaced. -/
def State.setCore (s : State) (c : Nat) (k : Core) : State := { s with cores := AMap.put s.cores c k }

/-- The state with a core changed. -/
def State.modCore (s : State) (c : Nat) (f : Core → Core) : State := s.setCore c (f (s.core c))

/-- The cycle in progress on a core. -/
def State.cyc (s : State) (c : Nat) : Nat := cycleOf (s.lockedRegion (s.core c)) s.now

/-- The instant at which a cycle of a core begins. -/
def State.inst (s : State) (c r : Nat) : Nat := instOf (s.lockedRegion (s.core c)) r

/-- The first cycle of a core at or after an instant. -/
def State.first (s : State) (c t : Nat) : Nat := firstCycle (s.lockedRegion (s.core c)) t

/-- CIF of a core in cycle r (R32). -/
def Core.cifAt (k : Core) (r : Nat) : W32 :=
  if k.seq.counting then k.seq.cif + BitVec.ofNat 32 (r - k.seq.ref) else k.seq.cif

/-- Whether the frame that a core counts has come to its end by cycle r. -/
def State.frameOver (s : State) (k : Core) (r : Nat) : Bool :=
  k.seq.atEnd || (k.seq.counting && s.frameLen k ≠ 0 && k.seq.cif.toNat + (r - k.seq.ref) = s.frameLen k)

/-- CIF as it is read: at the end of a frame that no other has followed it keeps its last value (R32, R36). -/
def State.cifNow (s : State) (c : Nat) : W32 :=
  let k := s.core c
  if s.frameOver k (s.cyc c) then BitVec.ofNat 32 (s.frameLen k - 1) else k.cifAt (s.cyc c)

/-! ### STATUS (R179) -/

def Core.priv (k : Core) : Bool := getB k.tr.status 4
def Core.timed (k : Core) : Bool := getB k.tr.status 5
def Core.uie (k : Core) : Bool := getB k.tr.status 6
def Core.inui (k : Core) : Bool := getB k.tr.status 7
def Core.stepBit (k : Core) : Bool := getB k.tr.status 8

/-- A core with its STATUS changed. -/
def Core.withStatus (k : Core) (f : W64 → W64) : Core := { k with tr := { k.tr with status := f k.tr.status } }

/-- Flags in their place in STATUS. -/
def flagBits (f : Flags) : W64 := BitVec.ofNat 64 (f.toNat * 2 ^ 16)

/-- A pending MTS to STATUS with flags ORed in, which were raised at or after its commit (R112). -/
def PWrite.withFlags (p : PWrite) (f : Flags) : PWrite :=
  match p.dest, p.val with
  | .sys .status, .w x => { p with val := .w (x ||| flagBits f) }
  | _, _ => p

/-- Flags raised in cycle r: ORed into STATUS[21:16], and into the value of an MTS to STATUS that has committed (R112). -/
def Core.orFlags (k : Core) (r : Nat) (f : Flags) : Core :=
  if f = 0 then k
  else
    let put := fun (l : List PWrite) => l.map (fun p => p.withFlags f)
    { k with
      tr := { k.tr with
        status := k.tr.status ||| flagBits f, flAt := r, flBits := (if k.tr.flAt = r then k.tr.flBits else 0) ||| f }
      fl := { k.fl with regs := put k.fl.regs, frozen := put k.fl.frozen, stopped := put k.fl.stopped } }

/-- The flags raised so far in cycle r. -/
def Core.flagsIn (k : Core) (r : Nat) : Flags := if k.tr.flAt = r then k.tr.flBits else 0

/-! ### Register reads (R159, R160) -/

/-- s register n as an instruction reads it: s0 is zero, and s24 to s31 are the shadow copies while INUI is set. -/
def Core.rs (k : Core) (n : Fin 32) : W64 :=
  if n.val = 0 then 0
  else if k.inui && 24 ≤ n.val then k.sc.sh.toArray.getD (n.val - 24) 0
  else k.sc.s[n]

/-- Where a write of s register n goes: the copy current at issue (R160). -/
def Core.sDest (k : Core) (n : Fin 32) : PDest :=
  if k.inui && 24 ≤ n.val then .sh (n.val - 24) else .s n.val

/-- a register n. -/
def Core.ra (k : Core) (n : Fin 16) : W32 := k.sc.a[n]

/-- Mask register n; k0 is all ones (R185). -/
def Core.rk (k : Core) (n : Fin 8) : Mask := if n.val = 0 then BitVec.allOnes 1024 else k.vec.k[n]

/-! ### Pending writes (R160, R161) -/

/-- The active elements of a register replaced (R188). -/
def mergeData (m : Mask) (new old : List W32) : List W32 :=
  (List.range 1024).map (fun e => if m.getLsbD e then new.getD e 0 else old.getD e 0)

/-- The write that a pending entry makes when it lands. -/
def Core.land (k : Core) (p : PWrite) : Core :=
  match p.dest, p.val with
  | .s n, .w x => if n = 0 then k else { k with sc := { k.sc with s := k.sc.s.setIfInBounds n x } }
  | .sh n, .w x => { k with sc := { k.sc with sh := k.sc.sh.setIfInBounds n x } }
  | .a n, .w x => { k with sc := { k.sc with a := k.sc.a.setIfInBounds n (x.truncate 32) } }
  | .b n, .w x =>
    { k with sc := { k.sc with b := k.sc.b.setIfInBounds n x, wrap := k.sc.wrap.setIfInBounds n 0 } }
  | .wrap n, .w x => { k with sc := { k.sc with wrap := k.sc.wrap.setIfInBounds n (x.truncate 32) } }
  | .v n, .vr x m =>
    { k with vec := { k.vec with
        v := k.vec.v.setIfInBounds n { x with
          data := if m = BitVec.allOnes 1024 then x.data
            else mergeData m x.data (k.vec.v.toArray.getD n .zero).data } } }
  | .k n, .mask x m =>
    if n = 0 then k
    else { k with vec := { k.vec with
        k := k.vec.k.setIfInBounds n ((x &&& m) ||| (k.vec.k.toArray.getD n 0 &&& ~~~m)) } }
  | .la u, .vr x _ => { k with vec := { k.vec with la := k.vec.la.setIfInBounds u x } }
  | .lb u, .vr x _ => { k with vec := { k.vec with lb := k.vec.lb.setIfInBounds u x } }
  | .e n, .semSet x => { k with ct := { k.ct with sem := k.ct.sem.setIfInBounds n x } }
  | .e n, .semInc x =>
    { k with ct := { k.ct with sem := k.ct.sem.setIfInBounds n (k.ct.sem.toArray.getD n 0 + x) } }
  | .v n, .rowZero m =>
    let old := k.vec.v.toArray.getD n .zero
    { k with vec := { k.vec with v := k.vec.v.setIfInBounds n { old with data := mergeData m [] old.data } } }
  | .flags, .w x => k.orFlags p.due (x.truncate 6)
  | .ccfg, .w x => { k with cube := { k.cube with ccfg := x.truncate 32 } }
  | .fol n, .w x => { k with cube := { k.cube with fol := k.cube.fol.setIfInBounds n x } }
  | .ring n, .ringIs r => { k with cube := { k.cube with rings := k.cube.rings.setIfInBounds n r } }
  | .ring n, .adv x =>
    let r := k.cube.rings.toArray.getD n .unset
    { k with cube := { k.cube with
        rings := k.cube.rings.setIfInBounds n { r with head := r.head + BitVec.ofNat 16 x } } }
  | .sys r, .w x =>
    match r with
    | .status =>
      -- bit 63 marks a write made at supervisor privilege (R179, R296)
      let keep : W64 := k.tr.status
      let y := setF (setF keep 16 6 (getF x 16 6)) 6 1 (getF x 6 1)
      let z := if getB x 63 then
          setF (setF y 8 1 (getF x 8 1)) 0 4 (if 8 ≤ getF x 0 4 then 15 else getF x 0 4)
        else y
      { k with tr := { k.tr with status := z } }
    | .cause => { k with tr := { k.tr with cause := x &&& 0x7FFF } }
    | .faddr => { k with tr := { k.tr with faddr := x } }
    | .epc => { k with tr := { k.tr with epc := x } }
    | .svec => { k with tr := { k.tr with svec := x } }
    | .ssp => { k with tr := { k.tr with ssp := x &&& 0xFFFFFFFF } }
    | .uivec => { k with sc := { k.sc with uivec := x } }
    | .seed => { k with sc := { k.sc with seed := x } }
    | .lc => { k with sc := { k.sc with lc := x } }
    | .ls => { k with sc := { k.sc with ls := x } }
    | .le => { k with sc := { k.sc with le := x } }
    | .wrap n => { k with sc := { k.sc with wrap := k.sc.wrap.set n.val (x.truncate 32) } }
    | _ => k
  | _, _ => k

/-- The order in which the writes of one cycle land: system registers, then semaphore sets, then the rest in
issue order, then increases, then flags (R112, R160, R243). -/
def PWrite.class_ (p : PWrite) : Nat :=
  match p.dest, p.val with
  | .sys _, _ => 0
  | _, .semSet _ => 1
  | _, .semInc _ => 3
  | _, .adv _ => 3
  | .flags, _ => 4
  | _, _ => 2

/-- All writes due by cycle r land (R160). -/
def Core.landAll (k : Core) (r : Nat) : Core :=
  let due := k.fl.regs.filter (fun p => p.due ≤ r)
  let k' := { k with fl := { k.fl with regs := k.fl.regs.filter (fun p => r < p.due) } }
  [0, 1, 2, 3, 4].foldl (fun k n => (due.filter (fun p => p.class_ = n)).foldl Core.land k) k'

/-- A pending write into place: by the cycle it lands in, then by issue order, whenever it comes to be put there (R160). -/
def insertPW (p : PWrite) : List PWrite → List PWrite
  | [] => [p]
  | q :: r => if p.due < q.due || (p.due = q.due && p.seq < q.seq) then p :: q :: r else q :: insertPW p r

/-- The tags of the last instructions issued with one more (R188). -/
def noteTag (m : AMap (Tag × Bool × BitVec 8)) (dest : PDest) (val : PVal) : AMap (Tag × Bool × BitVec 8) :=
  match dest, val with
  | .v n, .vr x _ => AMap.put m n (x.tag, x.sc, x.teo)
  | _, _ => m

/-- A write of the instruction that issues now on core c, landing in l cycles (R159). -/
def State.pend (s : State) (c l : Nat) (dest : PDest) (val : PVal) : State :=
  let k := s.core c
  let r := s.cyc c
  let p : PWrite := ⟨r + l, k.fl.seq, s.issue.cur.kind, s.issue.cur.bundle, dest, val⟩
  (s.setCore c { k with fl := { k.fl with regs := insertPW p k.fl.regs, vtags := noteTag k.fl.vtags dest val } }).postEv (s.inst c (r + l)) 3
    (.pendingWriteLand c)

/-- The core of the group that issues. -/
def State.ic (s : State) : Nat := s.issue.core

/-- The core record of the group that issues. -/
def State.ik (s : State) : Core := s.core s.issue.core

/-- A write of an s register by the issuing instruction; a write of s0 is discarded (R159). -/
def State.wrS (s : State) (n : Fin 32) (l : Nat) (x : W64) : State :=
  if n.val = 0 then s else s.pend s.ic l (s.ik.sDest n) (.w x)

/-- Flags raised by the issuing instruction, set when its result becomes visible (R112). -/
def State.wrFlags (s : State) (l : Nat) (f : Flags) : State :=
  if f = 0 then s else s.pend s.ic l .flags (.w (BitVec.ofNat 64 f.toNat))

/-- Pending writes with the cycles they have left at cycle r (R161). -/
def leftAt (r : Nat) (l : List PWrite) : List PWrite := l.map (fun p => { p with due := p.due - r })

/-- Pending writes with cycles left, counting again from cycle r on. -/
def againFrom (r : Nat) (l old : List PWrite) : List PWrite :=
  l.foldl (fun m p => insertPW { p with due := p.due + r } m) old

/-- Pending writes frozen by a trap, and counting again (R161). -/
def Core.freeze (k : Core) (r : Nat) : Core :=
  { k with fl := { k.fl with frozen := k.fl.frozen ++ leftAt r k.fl.regs, regs := [] } }
def Core.thaw (k : Core) (r : Nat) : Core :=
  { k with fl := { k.fl with regs := againFrom r k.fl.frozen k.fl.regs, frozen := [] } }

/-- Pending writes frozen by a stop, and counting again (R161). -/
def Core.freezeStop (k : Core) (r : Nat) : Core :=
  { k with fl := { k.fl with stopped := k.fl.stopped ++ leftAt r k.fl.regs, regs := [] } }
def Core.thawStop (k : Core) (r : Nat) : Core :=
  { k with fl := { k.fl with regs := againFrom r k.fl.stopped k.fl.regs, stopped := [] } }

/-- The acts of a core's pending writes and tile accesses posted anew, at the instants of their cycles. -/
def State.rearm (s : State) (c : Nat) : State :=
  let k := s.core c
  let s1 := k.fl.regs.foldl (fun s p => s.postEv (s.inst c p.due) 3 (.pendingWriteLand c)) s
  let s2 := k.fl.ops.foldl (fun s p =>
    s.postMi (s.inst c p.due) (match p.act with | .load _ _ _ => 13 | .commit _ _ _ _ => 4) (.tileOps c k.seq.epoch)) s1
  if k.seq.armed then s2.postEv (s2.inst c k.seq.reach) 9 (.groupReach c) else s2

/-! ### Trace and the determinism cause register -/

/-- The lowest live die of a partition context (R338). -/
def State.ctxDie (s : State) (ctx : Nat) : Nat := ((s.ctxs.toArray.getD ctx .init).dies.foldl Nat.min 8)

/-- A trace record offered to a die's writer, which takes it when it is enabled (R339, R340). -/
def State.record (s : State) (die : Nat) (rec : TraceRec) : State :=
  let d := (AMap.get? s.dies die).getD Die.init
  if h : die < 9 then
    if getB d.tr.ctl 0 then s.postEv s.now 13 (.traceRecord ⟨die, h⟩ rec) else s
  else s

/-- The launch record of a core. -/
def State.launchOf (s : State) (c : Nat) : Option (Nat × Launch) :=
  match (s.core c).seq.launch with
  | some l => match AMap.get? s.launches l with
    | some x => some (l, x)
    | none => none
  | none => none

/-- The record of an event of a core that stands at a CIF: the launch id is that of the launch that holds it (R337). -/
def State.recOf (s : State) (k : Core) (c : Nat) (cif : W32) (ty : BitVec 8) (payload : W64) : TraceRec :=
  let id := match k.seq.launch with
    | some l => match AMap.get? s.launches l with
      | some x => x.img.launchId
      | none => k.ct.launchid
    | none => k.ct.launchid
  ⟨s.ptc, ty, cif.truncate 24, BitVec.ofNat 16 c, id, k.seq.fn.truncate 32, payload⟩

/-- The record of an event of a core. -/
def State.coreRec (s : State) (c : Nat) (ty : BitVec 8) (payload : W64) : TraceRec := s.recOf (s.core c) c (s.cifNow c) ty payload

/-- Whether a core has sent a record that the trace writer has not accepted. -/
def Core.recWaits (k : Core) (now : Nat) : Bool := k.eng.misc.any (fun m => m.record.isSome && m.at_.all (now < ·))

/-- A hardware record behind a core's records (R291). -/
def Core.queueRec (k : Core) (now : Nat) (rec : TraceRec) : Core :=
  { k with eng := { k.eng with
      nextId := k.eng.nextId + 1
      misc := k.eng.misc ++ [⟨k.eng.nextId, [], some rec, 0, none, none, now, none, true⟩] } }

/-- A record of a core as its source (R337, R338): the trace writer gets a core's records in issue order (R291). -/
def State.recordCore (s : State) (c : Nat) (rec : TraceRec) : State :=
  if (s.core c).recWaits s.now then
    (if getB ((AMap.get? s.dies (coreDie c)).getD Die.init).tr.ctl 0 then (s.modCore c (fun k => k.queueRec s.now rec)).postMi s.now 10 (.kick c)
      else s)
  else s.record (coreDie c) rec
def State.traceCore (s : State) (c ty : Nat) (payload : W64) : State := s.recordCore c (s.coreRec c (BitVec.ofNat 8 ty) payload)

/-- A record of a source that is no core. -/
def State.traceOther (s : State) (die src ty : Nat) (launch : BitVec 16) (payload : W64) : State :=
  s.record die ⟨s.ptc, BitVec.ofNat 8 ty, 0, BitVec.ofNat 16 src, launch, 0, payload⟩

/-- A DCR word (R73). -/
def dcrWord (code pc count : Nat) : W64 :=
  BitVec.ofNat 64 (code * 2 ^ 56 + pc % 2 ^ 24 * 2 ^ 32 + (if count < 2 ^ 32 then count else 2 ^ 32 - 1))

/-- The entry of a register file of DCRs that an event matches, or the lowest empty one (R74). -/
def dcrFind (d : Vector W64 16) (code pc : Nat) : Option Nat :=
  match (List.range 16).find? (fun i => getF (d.toArray.getD i 0) 56 8 = code && getF (d.toArray.getD i 0) 32 24 = pc % 2 ^ 24) with
  | some i => some i
  | none => (List.range 16).find? (fun i => getF (d.toArray.getD i 0) 56 8 = 0)

/-- An event entered in the determinism cause register (R74). -/
def dcrAdd (d : Vector W64 16) (code pc count : Nat) : Vector W64 16 :=
  match dcrFind d code pc with
  | some i =>
    let x := d.toArray.getD i 0
    d.setIfInBounds i (dcrWord code pc (if getF x 56 8 = 0 then count else getF x 0 32 + count))
  | none => d.setIfInBounds 15 (dcrWord 0x11 0xFFFFFF (getF (d.toArray.getD 15 0) 0 32 + count))

/-- The payload of the trace record of an event. -/
def dcrPayload (code count : Nat) : W64 := BitVec.ofNat 64 (code + count % 2 ^ 32 * 2 ^ 32)

/-- An event logged on a core, with its trace record (R74, R338). -/
def State.logDcr (s : State) (c code pc count : Nat) : State :=
  let s1 := s.modCore c (fun k => { k with ct := { k.ct with dcr := dcrAdd k.ct.dcr code pc count } })
  s1.traceCore c 0x0C (dcrPayload code count)

/-- The PC field of events with no bundle (R40). -/
def noPc : Nat := 0xFFFFFF

/-! ### The Tilth table (R72) -/

/-- A counter of a row grown; it is read with `Core.tilthAt`. -/
def Core.tilth (k : Core) (row i n : Nat) : Core :=
  if n = 0 then k
  else
    let key := row * 11 + i
    let old := (AMap.get? k.ct.tilth key).getD 0
    { k with ct := { k.ct with tilth := AMap.put k.ct.tilth key (old + n) } }

/-- A counter of the table as it is read: 48 bits, held at all ones. -/
def Core.tilthAt (k : Core) (row i : Nat) : Nat := Nat.min ((AMap.get? k.ct.tilth (row * 11 + i)).getD 0) (2 ^ 48 - 1)

/-- The phase id loaded. -/
def Core.phaseId (k : Core) : Nat :=
  match k.prog.phase with
  | some p => p.1
  | none => 0

/-- Engine e busy for n cycles from cycle r on; keys from 704 on hold the cycle up to which it is counted. -/
def Core.busy (k : Core) (e r n : Nat) : Core :=
  let till := (AMap.get? k.ct.tilth (704 + e)).getD 0
  let k1 := k.tilth k.phaseId e (r + n - Nat.max r till)
  { k1 with ct := { k1.ct with tilth := AMap.put k1.ct.tilth (704 + e) (Nat.max till (r + n)) } }

/-- Cycles that engine e is counted for from cycle r on, moved from a row to another. -/
def Core.busyMoved (k : Core) (a b r e : Nat) : Core :=
  let o := (AMap.get? k.ct.tilth (704 + e)).getD 0 - r
  let old := (AMap.get? k.ct.tilth (a * 11 + e)).getD 0
  if o = 0 then k
  else
    let k1 : Core := { k with ct := { k.ct with tilth := AMap.put k.ct.tilth (a * 11 + e) (old - o) } }
    k1.tilth b e o

/-- Idle of the sequencer from cycle r on; key 720 holds r + 1. -/
def Core.idleBegin (k : Core) (r : Nat) : Core :=
  { k with ct := { k.ct with tilth := AMap.put k.ct.tilth 720 (r + 1) } }

/-- Idle over before cycle r: its cycles are counted as SWAIT for a stamp, else as IDLE (R72). -/
def Core.idleEnd (k : Core) (r : Nat) : Core :=
  match AMap.get? k.ct.tilth 720 with
  | some f =>
    let k1 := k.tilth k.phaseId (if k.seq.kind = .stamp then 10 else 9) (r + 1 - f)
    { k1 with ct := { k1.ct with tilth := AMap.del k1.ct.tilth 720 } }
  | none => k

/-- What still runs in cycle r, and the idle that goes on, counted up to there: the row changes (R64, R72). -/
def Core.tilthCut (k : Core) (r : Nat) : Core :=
  let k1 := (List.range 4).foldl (fun (k : Core) ch =>
    match k.eng.chans.toArray.getD ch [] with
    | x :: _ => if x.started then k.busy (3 + ch) x.startC (r - x.startC) else k
    | [] => k) k
  let k2 := match k1.cube.mtile with
    | some m => k1.busy 2 m.start (r - m.start)
    | none => k1
  match AMap.get? k2.ct.tilth 720 with
  | some f => if f ≤ r then (k2.idleEnd r).idleBegin r else k2
  | none => k2

/-- A phase loaded from cycle r on; the cycles of its engines from then on count in its row. -/
def Core.withPhase (k : Core) (d : Nat) (p : PDesc) (r : Nat) : Core :=
  let a := k.phaseId
  let k1 := k.tilthCut r
  let k2 : Core := { k1 with prog := { k1.prog with phase := some (d, p), mark := (k1.eng.nextId, r) } }
  if a = d then k2 else (List.range 9).foldl (fun k e => k.busyMoved a d r e) k2

/-! ### Stopping and starting a core (R65 to R68, R297) -/

/-- The open user-interrupt window set aside before cycle r, with the cycles it has left (R302); one that ended in
its handler is an overrun (R70). -/
def Core.closeUi (k : Core) (r : Nat) : Core :=
  match k.ui.win with
  | some w =>
    { k with ui := { k.ui with win := none, saved := w + 1 - r, overrun := k.ui.overrun || (k.inui && w < r) } }
  | none => k

/-- The window set aside opened again from cycle r on. -/
def Core.openUi (k : Core) (r : Nat) : Core :=
  if k.ui.saved = 0 then k else { k with ui := { k.ui with win := some (r + k.ui.saved - 1), saved := 0 } }

/-- Exchange commands and rows on their way, moved by n cycles where they fall in or after cycle r (R261). -/
def Xchg.shift (x : Xchg) (r n : Nat) : Xchg :=
  { x with
    cmds := x.cmds.map (fun m => { m with at_ := m.at_ + n })
    savedCmds := x.savedCmds
    arrive := x.arrive.map (fun a => if r ≤ a.2.1 then (a.1, a.2.1 + n, a.2.2) else a) }

/-- A core stops before cycle r: its idle is kept, CIF holds, and its pending writes freeze (R65 step 2, R161). One that is held
already keeps what it was held with. -/
def Core.stopAt (k : Core) (st : CSt) (r : Nat) : Core :=
  let k1 := ((k.freezeStop r).closeUi r).idleEnd r
  let live := k.seq.counting || k.priv
  { k1 with seq := { k1.seq with
      st := st, idle := if live then k.seq.reach - r else k.seq.idle, cif := k.cifAt r, counting := false
      ref := if live then r else k.seq.ref, lead := if k.seq.counting then k.seq.ref - r else k.seq.lead, epoch := k.seq.epoch + 1 } }

/-- Whether a debugger holds the core between two steps, so that nothing of it advances (R306). -/
def Core.held (k : Core) : Bool := k.seq.heldAt.isSome

/-- What a core has under way by the cycle, n cycles later: its units, the accesses of its slots, and its cube. -/
def Core.delay (k : Core) (n : Nat) : Core :=
  { k with
    fl := { k.fl with
      ops := k.fl.ops.map (fun o => { o with due := o.due + n })
      claims := k.fl.claims.map (fun c => if c.cls = 1 then { c with cyc := c.cyc + n }
        else if c.cls = 2 then { c with cyc := c.cyc + n, seq := c.seq + 2 * n } else c)
      units := {
        divU := k.fl.units.divU.map (· + n)
        vU := k.fl.units.vU.map (· + n)
        fpm := k.fl.units.fpm + n
        ports := k.fl.units.ports.map (fun p => (p.1 + n, p.2.1 + n, p.2.2)) } }
    cube := { k.cube with
      pipe := k.cube.pipe.map (fun p => { p with start := p.start + n })
      drainUntil := k.cube.drainUntil + n
      drains := k.cube.drains.map (fun d => { d with start := d.start + n })
      mtile := k.cube.mtile.map (fun m => { m with start := m.start + n, next := m.next + n })
      olds := k.cube.olds.map (fun p => { p with till := p.till.map (· + n) }) } }

/-- A core stops before cycle r, at the end of its frame or within it. -/
def State.haltAt (s : State) (c : Nat) (st : CSt) (r : Nat) : State :=
  let done := s.frameOver (s.core c) r
  s.modCore c (fun k =>
    let k1 := k.stopAt st r
    { k1 with seq := { k1.seq with atEnd := done } })

/-- A core counts and issues again from cycle r on, with its remaining idle (R66, R297); one that is in a handler goes on
with it and does not count. What occupied its units has run on in the meantime (log 35). -/
def Core.startAt (k : Core) (r : Nat) : Core :=
  let k1 := (k.thawStop r).openUi r
  let k2 := if k.seq.idle ≠ 0 && k.seq.armed then k1.idleBegin r else k1
  let idles := k.seq.idle ≠ 0 && (k.seq.kind = .stamp || k.seq.kind = .twait || k.seq.kind = .uiwin)
  { k2 with
    x := k2.x.shift k.seq.ref (r - k.seq.ref)
    seq := { k2.seq with
      st := if k.priv then .trap else if k.prog.cur.isNone then .idle else if idles then .wait else .run
      reach := r + k.seq.idle, counting := !k.priv, ref := r + k.seq.lead, lead := 0, epoch := k.seq.epoch + 1 } }

/-- The end of a frame of a core posted, at the cycle in which its CIF would reach the frame length (R32). -/
def State.postFrame (s : State) (c : Nat) : State :=
  let k := s.core c
  let l := s.frameLen k
  if k.seq.counting && l ≠ 0 then
    let r := k.seq.ref + (if k.seq.atEnd then 0 else l - k.seq.cif.toNat)
    (s.postEv (s.inst c r) 1 (.frameEnd (.core c))).postMi (s.inst c (r - 1)) 9 (.frameLast c)
  else s

/-- A core starts at cycle r, with its acts posted. -/
def State.startCore (s : State) (c r : Nat) : State :=
  let s1 := s.modCore c (fun k => k.startAt r)
  let s1 := match (s1.core c).cube.mtile with
    | some m => (s1.modCore c (fun k => { k with cube := { k.cube with mtile := some { m with hold := false } } })).postEv
        (s1.inst c r) 8 (.mtileExpansion c)
    | none => s1
  let s2 := (s1.rearm c).postFrame c
  let s2 := (s2.core c).x.cmds.foldl (fun s m => s.postEv (s.inst c m.at_) 5 (.exchangeRow c)) s2
  match (s2.core c).ui.win with
  | some w => (s2.postEv (s2.inst c r) 12 (.userInterrupt c)).postEv (s2.inst c (w + 1)) 8 (.uiwinClose c)
  | none => s2

/-- The next act of a core's sequencer set to cycle r. -/
def State.setReach (s : State) (c r : Nat) : State :=
  (s.modCore c (fun k => { k with seq := { k.seq with reach := r, armed := true } })).postEv
    (s.inst c r) 9 (.groupReach c)

/-! ### Exceptions -/

/-- What a fault reports (R292, R293): cause, FADDR, SLOTRES, STRADDLE, and the channel of a deferred fault. -/
structure FaultInfo where
  code : Nat
  faddr : W64
  slotres : Nat
  straddle : Bool
  defer : Option Nat
  deriving DecidableEq, Repr

/-- The gang of a core. -/
def State.gangOf (s : State) (c : Nat) : Option (Nat × Gang) :=
  match (s.core c).seq.gang with
  | some g => match AMap.get? s.gangs g with
    | some x => some (g, x)
    | none => none
  | none => none

/-- The largest die latency over ordered pairs of distinct dies of a set of cores (R67). -/
def State.dmax (s : State) (cs : List Nat) : Nat :=
  let ds := cs.map coreDie
  ds.foldl (fun m a => ds.foldl (fun m b => if a = b then m else Nat.max m (s.dieLat a b)) m) 0

/-- A gang begins to halt for a fault at an instant F: the halt falls H cycles later (R67), and a STOP under way
is cancelled (R303). -/
def State.beginHalt (s : State) (g : Nat) (f : Nat) : State :=
  match AMap.get? s.gangs g with
  | some x =>
    match x.st with
    | .running | .stopping =>
      let t := f + (s.dmax x.cores + 16) * tbCycle
      let x2 : Gang := { x with st := .halting, haltT := t }
      let s2 : State := { s with gangs := AMap.put s.gangs g x2 }
      s2.postEv t 8 (.gangHalt g)
    | _ => s
  | none => s

/-- A gang changed. -/
def State.modGang (s : State) (g : Nat) (f : Gang → Gang) : State := { s with gangs := AMap.upd s.gangs g f }

/-- A STOP cancelled: the request is repeated (R303). -/
def State.cancelStop (s : State) (g : Nat) : State :=
  (s.modGang g (fun x => { x with st := .running })).postMi s.now 13 (.tryPreempt g)

/-- A precise fault of a member between the STOP and S cancels the STOP (R303). -/
def State.faultCancels (s : State) (c : Nat) : State :=
  match s.gangOf c with
  | some (g, x) =>
    if x.st = .stopping && x.cores.all (fun d => (s.core d).seq.st ≠ .suspend) then s.cancelStop g else s
  | none => s

/-- A core of a gang recorded as trapped (R68). -/
def State.noteTrapped (s : State) (c : Nat) : State :=
  match s.gangOf c with
  | some (g, x) =>
    { s with gangs := AMap.put s.gangs g { x with
      trapped := if c ∈ x.trapped then x.trapped else c :: x.trapped
      ended := x.ended.filter (fun d => d ≠ c)
      retts := x.retts.filter (fun r => r.1 ≠ c) } }
  | none => s

/-- The group that issues is given up: nothing more of it commits. -/
def State.dropIssue (s : State) : State := { s with issue := Issue.none }

/-- CAUSE of a fault (R292). -/
def causeWord (f : FaultInfo) (pstep : Bool) : W64 :=
  BitVec.ofNat 64 (f.code % 2 ^ 8 + b2n f.straddle * 2 ^ 8 + b2n pstep * 2 ^ 9
    + (match f.defer with | some ch => ch % 16 * 2 ^ 10 + 2 ^ 14 | none => 0))

/-- An admitted launch begins to abort: the command processor stops its cores an unstated time after t (R300). -/
def State.abortFrom (s : State) (l : Nat) (why : LStatus) (t : Nat) : State :=
  match AMap.get? s.launches l with
  | some x =>
    if x.st = .running then
      let x2 : Launch := { x with st := .aborting, status := why }
      let s1 : State := { s with launches := AMap.put s.launches l x2 }
      s1.drawn.postMi (Nat.max s.now t + s.free) 8 (.stopBroadcast l)
    else s
  | none => s

/-- An admitted launch begins to abort now. -/
def State.abort (s : State) (l : Nat) (why : LStatus) : State := s.abortFrom l why s.now

/-- The trace record of a fault (R338). -/
def State.traceFault (s : State) (c : Nat) (cause : W64) (slotres : Nat) (pc : W64) : State :=
  s.traceCore c 0x0B (BitVec.ofNat 64 (cause.toNat % 2 ^ 16 + slotres * 2 ^ 16 + pc.toNat % 2 ^ 32 * 2 ^ 32))

/-- A double fault (R299, R300): CAUSE2 and FADDR2 take the second fault, the core enters HALTED_DF, and its gang
halts whether the task was timed or not; then the command processor aborts the launch. -/
def State.doubleFault (s : State) (c : Nat) (f : FaultInfo) (pc : W64) : State :=
  let r := s.cyc c
  let tr := (s.core c).tr
  let early := !(tr.rdCause && tr.rdFaddr && tr.rdEpc)
  let c2 := causeWord f false ||| BitVec.ofNat 64 (b2n early * 2 ^ 15)
  let s1 := ((s.traceFault c c2 f.slotres pc).modCore c (fun k =>
    let k1 := k.freeze r
    { k1 with
      tr := { k1.tr with cause2 := c2, faddr2 := f.faddr },
      seq := { k1.seq with st := .haltedDf, armed := false, counting := false, cif := k.cifAt r, ref := r } })).dropIssue
  match s1.gangOf c with
  | some (g, x) =>
    let x2 : Gang := { x with df := true, trapped := if c ∈ x.trapped then x.trapped else c :: x.trapped }
    let s2 : State := { s1 with gangs := AMap.put s1.gangs g x2 }
    let s3 := s2.beginHalt g (s2.inst c r)
    s3.abortFrom x.launch .doubleFault (((AMap.get? s3.gangs g).map (·.haltT)).getD s3.now)
  | none => s1

/-- HALT of a gang at an instant F: it stops as R67 does, no core enters its handler for it, and those in their handlers stop at the halt
instant too (R305). -/
def State.debugHalt (s : State) (g f : Nat) : State :=
  match AMap.get? s.gangs g with
  | some x =>
    if x.byDebug then s
    else
      let t := f + (s.dmax x.cores + 16) * tbCycle
      ((s.modGang g (fun x => { x with byDebug := true, dbgT := t })).beginHalt g f).postMi t 8 (.handlerHalt g)
  | none => s

/-- The macro-tile sequencer told to stop at its next tile (R225). -/
def Core.holdTile (k : Core) : Core :=
  match k.cube.mtile with
  | some m => { k with cube := { k.cube with mtile := some { m with hold := true } } }
  | none => k

/-- A core halts its gang as a HALT command does, without entering its handler, to go on from EPC at slot SLOTRES (R309): it
stops behind its cycle in progress as a member does, its macro tile held (R225) and its batch windows closed (R252); one within its handler
stays frozen since its trap (R297). -/
def State.debugBreak (s : State) (c : Nat) (f : FaultInfo) (epc : W64) : State :=
  let r := s.cyc c
  let s1 := (s.traceFault c (causeWord f false) f.slotres epc).modCore c (fun k => { k with tr := { k.tr with
    cause := causeWord f false, faddr := f.faddr, epc := epc, status := setF k.tr.status 0 4 f.slotres } })
  let s2 := ((s1.modCore c Core.holdTile).haltAt c .halt (r + 1)).modCore c (fun k => { k with
    seq := { k.seq with brk := true, stepDue := false, frozenAt := if k.priv then k.seq.frozenAt else s.inst c (r + 1) } })
  let s2 := s2.postMi (s2.inst c (r + 1)) 8 (.closeAll c)
  match s2.gangOf c with
  | some (g, _) => s2.dropIssue.debugHalt g (s.inst c r)
  | none => s2.dropIssue

/-- TAKING AN EXCEPTION (R294): CAUSE, FADDR, EPC and SLOTRES are set, STEP is saved in PSTEP and cleared, TNGP
takes NGP or all ones, PRIV is set and TIMED cleared, pending writes freeze, the exchange phase is set aside
(R261), and the first handler group is reached in the next cycle at SVEC. A fault at PRIV = 1 is a double fault
(R299), a BKPT under an attached debugger halts (R309). In a timed task the gang halts (R67). -/
def State.takeTrap (s : State) (c : Nat) (f : FaultInfo) (epc : W64) : State :=
  let k := s.core c
  let r := s.cyc c
  if k.dbg.attach && f.code = 0x17 then s.debugBreak c f epc
  else if k.priv then s.doubleFault c f epc
  else
    let s := s.traceFault c (causeWord f k.stepBit) f.slotres epc
    let k := s.core c
    let moved := s.issue.active && s.issue.core = c && (s.issue.target.isSome || s.issue.ends || s.issue.uiret)
    let k1 := ((k.freeze (r + 1)).closeUi (r + 1)).idleEnd r
    let dir := if s.issue.active && s.issue.core = c then
        (if s.issue.ends then 1 else if s.issue.uiret then 2 else if s.issue.uiwin.isSome then 3
          else if s.issue.twait.isSome then 4 else 0) else 0
    let st := setF (setB (setB (setB k.tr.status 8 false) 4 true) 5 false) 0 4 f.slotres
    let done := s.frameOver k (r + 1)
    let wraps := done && (s.lockedRegion k).isNone
    let k2 := { k1 with
      tr := { k1.tr with
        status := st, cause := causeWord f k.stepBit, faddr := f.faddr, epc := epc,
        tngp := if moved then k.tr.ngp else BitVec.allOnes 64,
        rdCause := false, rdFaddr := false, rdEpc := false },
      x := { k1.x with on := false, cmds := [], saved := k1.x.on, savedCmds := k1.x.cmds },
      seq := { k1.seq with
        st := .trap, pc := k.tr.svec, kind := .none, idle := 0, reenter := none, target := none,
        twLeave := none, stepDue := false,
        twBack := if dir = 4 then k.seq.twLeave.map (fun p => (p.1, p.2, k.seq.twPc)) else none,
        cif := if wraps then 0 else k.cifAt (r + 1), atEnd := done && !wraps, fn := if wraps then k.seq.fn + 1 else k.seq.fn,
        counting := false, ref := r + 1, frozenAt := s.inst c (r + 1), handlerFrom := r + 1, dir := dir } }
    let s3 := ((s.setCore c k2).dropIssue.setReach c (r + 1))
    if k.timed then
      match s3.gangOf c with
      | some (g, _) => (s3.noteTrapped c).beginHalt g (s3.inst c r)
      | none => s3
    else s3.faultCancels c

/-- A fault of the slot that issues (R144): lower kinds have committed, this one and the higher ones commit
nothing. -/
def State.raise (s : State) (code : Nat) (faddr : W64) : Out :=
  .next (s.takeTrap s.ic ⟨code, faddr, s.issue.cur.kind, false, none⟩ s.issue.base)

/-- A fault of the group as a whole (R144): SLOTRES is 0. -/
def State.raiseGroup (s : State) (code : Nat) (faddr : W64) : Out :=
  .next (s.takeTrap s.ic ⟨code, faddr, 0, false, none⟩ s.issue.base)

/-! ### Cause codes (R293) -/

def cIllegalBundle : Nat := 0x01
def cIllegalOp : Nat := 0x02
def cIllegalField : Nat := 0x03
def cSlotBusy : Nat := 0x04
def cStampOverrun : Nat := 0x05
def cChkFail : Nat := 0x06
def cFormatTag : Nat := 0x07
def cHandleStale : Nat := 0x08
def cHandleRange : Nat := 0x09
def cHandleBusy : Nat := 0x0A
def cRwOverlap : Nat := 0x0B
def cRwViolation : Nat := 0x0C
def cRingEmpty : Nat := 0x0D
def cRingFull : Nat := 0x0E
def cCubeShape : Nat := 0x0F
def cFetchFault : Nat := 0x10
def cCopyFault : Nat := 0x11
def cMmRace : Nat := 0x12
def cAccessDenied : Nat := 0x13
def cScSlot : Nat := 0x14
def cMcwinDomain : Nat := 0x15
def cTrap : Nat := 0x16
def cBkpt : Nat := 0x17
def cPriv : Nat := 0x18
def cSemFail : Nat := 0x1A
def cLateStart : Nat := 0x1B

/-- A cause with its FADDR, as a check of an instruction names it. -/
abbrev Check := Option (Nat × W64)

/-- A check that fails when a condition holds. -/
def failIf (b : Bool) (code : Nat) (faddr : W64) : Check := if b then some (code, faddr) else none

/-- The first check of a list that fails: the order is the order of the list. -/
def firstFail : List Check → Check
  | [] => none
  | some f :: _ => some f
  | none :: r => firstFail r

/-- An instruction with its checks: the first that fails is raised in its slot, else it has its effect. -/
def State.checked (s : State) (c : Check) (eff : State) : Out :=
  match c with
  | some f => s.raise f.1 f.2
  | none => .next eff

/-- FADDR of ILLEGAL_OP, ILLEGAL_FIELD and PRIV: the slot's image (R293). -/
def State.image (s : State) : W64 := BitVec.ofNat 64 s.issue.cur.word

end Sys2Proof.Machine
end

