-- ==== Sys2Proof/Machine/Operands.lean ====
section
/-! DEFINITION. Operand forms: tile-table entries and their images (R76 to R84), views (R80), phase sets
(R64), timed accesses to banks (R85, R169, R206), element reads and writes, vector operands (R185 to R190). -/

namespace Sys2Proof.Machine

open Sys2Proof


/-! ### Fields of a tile-table entry (R76) -/

def entV (e : TEntry) : Bool := getB e.w0 63
def entGen (e : TEntry) : Nat := getF e.w0 55 8
def entLevel (e : TEntry) : Nat := getF e.w0 54 1
def entRows (e : TEntry) : Nat := getF e.w0 42 12 + 1
def entCols (e : TEntry) : Nat := getF e.w0 30 12 + 1
def entEb (e : TEntry) : Nat := getF e.w0 28 2
def entTeo (e : TEntry) : BitVec 8 := BitVec.ofNat 8 (getF e.w0 22 6 * 4 + getF e.w0 14 2)
def entSc (e : TEntry) : Bool := getB e.w0 21
def entTagCode (e : TEntry) : Nat := getF e.w0 16 5
def entTag (e : TEntry) : Tag := (Tag.ofCode (entTagCode e)).getD .none
def entBase (e : TEntry) : Nat := getF e.w1 16 6
def entBcnt (e : TEntry) : Nat := getF e.w1 10 6 + 1
def entLine0 (e : TEntry) : Nat := getF e.w1 0 10

/-- Elements of a handle. -/
def entCount (e : TEntry) : Nat := entRows e * entCols e

/-- Half bytes of an element: 2^EB. -/
def entHalf (e : TEntry) : Nat := 2 ^ entEb e

/-- C of R77: the bytes of the codes. -/
def entC (e : TEntry) : Nat := cdiv (entCount e * entHalf e) 2

/-- Whether a handle has a scale area. -/
def entScaled (e : TEntry) : Bool := entSc e || entTag e = .sn4

/-- The first byte of the scale area. -/
def entScale0 (e : TEntry) : Nat := cdiv (entC e) 64 * 64

/-- S of R77: the bytes of the image. -/
def entSize (e : TEntry) : Nat :=
  if entScaled e then entScale0 e + entRows e * cdiv (entCols e) 32 else entC e

/-- Lines of the image. -/
def entLines (e : TEntry) : Nat := cdiv (entSize e) 64

/-- Lines in each bank: depth of R77. -/
def entDepth (e : TEntry) : Nat := cdiv (entSize e) (64 * entBcnt e)

/-- The bank of line j of the image. -/
def entBank (e : TEntry) (j : Nat) : Nat := entBase e + j % entBcnt e

/-- The line within its bank of line j of the image. -/
def entLine (e : TEntry) (j : Nat) : Nat := entLine0 e + j / entBcnt e

/-- Where byte b of the image lies in the tile store. -/
def entByte (e : TEntry) (b : Nat) : Nat := entBank e (b / 64) * 65536 + entLine e (b / 64) * 64 + b % 64

/-- Lines of the image in the i-th bank of the handle. -/
def entLinesIn (e : TEntry) (i : Nat) : Nat := (entLines e + entBcnt e - 1 - i) / entBcnt e

/-- Whether the extents of two handles share a line of a bank (R78). -/
def entOverlap (a b : TEntry) : Bool :=
  (List.range (entBcnt a)).any (fun i =>
    let bank := entBase a + i
    entBase b ≤ bank && bank < entBase b + entBcnt b &&
      (let na := entLinesIn a i
       let nb := entLinesIn b (bank - entBase b)
       na ≠ 0 && nb ≠ 0 && entLine0 a < entLine0 b + nb && entLine0 b < entLine0 a + na))

/-- What R78 requires of an entry by itself. -/
def entShapeOk (e : TEntry) : Bool :=
  match Tag.ofCode (entTagCode e) with
  | none => false
  | some t =>
    (t = .none || entEb e = t.eb)
      && (if t = .sn4 then entSc e else if t.narrow then true else !entSc e)
      && (if entLevel e = 0 then entBase e + entBcnt e ≤ 48 else 48 ≤ entBase e && entBase e + entBcnt e ≤ 64)
      && entLine0 e + entDepth e ≤ 1024

/-- A legal entry beside the other valid entries of a table (R78). -/
def entLegal (ents : List TEntry) (e : TEntry) : Bool :=
  entShapeOk e && ents.all (fun x => !entV x || !entOverlap e x)

/-! ### Views (R79, R80) -/

/-- A view by number. -/
def Core.view (k : Core) (h : Nat) : View := k.tile.views.toArray.getD h ⟨false, 0, 0⟩

/-- A tile-table entry by index. -/
def Core.ent (k : Core) (i : Nat) : TEntry := k.tile.ents.toArray.getD i ⟨0, 0⟩

/-- The index of the entry that a view names now. -/
def Core.vIdx (k : Core) (h : Nat) : Nat := (k.view h).index.toNat

/-- The entry that a view names now. -/
def Core.vEnt (k : Core) (h : Nat) : TEntry := k.ent (k.vIdx h)

/-- The check of R80: a view that is not bound, names no valid entry or another generation is stale. -/
def Core.viewOk (k : Core) (h : Nat) : Bool :=
  (k.view h).b && entV (k.vEnt h) && entGen (k.vEnt h) = (k.view h).gen.toNat

/-- HANDLE_STALE of a view (R80). -/
def Core.chkView (k : Core) (h : Nat) : Check := failIf (!k.viewOk h) cHandleStale (BitVec.ofNat 64 h)

/-- FORMAT_TAG when a tag is not accepted: FADDR is the code found (R293). -/
def chkTag (ok : Bool) (t : Tag) : Check := failIf (!ok) cFormatTag (BitVec.ofNat 64 t.code)

/-- HANDLE_RANGE when an access leaves its handle (R82). -/
def chkRange (ok : Bool) (h : Nat) : Check := failIf (!ok) cHandleRange (BitVec.ofNat 64 h)

/-- SLOT_BUSY (R59). -/
def chkBusy (busy : Bool) : Check := failIf busy cSlotBusy 0

/-- ILLEGAL_FIELD with the slot's image (R293). -/
def State.chkField (s : State) (bad : Bool) : Check := failIf bad cIllegalField s.image

/-- ILLEGAL_OP with the slot's image (R293). -/
def State.chkOp (s : State) (bad : Bool) : Check := failIf bad cIllegalOp s.image

/-! ### Phase sets (R64) -/

/-- The read set and the write set of engine e in a phase descriptor. -/
def PDesc.rset (p : PDesc) (e : Nat) : BitVec 256 := p.rd.getD e 0
def PDesc.wset (p : PDesc) (e : Nat) : BitVec 256 := p.wr.getD e 0

/-- Views that copies of a channel still in flight read and write (R64): the descriptor takes the status word. -/
def CopyCmd.rViews (x : CopyCmd) : List Nat :=
  match x.op with
  | .out | .x | .red _ _ => [x.desc.lv]
  | .loc => [x.desc.fv]
  | .huff _ => x.table.toList.map (·.1)
  | _ => []
def CopyCmd.wViews (x : CopyCmd) : List Nat :=
  match x.op with
  | .out | .x | .red _ _ => [x.view]
  | _ => [x.view, x.desc.lv]

/-- The view that a macro tile in progress writes (R224). -/
def MacroTile.wviews (m : MacroTile) : List Nat := [((m.desc.drop 12).headD 0).toNat]

/-- Whether an access commits a store. -/
def TOp.isStore (o : TOp) : Bool :=
  match o.act with
  | .commit _ _ _ _ => true
  | .load _ _ _ => false

/-- Views of slot accesses in flight of an engine: 0 for S and A slots, 1 for V slots (R270). -/
def Core.opViews (k : Core) (e : Nat) (stores : Bool) : List Nat :=
  (k.fl.ops.filter (fun o => o.isStore = stores && (if o.kind = 3 || o.kind = 4 then 1 else 0) = e)).map (fun o =>
    match o.act with
    | .load h _ _ => h
    | .commit h _ _ _ => h)

/-- What a store that commits in cycle r held until then. -/
def TOp.done (r : Nat) (o : TOp) : Option DoneAcc :=
  match o.act with
  | .commit h _ _ _ => some ⟨r, if o.kind = 3 || o.kind = 4 then 1 else 0, [], [h], []⟩
  | .load _ _ _ => none

/-- Commits of cycle r noted; those of earlier cycles are over. -/
def Core.committed (k : Core) (l : List DoneAcc) (r : Nat) : Core :=
  { k with fl := { k.fl with done := k.fl.done.filter (fun x => x.cyc = r) ++ l } }

/-- Views that engine e reads with commands in flight: all of them, or those issued before a mark. -/
def Core.flightR (k : Core) (e : Nat) (mark : Option (Nat × Nat)) : List Nat :=
  let byId := fun (n : Nat) => mark.all (fun m => n < m.1)
  let byCyc := fun (n : Nat) => mark.all (fun m => n < m.2)
  if e < 2 then (if mark.isNone then k.opViews e false else [])
  else if e = 2 then
    (k.cube.pipe.toList.filter (fun p => byCyc p.issued)).flatMap (·.views)
      ++ (k.cube.drains.filter (fun d => byCyc d.issued)).flatMap (·.rviews)
      ++ (k.cube.mtile.toList.filter (fun m => byCyc m.issued)).flatMap (·.rviews)
  else if e < 7 then ((k.eng.chans.toArray.getD (e - 3) []).filter (fun x => byId x.id)).flatMap CopyCmd.rViews
  else []

/-- Views that engine e writes with commands in flight: all of them, or those issued before a mark. -/
def Core.flightW (k : Core) (e : Nat) (mark : Option (Nat × Nat)) : List Nat :=
  let byId := fun (n : Nat) => mark.all (fun m => n < m.1)
  let byCyc := fun (n : Nat) => mark.all (fun m => n < m.2)
  if e = 0 then
    (if mark.isNone then k.opViews 0 true else [])
      ++ (k.eng.colls.toList.flatten.filter (fun x => byId x.id)).map (·.view)
  else if e = 1 then (if mark.isNone then k.opViews 1 true else [])
  else if e = 2 then
    (k.cube.drains.filter (fun d => byCyc d.issued)).flatMap (fun d => d.out.toList.map (·.1))
      ++ (k.cube.mtile.toList.filter (fun m => byCyc m.issued)).flatMap MacroTile.wviews
  else if e < 7 then ((k.eng.chans.toArray.getD (e - 3) []).filter (fun x => byId x.id)).flatMap CopyCmd.wViews
  else if e = 8 then (k.eng.slips.filter (fun x => byId x.id)).map (·.view)
  else []

/-- Whether the phase loaded permits engine e a read or a write of view h: by its own sets, or by those that commands issued before
it still carry. -/
def Core.permits (k : Core) (e h : Nat) (wr : Bool) : Bool :=
  match k.prog.phase with
  | some (_, p) =>
    (p.wset e).getLsbD h || (!wr && (p.rset e).getLsbD h) || (k.flightW e (some k.prog.mark)).contains h
      || (!wr && (k.flightR e (some k.prog.mark)).contains h)
  | none => false

/-- RW_VIOLATION (R64, R293). -/
def Core.chkRw (k : Core) (e h : Nat) (wr : Bool) : Check :=
  failIf (!k.permits e h wr) cRwViolation (BitVec.ofNat 64 (e + h * 2 ^ 8 + b2n wr * 2 ^ 16))

/-- Whether the phase is ASYNC (R63). -/
def Core.async (k : Core) : Bool :=
  match k.prog.phase with
  | some (_, p) => p.async
  | none => false

/-! ### Reading and writing images -/

/-- A byte of a handle's image. -/
def Core.imgByte (k : Core) (e : TEntry) (b : Nat) : Byte := Mem.read k.tile.mem (entByte e b)

/-- n bytes of a handle's image. -/
def Core.imgBytes (k : Core) (e : TEntry) (b n : Nat) : List Byte :=
  (List.range n).map (fun i => k.imgByte e (b + i))

/-- The little-endian number of n bytes of a handle's image. -/
def Core.imgNum (k : Core) (e : TEntry) (b n : Nat) : Nat := ofLe (k.imgBytes e b n)

/-- The code of element i of a handle (R84). -/
def Core.elem (k : Core) (e : TEntry) (i : Nat) : Nat :=
  if entEb e = 0 then fld (k.imgByte e (i / 2)).toNat (i % 2 * 4) 4
  else k.imgNum e (i * (entHalf e / 2)) (entHalf e / 2)

/-- Whether a byte of the image is padding between the codes and the scale area (R84). -/
def entPad (e : TEntry) (b : Nat) : Bool := entScaled e && entC e ≤ b && b < entScale0 e

/-- Where the scale byte of element i lies in the image (R84). -/
def entScaleAt (e : TEntry) (i : Nat) : Nat :=
  entScale0 e + i / entCols e * cdiv (entCols e) 32 + i % entCols e / 32

/-- The bytes that a write of a code to element i makes (R84). -/
def entPut (e : TEntry) (i code : Nat) : List MByte :=
  if entEb e = 0 then
    [⟨i / 2, BitVec.ofNat 8 (fld code 0 4 * 16 ^ (i % 2)), BitVec.ofNat 8 (15 * 16 ^ (i % 2))⟩]
  else
    let n := entHalf e / 2
    (leBytes n code).zipIdx.map (fun p => ⟨i * n + p.2, p.1, 0xFF⟩)

/-- Whole bytes from an offset on. -/
def wholeBytes (off : Nat) (bs : List Byte) : List MByte := bs.zipIdx.map (fun p => ⟨off + p.2, p.1, 0xFF⟩)

/-- A tile store with a byte of an image written under its mask. -/
def putByte (m : Mem) (e : TEntry) (b : MByte) : Mem :=
  let a := entByte e b.off
  Mem.write m a ((b.val &&& b.msk) ||| (Mem.read m a &&& ~~~b.msk))

/-- A tile store with bytes of an image written, in order. -/
def putBytes (m : Mem) (e : TEntry) : List MByte → Mem
  | [] => m
  | b :: r => putBytes (putByte m e b) e r

/-- A core with bytes of a handle's image written. -/
def Core.store (k : Core) (e : TEntry) (bs : List MByte) : Core :=
  { k with tile := { k.tile with mem := putBytes k.tile.mem e bs } }

/-! ### Timed accesses to banks (R85, R169, R206) -/

/-- A line of a bank in a cycle. -/
structure BankUse where
  cyc : Nat
  bank : Nat
  line : Nat
  deriving DecidableEq, Repr

/-- The lines of an image that a run of half bytes touches. -/
def linesOf (half n : Nat) : List Nat :=
  if n = 0 then [] else
    let lo := half / 2 / 64
    let hi := (half + n - 1) / 2 / 64
    (List.range (hi + 1 - lo)).map (fun i => lo + i)

/-- A list with each entry once. -/
def once (l : List Nat) : List Nat := l.foldl (fun r x => if r.contains x then r else r ++ [x]) []

/-- The uses of a footprint's lines, when each bank may serve at most `per` of them: the lower-numbered line of a
bank in cycle r, the next in the cycle after it. None where a bank holds more. -/
def footprint (e : TEntry) (r per : Nat) (ls : List Nat) : Option (List BankUse) :=
  let js := once ls
  let rank := fun j => (js.filter (fun i => entBank e i = entBank e j && entLine e i < entLine e j)).length
  if js.all (fun j => rank j < per) then some (js.map (fun j => ⟨r + rank j, entBank e j, entLine e j⟩)) else none

/-- Whether a multicast landing to come will be taken, as things stand (R255, R277). -/
def Core.takesMc (k : Core) (m : McUse) : Bool :=
  k.seq.launch = some m.launch && k.viewOk m.view && entSize (k.vEnt m.view) = m.size && k.permits 8 m.view true
    && k.seq.st ≠ .suspend && k.seq.st ≠ .stopped

/-- The bank and the line that a claim takes: none for a landing that will be lost. -/
def Core.claimUse (k : Core) (c : Claim) : Option (Nat × Nat) :=
  match c.mc with
  | some m => if k.takesMc m then some (entBank (k.vEnt m.view) m.line, entLine (k.vEnt m.view) m.line) else none
  | none => some (c.bank, c.line)

/-- Whether a timed access or a multicast landing already takes one of the banks at another line. -/
def Core.bankBusy (k : Core) (us : List BankUse) : Bool :=
  us.any (fun u => k.fl.claims.any (fun c => c.cls ≤ 1 && c.cyc = u.cyc && (k.claimUse c).any (fun b => b.1 = u.bank && b.2 ≠ u.line)))

/-- The first cycle whose claims still matter: the present one, or the start of a cube command in progress, which
claims of class 1 defer (R85). -/
def Core.claimsFrom (k : Core) (r : Nat) : Nat :=
  let r1 := match k.cube.pipe with | some p => Nat.min r p.start | none => r
  k.cube.drains.foldl (fun m d => Nat.min m d.start) r1

/-- The bank cycles of an issued slot taken; claims of cycles gone by are let go. -/
def State.claim (s : State) (c : Nat) (us : List BankUse) : State :=
  s.modCore c (fun k =>
    let r := s.cyc c
    { k with fl := { k.fl with
        claims := k.fl.claims.filter (fun x => k.claimsFrom r ≤ x.cyc) ++
          us.map (fun u => ⟨u.cyc, u.bank, u.line, k.fl.seq, 1, none⟩) } })

/-- An access of the issuing slot to the tile store, due in l cycles. -/
def State.tileOp (s : State) (c l : Nat) (act : TAct) : State :=
  let k := s.core c
  let r := s.cyc c
  let op : TOp := ⟨r + l, k.fl.seq, s.issue.cur.kind, s.issue.cur.bundle, act⟩
  let rank := match act with | .load _ _ _ => 13 | .commit _ _ _ _ => 4
  (s.setCore c { k with fl := { k.fl with ops := k.fl.ops ++ [op] } }).postMi (s.inst c (r + l)) rank
    (.tileOps c k.seq.epoch)

/-! ### Vector operands -/

/-- A vector register by number. -/
def Core.v (k : Core) (n : Fin 32) : VReg := k.vec.v[n]

/-- The 1024 containers of a register image. -/
def VReg.cells (v : VReg) : List W32 := v.data ++ List.replicate (1024 - v.data.length) 0

/-- The container of element e. -/
def VReg.cell (v : VReg) (e : Nat) : W32 := v.data.getD e 0

/-- The scale byte of element e (R102): two blocks a row. -/
def VReg.scale (v : VReg) (e : Nat) : Byte := v.scales.getD (e / 32) 0

/-- The exact value of element e (R102). -/
def VReg.value (v : VReg) (e : Nat) : FVal := elemValue v.tag v.sc v.teo (v.cell e).toNat (v.scale e)

/-- A register image of an unscaled tag. -/
def VReg.plain (t : Tag) (d : List W32) : VReg := ⟨d, t, false, 0, []⟩

/-- The V slot that issues: 0 or 1. -/
def State.vslot (s : State) : Nat := if s.issue.cur.kind = 4 then 1 else 0

/-- The first source: the register, or LA of the slot under H = 10 (R189). -/
def State.srcA (s : State) (va : Fin 32) (h : Hold) : VReg :=
  if h = .fromLA then s.ik.vec.la.toArray.getD s.vslot .zero else s.ik.v va

/-- The second source: the register, or LB of the slot under H = 11 (R189). -/
def State.srcB (s : State) (vb : Fin 32) (h : Hold) : VReg :=
  if h = .fromLB then s.ik.vec.lb.toArray.getD s.vslot .zero else s.ik.v vb

/-- Read ports that two sources take: a source from a latch takes none (R186). -/
def ports2 (h : Hold) : Nat := if h = .normal || h = .latch then 2 else 1
/-- Read ports of one source. -/
def ports1 (h : Hold) : Nat := if h = .fromLA then 0 else 1

/-- Beats of an instruction: its largest container (R186). -/
def beats (ts : List Tag) : Nat := ts.foldl (fun n t => Nat.max n t.bytes) 1

/-- Ports in use in a cycle. -/
def Units.portsAt (u : Units) (r : Nat) : Nat :=
  u.ports.foldl (fun n p => if p.1 ≤ r && r < p.2.1 then n + p.2.2 else n) 0

/-- SLOT_BUSY of a V instruction for an exchange phase (R258), its slot, the read ports and the FP32 multiplier
(R186, R22). -/
def State.vBusy (s : State) (occ ports : Nat) (fpm : Bool) : Bool :=
  let u := s.ik.fl.units
  let r := s.cyc s.ic
  s.ik.x.on || r < u.vU.toArray.getD s.vslot 0
    || (List.range occ).any (fun i => 4 < u.portsAt (r + i) + ports)
    || (fpm && r < u.fpm)

/-- A V instruction takes its slot, its ports and the multiplier, and counts as work of engine 1 (R72). -/
def State.vTake (s : State) (occ ports : Nat) (fpm : Bool) : State :=
  let r := s.cyc s.ic
  s.modCore s.ic (fun k =>
    let u := k.fl.units
    let u2 : Units := { u with
      vU := u.vU.setIfInBounds s.vslot (r + occ)
      ports := (r, r + occ, ports) :: u.ports.filter (fun p => r < p.2.1)
      fpm := if fpm then r + 4 else u.fpm }
    ({ k with fl := { k.fl with units := u2 } } : Core).busy 1 r occ)

/-- The sources latched under H = 01, readable from the next cycle on (R189). -/
def State.latch (s : State) (h : Hold) (a : VReg) (b : Option VReg) : State :=
  if h = .latch then
    let s1 := s.pend s.ic 1 (.la s.vslot) (.vr a (BitVec.allOnes 1024))
    match b with
    | some b => s1.pend s.ic 1 (.lb s.vslot) (.vr b (BitVec.allOnes 1024))
    | none => s1
  else s

/-- The tag, SC and TEO that v register n has after the last instruction issued to write it (R188). -/
def Core.lastTag (k : Core) (n : Nat) : Tag × Bool × BitVec 8 :=
  let now := k.vec.v.toArray.getD n .zero
  let pending := (k.fl.frozen ++ k.fl.stopped ++ k.fl.regs).any (fun p => p.dest = .v n)
  ((if pending then AMap.get? k.fl.vtags n else none)).getD (now.tag, now.sc, now.teo)

/-- Whether two tags are the same, TEO counting only with SC = 1 (R101). -/
def sameTag (a b : Tag × Bool × BitVec 8) : Bool := a.1 = b.1 && a.2.1 = b.2.1 && (!a.2.1 || a.2.2 = b.2.2)

/-- The destination rule of R188. -/
def Core.chkDest (k : Core) (vd : Fin 32) (km : Fin 8) (t : Tag) (sc : Bool) (teo : BitVec 8) : Check :=
  if km.val = 0 then none
  else
    let d := k.lastTag vd.val
    firstFail [failIf sc cFormatTag (BitVec.ofNat 64 t.code),
      failIf (!sameTag d (t, sc, teo)) cFormatTag (BitVec.ofNat 64 d.1.code)]

/-- A write of a vector register by the issuing instruction. -/
def State.wrV (s : State) (vd : Fin 32) (l : Nat) (x : VReg) (m : Mask) : State :=
  s.pend s.ic l (.v vd.val) (.vr x m)

/-- A write of a mask register by the issuing instruction, under the mask m of bits written. -/
def State.wrK (s : State) (kd : Fin 8) (l : Nat) (x m : Mask) : State :=
  if kd.val = 0 then s else s.pend s.ic l (.k kd.val) (.mask x m)

/-- Bits as a mask, bit e from entry e. -/
def maskOf (l : List Bool) : Mask := BitVec.ofNat 1024 (l.reverse.foldl (fun n b => 2 * n + b2n b) 0)

/-- Element numbers 0 to 1023. -/
def elems : List Nat := List.range 1024

end Sys2Proof.Machine
end

