-- ==== Sys2Proof/Machine/Flags.lean ====
section
/-! DEFINITION. The flag computations and the arithmetic that raises flags outside the formats of Num: integer
division (R113), saturation (R192), scalar float results and conversions (R106, R165 to R167). -/

namespace Sys2Proof

open Sys2Proof.Machine

/-- The format of a scalar float qualifier (R150). -/
def FFmt.fmt : FFmt → Fmt
  | .fp32 => fmt32
  | .bf16 => fmtBf16
  | .fp16 => fmt16

end Sys2Proof

namespace Sys2Proof.Machine

open Sys2Proof

/-! ### Division (R113) -/

/-- Signed quotient truncated toward zero; all ones for a zero divisor. -/
def divS (a b : W64) : W64 × Flags :=
  if b = 0 then (BitVec.allOnes 64, flDZ) else (ofI 64 (a.toInt.tdiv b.toInt), 0)

/-- Unsigned quotient; all ones for a zero divisor. -/
def divU (a b : W64) : W64 × Flags :=
  if b = 0 then (BitVec.allOnes 64, flDZ) else (BitVec.ofNat 64 (a.toNat / b.toNat), 0)

/-- Signed remainder with the sign of the dividend; the dividend for a zero divisor. -/
def remS (a b : W64) : W64 × Flags :=
  if b = 0 then (a, flDZ) else (ofI 64 (a.toInt.tmod b.toInt), 0)

/-- Unsigned remainder; the dividend for a zero divisor. -/
def remU (a b : W64) : W64 × Flags :=
  if b = 0 then (a, flDZ) else (BitVec.ofNat 64 (a.toNat % b.toNat), 0)

/-! ### Saturation (R192) -/

/-- An integer clamped to a range; a clamp raises SAT. -/
def clampTo (lo hi i : Int) : Int × Flags :=
  if i < lo then (lo, flSAT) else if hi < i then (hi, flSAT) else (i, 0)

/-! ### Scalar float operands and results (R165) -/

/-- A float operand: the low bits of the register. -/
def fOperand (f : Fmt) (x : W64) : Nat := fld x.toNat 0 f.w

/-- The range of an FCVTI target (R167). -/
def intRange : IntTy → Int × Int
  | .i64 => (-9223372036854775808, 9223372036854775807)
  | .u64 => (0, 18446744073709551615)
  | .i32 => (-2147483648, 2147483647)
  | .u32 => (0, 4294967295)

/-- FCVTI: a float to an integer type, saturating; .I32 sign-extends and .U32 zero-extends (R106, R167). -/
def cvtToInt (f : Fmt) (m : RMode) (g : Nat) (ity : IntTy) (x : W64) : W64 × Flags :=
  let v := f.decode (fOperand f x)
  let r := roundRange m g (intRange ity).1 (intRange ity).2 v
  (ofI 64 r.1, r.2)

/-- FCVTF: a source type to a float format (R106, R167). -/
def cvtToFloat (f : Fmt) (m : RMode) (g : Nat) (sty : CvtSrc) (x : W64) : Nat × Flags :=
  let ofFloat := fun (src : Fmt) =>
    let v := src.decode (fOperand src x)
    f.fin m g (v, flIf v.isSig flNV)
  match sty with
  | .i64 => f.round m g (FVal.ofInt x.toInt)
  | .u64 => f.round m g (FVal.ofInt (x.toNat : Int))
  | .f32 => ofFloat fmt32
  | .bf16 => ofFloat fmtBf16
  | .f16 => ofFloat fmt16

/-- A scalar result with its flags, both visible in l cycles (R112, R159). -/
def State.wrSF (s : State) (d : Fin 32) (l : Nat) (r : W64 × Flags) : State :=
  (s.wrS d l r.1).wrFlags l r.2

/-- A scalar float result: the low bits of the register, the upper bits clear (R165). -/
def State.wrFloat (s : State) (d : Fin 32) (r : Nat × Flags) : State :=
  s.wrSF d 4 (BitVec.ofNat 64 r.1, r.2)

/-- The G of a scalar result under SR: element index 0 (R165). -/
def State.g0 (s : State) : Nat := srG s.ik.sc.seed 0

end Sys2Proof.Machine
end

