-- ==== Sys2Proof/Machine/ScalarInt.lean ====
section
/-! DEFINITION. Integer arithmetic of the S slots (R163): the result lands in one cycle, three for the multiply
class, eighteen for the divide class (R162). -/

namespace Sys2Proof.Machine

open Sys2Proof

/-- A register read by the issuing instruction. -/
def State.gs (s : State) (n : Fin 32) : W64 := s.ik.rs n

/-- An integer result of latency 1. -/
def State.alu (s : State) (d : Fin 32) (x : W64) : Out := .next (s.wrS d 1 x)

/-- An integer result of the multiply class. -/
def State.mulOut (s : State) (d : Fin 32) (x : W64) : Out := .next (s.wrS d 3 x)

/-- The divider of the slot that issues: 0 or 1 (R162). -/
def State.divSlot (s : State) : Nat := if s.issue.cur.kind = 1 then 1 else 0

/-- Whether the divider of the slot is still occupied (R59, R162). -/
def State.divBusy (s : State) : Bool := s.cyc s.ic < s.ik.fl.units.divU.toArray.getD s.divSlot 0

/-- The divider of the slot taken for 18 cycles. -/
def State.divTake (s : State) : State :=
  s.modCore s.ic (fun k => { k with fl := { k.fl with units := { k.fl.units with
    divU := k.fl.units.divU.setIfInBounds s.divSlot (s.cyc s.ic + 18) } } })

/-- A result of the divide class, or SLOT_BUSY. -/
def State.divOut (s : State) (d : Fin 32) (r : W64 × Flags) : Out :=
  s.checked (chkBusy s.divBusy) (s.divTake.wrSF d 18 r)

/-- 1 or 0. -/
def truth (b : Bool) : W64 := if b then 1 else 0

/-- A shift amount: modulo 64. -/
def amount (b : W64) : Nat := b.toNat % 64

/-- Bits [127:64] of the signed product. -/
def mulHi (a b : W64) : W64 := ofI 64 ((a.toInt * b.toInt) / 2 ^ 64)

/-- Bits [127:64] of the unsigned product. -/
def mulHiU (a b : W64) : W64 := BitVec.ofNat 64 (a.toNat * b.toNat / 2 ^ 64)

/-- The leading zero bits of the low n bits of a number. -/
def leadZeros (x : Nat) : Nat → Nat
  | 0 => 0
  | n + 1 => if bit x n then 0 else 1 + leadZeros x n

/-- The trailing zero bits of the n bits of a number from bit i on. -/
def trailZeros (x i : Nat) : Nat → Nat
  | 0 => 0
  | n + 1 => if bit x i then 0 else 1 + trailZeros x (i + 1) n

/-- The one bits among the low n bits of a number. -/
def onesIn (x : Nat) : Nat → Nat
  | 0 => 0
  | n + 1 => b2n (bit x n) + onesIn x n

/-- A word with its bits in reverse order. -/
def reverseBits (x : W64) : W64 := x.reverse

/-- Byte n replaced by the low byte of another word. -/
def insertByte (a b : W64) (n : Nat) : W64 := setF a (8 * n) 8 (fld b.toNat 0 8)

def execAdd (d a b : Fin 32) (s : State) : Out := s.alu d (s.gs a + s.gs b)
def execSub (d a b : Fin 32) (s : State) : Out := s.alu d (s.gs a - s.gs b)
def execAnd (d a b : Fin 32) (s : State) : Out := s.alu d (s.gs a &&& s.gs b)
def execOr (d a b : Fin 32) (s : State) : Out := s.alu d (s.gs a ||| s.gs b)
def execXor (d a b : Fin 32) (s : State) : Out := s.alu d (s.gs a ^^^ s.gs b)
def execShl (d a b : Fin 32) (s : State) : Out := s.alu d (s.gs a <<< amount (s.gs b))
def execShr (d a b : Fin 32) (s : State) : Out := s.alu d (s.gs a >>> amount (s.gs b))
def execSar (d a b : Fin 32) (s : State) : Out := s.alu d ((s.gs a).sshiftRight (amount (s.gs b)))
def execMul (d a b : Fin 32) (s : State) : Out := s.mulOut d (s.gs a * s.gs b)
def execMulh (d a b : Fin 32) (s : State) : Out := s.mulOut d (mulHi (s.gs a) (s.gs b))
def execMulhu (d a b : Fin 32) (s : State) : Out := s.mulOut d (mulHiU (s.gs a) (s.gs b))
def execDiv (d a b : Fin 32) (s : State) : Out := s.divOut d (divS (s.gs a) (s.gs b))
def execDivu (d a b : Fin 32) (s : State) : Out := s.divOut d (divU (s.gs a) (s.gs b))
def execRem (d a b : Fin 32) (s : State) : Out := s.divOut d (remS (s.gs a) (s.gs b))
def execRemu (d a b : Fin 32) (s : State) : Out := s.divOut d (remU (s.gs a) (s.gs b))
def execMin (d a b : Fin 32) (s : State) : Out := s.alu d (if (s.gs b).slt (s.gs a) then s.gs b else s.gs a)
def execMax (d a b : Fin 32) (s : State) : Out := s.alu d (if (s.gs a).slt (s.gs b) then s.gs b else s.gs a)
def execMinu (d a b : Fin 32) (s : State) : Out := s.alu d (if (s.gs b).ult (s.gs a) then s.gs b else s.gs a)
def execMaxu (d a b : Fin 32) (s : State) : Out := s.alu d (if (s.gs a).ult (s.gs b) then s.gs b else s.gs a)
def execSlt (d a b : Fin 32) (s : State) : Out := s.alu d (truth ((s.gs a).slt (s.gs b)))
def execSltu (d a b : Fin 32) (s : State) : Out := s.alu d (truth ((s.gs a).ult (s.gs b)))
def execSeq (d a b : Fin 32) (s : State) : Out := s.alu d (truth (s.gs a = s.gs b))
def execSel (d a b c : Fin 32) (s : State) : Out := s.alu d (if s.gs c ≠ 0 then s.gs a else s.gs b)
def execClz (d a : Fin 32) (s : State) : Out := s.alu d (BitVec.ofNat 64 (leadZeros (s.gs a).toNat 64))
def execCtz (d a : Fin 32) (s : State) : Out := s.alu d (BitVec.ofNat 64 (trailZeros (s.gs a).toNat 0 64))
def execPopc (d a : Fin 32) (s : State) : Out := s.alu d (BitVec.ofNat 64 (onesIn (s.gs a).toNat 64))
def execBrev (d a : Fin 32) (s : State) : Out := s.alu d (reverseBits (s.gs a))
def execExtb (d a : Fin 32) (n : Fin 8) (s : State) : Out :=
  s.alu d (BitVec.ofNat 64 (fld (s.gs a).toNat (8 * n.val) 8))
def execInsb (d a b : Fin 32) (n : Fin 8) (s : State) : Out := s.alu d (insertByte (s.gs a) (s.gs b) n.val)

/-! ### Immediate forms (R164) -/

/-- The sign-extended immediate. -/
def simm (x : BitVec 14) : W64 := x.signExtend 64
/-- The zero-extended immediate. -/
def zimm (x : BitVec 14) : W64 := x.zeroExtend 64

def execAddi (d a : Fin 32) (imm : BitVec 14) (s : State) : Out := s.alu d (s.gs a + simm imm)
def execAndi (d a : Fin 32) (imm : BitVec 14) (s : State) : Out := s.alu d (s.gs a &&& zimm imm)
def execOri (d a : Fin 32) (imm : BitVec 14) (s : State) : Out := s.alu d (s.gs a ||| zimm imm)
def execXori (d a : Fin 32) (imm : BitVec 14) (s : State) : Out := s.alu d (s.gs a ^^^ zimm imm)
def execShli (d a : Fin 32) (n : Fin 64) (s : State) : Out := s.alu d (s.gs a <<< n.val)
def execShri (d a : Fin 32) (n : Fin 64) (s : State) : Out := s.alu d (s.gs a >>> n.val)
def execSari (d a : Fin 32) (n : Fin 64) (s : State) : Out := s.alu d ((s.gs a).sshiftRight n.val)
def execSlti (d a : Fin 32) (imm : BitVec 14) (s : State) : Out := s.alu d (truth ((s.gs a).slt (simm imm)))
def execLui (d : Fin 32) (imm : BitVec 19) (s : State) : Out := s.alu d (imm.signExtend 64 <<< 14)
def execMuli (d a : Fin 32) (imm : BitVec 14) (s : State) : Out := s.mulOut d (s.gs a * simm imm)

end Sys2Proof.Machine
end

