-- ==== Sys2Proof/Machine/ScalarFloat.lean ====
section
/-! DEFINITION. Scalar floating point (R165 to R167): results of latency 4, rounded once, with their flags. -/

namespace Sys2Proof.Machine

open Sys2Proof

/-- A float operand of the issuing instruction. -/
def State.gf (s : State) (f : FFmt) (n : Fin 32) : Nat := fOperand f.fmt (s.gs n)

def execFadd (f : FFmt) (m : RMode) (d a b : Fin 32) (s : State) : Out :=
  .next (s.wrFloat d (f.fmt.add m s.g0 (s.gf f a) (s.gf f b)))
def execFsub (f : FFmt) (m : RMode) (d a b : Fin 32) (s : State) : Out :=
  .next (s.wrFloat d (f.fmt.sub m s.g0 (s.gf f a) (s.gf f b)))
def execFmul (f : FFmt) (m : RMode) (d a b : Fin 32) (s : State) : Out :=
  .next (s.wrFloat d (f.fmt.mul m s.g0 (s.gf f a) (s.gf f b)))
/-- d is read as the addend. -/
def execFfma (f : FFmt) (m : RMode) (d a b : Fin 32) (s : State) : Out :=
  .next (s.wrFloat d (f.fmt.fma m s.g0 (s.gf f a) (s.gf f b) (s.gf f d)))
/-- The mode is ignored (R165). -/
def execFmin (f : FFmt) (_m : RMode) (d a b : Fin 32) (s : State) : Out :=
  .next (s.wrFloat d (f.fmt.minmax false (s.gf f a) (s.gf f b)))
def execFmax (f : FFmt) (_m : RMode) (d a b : Fin 32) (s : State) : Out :=
  .next (s.wrFloat d (f.fmt.minmax true (s.gf f a) (s.gf f b)))
def execFcmp (f : FFmt) (_m : RMode) (c : FCond) (d a b : Fin 32) (s : State) : Out :=
  let r := cmpVal c (f.fmt.decode (s.gf f a)) (f.fmt.decode (s.gf f b))
  .next (s.wrSF d 4 (truth r.1, r.2))
def execFcvti (f : FFmt) (m : RMode) (t : IntTy) (d a : Fin 32) (s : State) : Out :=
  .next (s.wrSF d 4 (cvtToInt f.fmt m s.g0 t (s.gs a)))
def execFcvtf (f : FFmt) (m : RMode) (t : CvtSrc) (d a : Fin 32) (s : State) : Out :=
  .next (s.wrFloat d (cvtToFloat f.fmt m s.g0 t (s.gs a)))

end Sys2Proof.Machine
end

