-- ==== Sys2Proof/Machine/Store.lean ====
section
/-! DEFINITION. What follows from a write to a handle, whoever makes it: batch windows of subscriptions (R252) and
multicast landings (R255); remote writes as their receiver takes them (R277); completions and their
counters (R60, R61, R69); the loads and stores of issued slots in their bank cycles. -/

namespace Sys2Proof.Machine

open Sys2Proof

/-! ### Cores of a launch, live or saved -/

/-- The gang of a launch that holds a core's saved context. -/
def State.savedIn (s : State) (l c : Nat) : Option (Nat × Gang × Core) :=
  s.gangs.findSome? (fun p =>
    if p.2.launch = l then (AMap.get? p.2.saved c).map (fun k => (p.1, p.2, k)) else none)

/-- The launch of a core's record, 0 for none. -/
def State.launchNo (s : State) (c : Nat) : Nat := ((s.core c).seq.launch).getD 0

/-- A core as a launch holds it: live, or in its saved context (R65). -/
def State.coreIn (s : State) (l c : Nat) : Core :=
  if (s.core c).seq.launch = some l then s.core c
  else match s.savedIn l c with
    | some p => p.2.2
    | none => s.core c

/-- A core of a launch changed, live or saved. -/
def State.modCoreIn (s : State) (l c : Nat) (f : Core → Core) : State :=
  if (s.core c).seq.launch = some l then s.modCore c f
  else match s.savedIn l c with
    | some (g, x, k) => { s with gangs := AMap.put s.gangs g { x with saved := AMap.put x.saved c (f k) } }
    | none => s

/-- The launch whose context of a core, live or saved, has a property. -/
def State.homeOf (s : State) (c : Nat) (has : Core → Bool) : Option Nat :=
  if has (s.core c) then (s.core c).seq.launch
  else s.gangs.findSome? (fun g =>
    match AMap.get? g.2.saved c with
    | some k => if has k then some g.2.launch else none
    | none => none)

/-! ### Latencies between cores -/

/-- The length of a cycle of a core. -/
def State.cycLen (s : State) (c : Nat) : Nat :=
  match s.lockedRegion (s.core c) with
  | some g => cdiv g.len g.per
  | none => tbCycle

/-- The packet latency between two cores in time. -/
def State.latT (s : State) (c d : Nat) : Nat := s.packetLat c d * tbCycle

/-- The packet latency between two cores in cycles of the first (R251, R255). -/
def State.latC (s : State) (c d : Nat) : Nat := toRegion (s.lockedRegion (s.core c)) (s.packetLat c d)

/-- Whether two cores are in one region. -/
def State.sameRegion (s : State) (c d : Nat) : Bool :=
  (s.core c).seq.region = (s.core d).seq.region && (s.core c).seq.region.isSome

/-- Cores of a launch: those that its image names in a task table or in a group. -/
def imageCores (i : Image) : List Nat := once (i.tasks.map (·.core) ++ i.groups.flatMap (·.cores))

/-- The members of a group of a core's launch, in ascending id. -/
def State.groupOf (s : State) (c g : Nat) : List Nat :=
  match s.launchOf c with
  | some (_, l) =>
    match l.img.groups.find? (fun d => d.num = g) with
    | some d => d.cores
    | none => []
  | none => []

/-- The largest packet latency over ordered pairs of a group's members (R255). -/
def State.dmaxG (s : State) (cs : List Nat) : Nat :=
  cs.foldl (fun m a => cs.foldl (fun m b => if a = b then m else Nat.max m (s.packetLat a b)) m) 0

/-! ### Batch windows (R252) -/

/-- A line of a batch on its way: it lands after the lines of its entry sent before it (R273). -/
def State.sendLine (s : State) (p j : Nat) (f : FwdEnt) (ln : SubLine) (i : Nat) : State :=
  let len := s.cycLen f.sub
  let free := s.free
  let t0 := if s.sameRegion p f.sub then s.inst p (s.cyc p + s.latC p f.sub + i)
    else s.now + s.latT p f.sub + free
  let s1 := if s.sameRegion p f.sub then s else s.drawn
  let t := Nat.max t0 f.lineFree
  let s2 := s1.modCore p (fun k => { k with sub := { k.sub with
    fwds := AMap.upd k.sub.fwds j (fun g => { g with lineFree := t + len }) } })
  s2.postEv t 5 (.batchLineLanding f.sub ln)

/-- The bytes of a window by line, lines ascending. -/
def lineGroups (bs : List (Nat × Byte)) : List (List (Nat × Byte)) :=
  (once (bs.map (fun b => b.1 / 64))).map (fun l => bs.filter (fun b => b.1 / 64 = l))

/-- The lines of a batch sent in ascending order. -/
def State.sendLines (s : State) (p j : Nat) (mk : Bool → List (Nat × Byte) → SubLine) :
    Nat → List (List (Nat × Byte)) → State
  | _, [] => s
  | i, g :: r =>
    match AMap.get? (s.core p).sub.fwds j with
    | some f => (s.sendLine p j f (mk r.isEmpty g) i).sendLines p j mk (i + 1) r
    | none => s

/-- The open window of a forward entry closes, and its batch is sent (R252); a suspended publisher sends nothing (R253). -/
def State.closeWin (s : State) (p j : Nat) : State :=
  match AMap.get? (s.core p).sub.fwds j with
  | some f =>
    match f.open_ with
    | some w =>
      if (s.core p).seq.st = .suspend then s
      else
      let b := f.batch + 1
      let s1 := s.modCore p (fun k => { k with sub := { k.sub with
        fwds := AMap.put k.sub.fwds j { f with open_ := none, batch := b }
        inflight := k.sub.inflight.filter (fun i => i.ackAt.all (fun t => s.now < t)) ++ [⟨j, b, none⟩] } })
      s1.sendLines p j (fun last g => ⟨p, j, f.slot, b, g, false, last⟩) 0 (lineGroups w.bytes)
    | none => s
  | none => s

/-- Every open window of a publisher closes: at a PHASE, at a frame's end, at a stop (R252). -/
def State.closeAll (s : State) (p : Nat) : State :=
  ((s.core p).sub.fwds.map (·.1)).foldl (fun s j => s.closeWin p j) s

/-- A write through an entry collected by the windows of its forward entries (R252); one that writes no byte opens none. -/
def State.collect (s : State) (c index : Nat) (ent : TEntry) (offs : List Nat) : State :=
  let k := s.core c
  let r := s.cyc c
  k.sub.fwds.foldl (fun s p =>
    let f := p.2
    if f.index = index && f.gen.toNat = entGen ent && !offs.isEmpty then
      let vals := offs.map (fun o => (o, k.imgByte ent o))
      let w : BatchWin := match f.open_ with
        | some w => w
        | none => ⟨r + f.win, []⟩
      let w2 : BatchWin := { w with bytes := vals.foldl (fun m v => AMap.put m v.1 v.2) w.bytes }
      let s1 := s.modCore c (fun k => { k with sub := { k.sub with
        fwds := AMap.put k.sub.fwds p.1 { f with open_ := some w2 } } })
      if f.open_.isNone then s1.postEv (s1.inst c w2.closeAt) 9 (.batchWindowClose c p.1) else s1
    else s) s

/-- A store into the source of a multicast window: it lands Dmax + 2 cycles later at every member, whose bank it
takes then (R255, R85). -/
def State.forwardMc (s : State) (c index : Nat) (ent : TEntry) (bs : List MByte) (pc : W64) : State :=
  let k := s.core c
  let r := s.cyc c
  k.sub.mcs.foldl (fun s w =>
    if w.index = index && w.gen.toNat = entGen ent && w.from_ ≤ r then
      let ms := s.groupOf c w.group
      let t := s.inst c (r + toRegion (s.lockedRegion k) (s.dmaxG ms) + 2)
      ms.foldl (fun s m =>
        let us := (once (bs.map (fun b => b.off / 64))).map (fun j =>
          (⟨s.first m t, 0, 0, 0, 0, some ⟨w.target, entSize ent, k.seq.launch.getD 0, j⟩⟩ : Claim))
        let s1 := s.modCore m (fun k => { k with fl := { k.fl with claims := k.fl.claims ++ us } })
        s1.postEv t 2 (.multicastLanding m ⟨c, k.seq.launch.getD 0, pc, w.target, entSize ent, bs⟩)) s
    else s) s

/-- Bytes of a handle's image written by a store that commits now, seen by subscriptions and multicast; padding stays as it is (R84). -/
def State.commit (s : State) (c index : Nat) (ent : TEntry) (all : List MByte) (pc : W64) : State :=
  let bs := all.filter (fun b => !entPad ent b.off)
  let s1 := s.modCore c (fun k => k.store ent bs)
  (s1.collect c index ent (bs.map (·.off))).forwardMc c index ent bs pc

/-! ### Remote writes at their receiver (R277) -/

/-- A core that takes remote writes: not stopped, preempted or in a halted gang (R233, R277); a core that has trapped takes them up
to the halt instant (R297). -/
def State.receives (s : State) (c : Nat) : Bool :=
  match (s.core c).seq.st with
  | .suspend | .stopped => false
  | .trap => match s.gangOf c with
    | some (_, g) => g.st ≠ .halted
    | none => true
  | .halt | .haltedDf => match s.gangOf c with
    | some (_, g) => g.st = .halting
    | none => false
  | _ => true

/-- FADDR of a tile-store race (R277). -/
def raceFaddr (eng view src : Nat) : W64 :=
  BitVec.ofNat 64 (2 ^ 63 + eng * 2 ^ 24 + view % 256 * 2 ^ 16 + src % 4096)

/-- A refused remote write: MM_RACE is raised by the next group of the receiver, and a timed gang halts from
this cycle on; at supervisor privilege it is held (R277). -/
def State.refuse (s : State) (c eng view src : Nat) : State :=
  let r := s.cyc c
  let s1 := s.modCore c (fun k => { k with seq := { k.seq with held := k.seq.held ++ [(cMmRace, raceFaddr eng view src, r)] } })
  let k := s1.core c
  if k.timed && !k.priv then
    match s1.gangOf c with
    | some (g, _) => (s1.noteTrapped c).beginHalt g (s1.inst c r)
    | none => s1
  else s1

/-! ### Completions (R60, R61, R69) -/

/-- The cause of a completion code that a CHK raises (R228). -/
def codeCause (code : Nat) : Option Nat :=
  match code with
  | 1 => some cCopyFault
  | 2 => some cMmRace
  | 3 => some cAccessDenied
  | 7 => some cCopyFault
  | _ => none

/-- A command's completion counted on its channel in cycle r: the fault a CHK will raise, the flags, and the user interrupt of
a command with its notify bit (R60, R61, R69, R112). -/
def Core.counted (k : Core) (now r ch : Nat) (fault : Option (Nat × W64)) (notify : Bool) (flags : Flags) : Core :=
  let n := k.ct.cc.toArray.getD ch 0 + 1
  let un := match fault with
    | some f => k.ct.unraised ++ [⟨ch, n, f.1, f.2⟩]
    | none => k.ct.unraised
  let k1 : Core := { k with ct := { k.ct with cc := k.ct.cc.setIfInBounds ch n, unraised := un } }
  let k2 := k1.orFlags r flags
  if notify && k.uie then { k2 with ui := { k2.ui with pend := k2.ui.pend ++ [(now, ch)] } } else k2

/-- The same for a core of the state. -/
def State.countNow (s : State) (c ch : Nat) (fault : Option (Nat × W64)) (notify : Bool) (flags : Flags) : State :=
  s.modCore c (fun k => k.counted s.now (s.cyc c) ch fault notify flags)

/-- The user interrupt that an open window takes now, posted (R70). -/
def State.wakeUi (s : State) (c : Nat) : State :=
  let k := s.core c
  match k.ui.win with
  | some w => if s.cyc c ≤ w && !k.ui.pend.isEmpty && !k.inui && !k.priv then s.postEv s.now 12 (.userInterrupt c) else s
  | none => s

/-- A completion counted, with the window's interrupt. -/
def State.count (s : State) (c ch : Nat) (fault : Option (Nat × W64)) (notify : Bool) (flags : Flags) : State :=
  (s.countNow c ch fault notify flags).wakeUi c

/-- The fault that a completion code leaves for a CHK. -/
def codeFault (code : Nat) (faddr : W64) : Option (Nat × W64) := (codeCause code).map (fun x => (x, faddr))

/-! ### Bank cycles of issued slots -/

/-- A load's value put into the pending write of its slot. -/
def fillSeq (q : Nat) (f : PVal → PVal) (l : List PWrite) : List PWrite :=
  l.map (fun p => if p.seq = q then { p with val := f p.val } else p)

/-- A load's value put where its slot's write waits, counting or frozen. -/
def Core.fill (k : Core) (q : Nat) (f : PVal → PVal) : Core :=
  { k with fl := { k.fl with
      regs := fillSeq q f k.fl.regs
      frozen := fillSeq q f k.fl.frozen
      stopped := fillSeq q f k.fl.stopped } }

/-- The scalar that SLD reads (R168). -/
def Core.sldValue (k : Core) (e : TEntry) (i : Nat) : W64 :=
  let t := entTag e
  if t = .int32 || t = .int16 || t = .int8 then ofI 64 (sxt t.bits (k.elem e i)) else BitVec.ofNat 64 (k.elem e i)

/-- The 1024 elements of a 16 x 64 block whose row r begins at element a + r × stride. -/
def Core.blockElems (k : Core) (e : TEntry) (a stride : Nat) : List W32 :=
  elems.map (fun i => BitVec.ofNat 32 (k.elem e (a + i / 64 * stride + i % 64)))

/-- The 32 scale bytes of such a block (R204). -/
def Core.blockScales (k : Core) (e : TEntry) (a stride : Nat) : List Byte :=
  (List.range 32).map (fun b => k.imgByte e (entScaleAt e (a + b / 2 * stride + b % 2 * 32)))

/-- A register image filled by VLD or VLDB. -/
def Core.fillBlock (k : Core) (e : TEntry) (a stride : Nat) (v : PVal) : PVal :=
  match v with
  | .vr x m => .vr { x with
      data := k.blockElems e a stride
      scales := if entScaled e then k.blockScales e a stride else [] } m
  | _ => v

/-- A row of a register image filled by VLDX. -/
def Core.fillRow (k : Core) (e : TEntry) (row : Nat) (idx : List Nat) (v : PVal) : PVal :=
  match v with
  | .vr x m => .vr { x with
      data := elems.map (fun i => if i / 64 = row && m.getLsbD i then
        BitVec.ofNat 32 (k.elem e (idx.getD (i % 64) 0)) else x.cell i) } m
  | _ => v

/-- One access of an issued slot in its bank cycle; the elements of SLPWR are read by its send. -/
def State.tileAct (s : State) (c : Nat) (o : TOp) : State :=
  match o.act with
  | .load _ e (.sld i) => s.modCore c (fun k => k.fill o.seq (fun _ => .w (k.sldValue e i)))
  | .load _ e (.vld a) => s.modCore c (fun k => k.fill o.seq (k.fillBlock e a (entCols e)))
  | .load _ e (.vldb a) => s.modCore c (fun k => k.fill o.seq (k.fillBlock e a 0))
  | .load _ e (.vldx row idx) => s.modCore c (fun k => k.fill o.seq (k.fillRow e row idx))
  | .load _ e (.slp id off n) =>
    (s.modCore c (fun k =>
      let vals := (List.range n).map (fun i => BitVec.ofNat 32 (k.elem e (off + i)))
      { k with eng := { k.eng with misc := mapIf (fun m => m.id = id) (fun m => { m with vals := some vals }) k.eng.misc } })).postMi
        s.now 10 (.kick c)
  | .commit _ index e bs => s.commit c index e bs o.pc

/-- The order in which accesses of one cycle are made: by cycle, later groups later, higher slot kinds later (R268). -/
def State.tileAll (s : State) (c : Nat) : List TOp → State
  | [] => s
  | o :: r => (s.tileAct c o).tileAll c r

/-- The slot accesses of a core that stay in flight. -/
def Core.modOps (k : Core) (f : TOp → Bool) : Core := { k with fl := { k.fl with ops := k.fl.ops.filter f } }

/-- Accesses due by now: stores at their commit, loads after the landings of the cycle (R206, R169). A store
commits in its cycle even when a load of that cycle has still to read. -/
def State.tileDue (s : State) (c : Nat) (stores : Bool) : State :=
  let k := s.core c
  let r := s.cyc c
  if k.held then s else
  let due := k.fl.ops.filter (fun o => o.due ≤ r && (o.isStore = stores || o.due < r))
  let s1 := s.setCore c ((k.committed (due.filterMap (TOp.done r)) r).modOps (fun o => !(o.due ≤ r && (o.isStore = stores || o.due < r))))
  s1.tileAll c due

end Sys2Proof.Machine
end

