-- ==== Sys2Proof/Machine/ScalarAccess.lean ====
section
/-! DEFINITION. Scalar tile-store access (R168, R169). -/

namespace Sys2Proof.Machine

open Sys2Proof

/-- The line of a bank that an element of a plain handle takes in cycle r. -/
def elemUse (e : TEntry) (r i : Nat) : List BankUse :=
  let j := i * (entHalf e / 2) / 64
  [⟨r, entBank e j, entLine e j⟩]

/-- The checks of R168 in their order, then the bank conflict of R169. -/
def State.slotAccess (s : State) (h : Fin 256) (i r : Nat) (wr : Bool) : Check :=
  let k := s.ik
  let e := k.vEnt h.val
  firstFail [k.chkView h.val, chkTag (entTag e ≠ .none && entTag e ≠ .sn4) (entTag e), k.chkRw 0 h.val wr,
    chkRange (i < entCount e) h.val, chkBusy (k.bankBusy (elemUse e r i))]

/-- SLD: the element is read in bank cycle t + 1 and visible at t + 5. -/
def execSld (d : Fin 32) (h : Fin 256) (a : Fin 32) (s : State) : Out :=
  let c := s.ic
  let i := (s.gs a).toNat
  let e := s.ik.vEnt h.val
  let r := s.cyc c + 1
  s.checked (s.slotAccess h i r false)
    (((s.claim c (elemUse e r i)).wrS d 5 0).tileOp c 1 (.load h.val e (.sld i)))

/-- SST: the element is committed in cycle t + 2. -/
def execSst (h : Fin 256) (a b : Fin 32) (s : State) : Out :=
  let c := s.ic
  let i := (s.gs a).toNat
  let e := s.ik.vEnt h.val
  let r := s.cyc c + 2
  s.checked (s.slotAccess h i r true)
    ((s.claim c (elemUse e r i)).tileOp c 2
      (.commit h.val (s.ik.vIdx h.val) e (entPut e i (s.gs b).toNat)))

end Sys2Proof.Machine
end

