-- ==== Sys2Proof/Machine/Busy.lean ====
section
/-! DEFINITION. What commands in flight hold: the entries that HFREE refuses to free (R81), and the sets they
carry into a new phase (R64, R270). -/

namespace Sys2Proof.Machine

open Sys2Proof

/-- Entries that a copy command names: its descriptor, its local view, a far view of this core. -/
def CopyCmd.ents (x : CopyCmd) : List Nat :=
  match x.op with
  | .loc => [x.dindex, x.lindex, x.findex]
  | .huff _ => x.dindex :: x.lindex :: x.table.toList.map (·.2)
  | _ => [x.dindex, x.lindex]

/-- Entries that engine commands in flight name, as source or destination (R81). -/
def Core.engineEnts (k : Core) : List Nat :=
  (k.eng.chans.toList.flatten.map CopyCmd.ents).flatten
    ++ k.eng.colls.toList.flatten.map (·.dindex)
    ++ k.eng.slips.map (·.index)
    ++ k.eng.misc.flatMap (fun m => m.src.toList.map (·.2))
    ++ k.cube.drains.flatMap (fun d => d.out.toList.map (·.2) ++ d.rents)
    ++ (match k.cube.pipe with | some p => p.ents | none => [])
    ++ (match k.cube.mtile with | some m => (m.rviews ++ m.wviews).map k.vIdx | none => [])

/-- HANDLE_BUSY of entry i of core c (R81). -/
def State.entryBusy (s : State) (c i : Nat) : Bool :=
  let k := s.core c
  k.engineEnts.contains i
    || k.fl.done.any (fun x => x.cyc = s.cyc c && x.ents.contains i)
    || k.cube.rings.toList.any (fun r => r.bound && r.index = i)
    || k.sub.subs.any (fun p => p.2.index = i)
    || k.sub.fwds.any (fun p => p.2.index = i)
    || k.sub.mcs.any (fun w => w.index = i)
    || s.cores.any (fun p => p.2.seq.launch = k.seq.launch && p.2.sub.mcs.any (fun w =>
        (s.groupOf p.1 w.group).contains c && k.viewOk w.target && k.vIdx w.target = i))

/-- Bits of views as a set. -/
def viewSet (l : List Nat) : BitVec 256 := l.foldl (fun m h => setB m h true) 0

/-- The views that a command or an access of an engine carries into a phase. -/
structure Carried where
  eng : Nat
  rd : List Nat
  wr : List Nat
  deriving DecidableEq, Repr

/-- What stores and drains that commit in cycle r carry: to a PHASE of that cycle they are in flight (R270, log 31). -/
def Core.doneCarries (k : Core) (r : Nat) : List Carried := (k.fl.done.filter (fun x => x.cyc = r)).map (fun x => ⟨x.eng, x.rd, x.wr⟩)

/-- The effective sets of engine e under a descriptor: joined with what is in flight, and with what the group itself issues (R64,
R270). -/
def Core.effR (k : Core) (p : PDesc) (own : List Carried) (e : Nat) : BitVec 256 :=
  p.rset e ||| viewSet (k.flightR e none ++ (own.filter (fun x => x.eng = e)).flatMap (·.rd))
def Core.effW (k : Core) (p : PDesc) (own : List Carried) (e : Nat) : BitVec 256 :=
  p.wset e ||| viewSet (k.flightW e none ++ (own.filter (fun x => x.eng = e)).flatMap (·.wr))

/-- The lowest view of a set. -/
def lowestView (m : BitVec 256) : Nat := ((List.range 256).find? (fun h => m.getLsbD h)).getD 0

/-- The first overlap of a descriptor's effective sets: engine i writes what engine j reads or writes (R64, R293). -/
def Core.overlap (k : Core) (p : PDesc) (own : List Carried) : Option W64 :=
  let pairs := (List.range 9).flatMap (fun i => (List.range 9).map (fun j => (i, j)))
  match pairs.find? (fun q => q.1 ≠ q.2 && (k.effW p own q.1 &&& (k.effR p own q.2 ||| k.effW p own q.2)) ≠ 0) with
  | some (i, j) =>
    some (BitVec.ofNat 64 (i + j * 2 ^ 4 + lowestView (k.effW p own i &&& (k.effR p own j ||| k.effW p own j)) * 2 ^ 8))
  | none => none

end Sys2Proof.Machine
end

