-- ==== Sys2Proof/Machine/ScalarControl.lean ====
section
/-! DEFINITION. Control forms of S0 (R170 to R176): branches, jumps, the hardware loop, END, CHK, PHASE,
user-interrupt windows, traps and returns. A transfer of control acts at the end of its group (R145). -/

namespace Sys2Proof.Machine

open Sys2Proof

/-- A transfer of control committed: NGP takes its target (R145). -/
def State.transfer (s : State) (t : W64) : State :=
  let s1 := s.modCore s.ic (fun k => { k with tr := { k.tr with ngp := t } })
  { s1 with issue := { s1.issue with target := some t } }

/-- The address at an offset from the bundle that issues, in 2-byte units (R146). -/
def State.label {w : Nat} (s : State) (off : BitVec w) : W64 := s.issue.cur.bundle + off.signExtend 64 * 2

/-- A branch taken when a condition holds. -/
def State.branch (s : State) (taken : Bool) (off : BitVec 14) : Out :=
  .next (if taken then s.transfer (s.label off) else s)

def execBeq (a b : Fin 32) (off : BitVec 14) (s : State) : Out := s.branch (s.gs a = s.gs b) off
def execBne (a b : Fin 32) (off : BitVec 14) (s : State) : Out := s.branch (s.gs a ≠ s.gs b) off
def execBlt (a b : Fin 32) (off : BitVec 14) (s : State) : Out := s.branch ((s.gs a).slt (s.gs b)) off
def execBge (a b : Fin 32) (off : BitVec 14) (s : State) : Out := s.branch (!(s.gs a).slt (s.gs b)) off
def execBltu (a b : Fin 32) (off : BitVec 14) (s : State) : Out := s.branch ((s.gs a).ult (s.gs b)) off
def execBgeu (a b : Fin 32) (off : BitVec 14) (s : State) : Out := s.branch (!(s.gs a).ult (s.gs b)) off

def execJmp (off : BitVec 24) (s : State) : Out := .next (s.transfer (s.label off))
/-- s23 takes the address after the group, visible at t + 1. -/
def execJal (off : BitVec 24) (s : State) : Out := .next ((s.wrS 23 1 s.issue.next).transfer (s.label off))
def execJr (a : Fin 32) (s : State) : Out := .next (s.transfer (s.gs a))

/-- LOOP (R171): one level only, an end behind the group, a body skipped for a count of 0. -/
def execLoop (a : Fin 32) (off : BitVec 14) (s : State) : Out :=
  let t := s.label off
  let n := s.gs a
  s.checked (firstFail [s.chkField (s.ik.sc.lc ≠ 0), s.chkField (t.ult s.issue.next)])
    (if n = 0 then s.transfer t
     else s.modCore s.ic (fun k => { k with sc := { k.sc with lc := n, ls := s.issue.next, le := t } }))

/-- END (R172): the task ends at the end of the group. -/
def execEnd (s : State) : Out :=
  let s1 := s.modCore s.ic (fun k => { k with sc := { k.sc with lc := 0 } })
  s.checked (s.chkOp s.ik.inui) { s1 with issue := { s1.issue with ends := true } }

/-- Whether completions of the running task count from its start (R55). -/
def Core.ccrel (k : Core) : Bool :=
  match k.prog.cur with
  | some t => t.ccrel
  | none => false

/-- The origin from which a task counts completions of a channel (R61). -/
def Core.ccBase (k : Core) (ch : Nat) : W32 := if k.ccrel then k.ct.cbase.toArray.getD ch 0 else 0

/-- The earliest of completions 1 to n of a channel that ended with a fault not yet raised (R61); with n = 0, as CHK with s0 names it,
of every completion so far (R173, log 36). -/
def Core.deferred (k : Core) (ch : Nat) (n : W32) : Option Unraised :=
  let rel := fun (u : Unraised) => (u.num - k.ccBase ch).toNat
  let upTo := if n = 0 then (k.ct.cc.toArray.getD ch 0 - k.ccBase ch).toNat else n.toNat
  (k.ct.unraised.filter (fun u => u.ch = ch && 1 ≤ rel u && rel u ≤ upTo)).foldl (fun b u =>
    match b with
    | some x => if rel u < rel x then some u else some x
    | none => some u) none

/-- CHK (R61, R173): an unraised fault first, then the count. -/
def execChk (a : Fin 32) (ch : Fin 16) (s : State) : Out :=
  let k := s.ik
  let n : W32 := (s.gs a).truncate 32
  let cc := k.ct.cc[ch]
  match k.deferred ch.val n with
  | some u =>
    let s1 := s.modCore s.ic (fun k => { k with ct := { k.ct with unraised := k.ct.unraised.erase u } })
    .next (s1.takeTrap s.ic ⟨u.code, u.faddr, 0, false, some ch.val⟩ s.issue.base)
  | none =>
    s.checked (failIf ((cc - k.ccBase ch.val).ult n) cChkFail (BitVec.ofNat 64 (ch.val + cc.toNat * 2 ^ 32))) s

/-- UIWIN (R69, R174): a window over cycles t + 1 to t + n. -/
def execUiwin (n : BitVec 14) (s : State) : Out :=
  let c := s.ic
  let t := s.cyc c
  let w := t + n.toNat
  let s1 := s.modCore c (fun k => { k with ui := { k.ui with
    win := some w, opened := s.now, pc := s.issue.cur.bundle, overrun := false } })
  let s2 := (s1.postEv (s.inst c (t + 1)) 12 (.userInterrupt c)).postEv (s.inst c (w + 1)) 8 (.uiwinClose c)
  s.checked (s.chkOp (s.ik.inui || s.ik.priv)) { s2 with issue := { s2.issue with uiwin := some n.toNat } }

/-- UIRET (R174), a transfer of control to where the window goes on (R70, R145): at the end of the group s24 to s31 return and INUI
clears. -/
def execUiret (s : State) : Out :=
  let s1 := s.transfer s.ik.ui.ret
  s.checked (s.chkOp (!s.ik.inui || s.ik.priv)) { s1 with issue := { s1.issue with uiret := true } }

/-- A form that commits and then raises its cause, resuming at slot 1 (R175). -/
def State.raiseAfter (s : State) (cause : Nat) (code : BitVec 14) : Out :=
  .next (s.takeTrap s.ic ⟨cause, code.zeroExtend 64, 1, false, none⟩ s.issue.base)

def execTrap (code : BitVec 14) (s : State) : Out := s.raiseAfter cTrap code
def execBkpt (code : BitVec 14) (s : State) : Out := s.raiseAfter cBkpt code

/-- RETT (R176): at user privilege PRIV; else the return acts at the end of the group. -/
def execRett (a : Fin 32) (s : State) : Out :=
  s.checked (failIf (!s.ik.priv) cPriv s.image) { s with issue := { s.issue with back := some (s.gs a, s.issue.cur.bundle) } }

end Sys2Proof.Machine
end

