-- ==== Sys2Proof/Machine/Address.lean ====
section
/-! DEFINITION. The A slot (R182 to R184). -/

namespace Sys2Proof.Machine

open Sys2Proof

/-- A write of an a register by the issuing instruction. -/
def State.wrA (s : State) (d : Fin 16) (x : W32) : Out := .next (s.pend s.ic 1 (.a d.val) (.w (x.zeroExtend 64)))

/-- Fields of a buffer descriptor (R182). -/
def bufMode (b : W64) : Nat := getF b 62 2
def bufStep (b : W64) : Int := sxt 14 (getF b 48 14)
def bufLen (b : W64) : Nat := getF b 24 24
def bufBase (b : W64) : Nat := getF b 0 24

/-- The low n bits of a number reversed. -/
def revBits : Nat → Nat → Nat
  | 0, _ => 0
  | n + 1, x => x % 2 * 2 ^ n + revBits n (x / 2)

/-- One advance of an a register and the change of WRAP (R184). -/
def advance (b : W64) (ad : W32) (wr : W32) : W32 × W32 :=
  let base : Int := (bufBase b : Nat)
  let len : Int := (bufLen b : Nat)
  let x : Int := (ad.toNat : Int) + bufStep b
  match bufMode b with
  | 0 => (ofI 32 x, wr)
  | 1 => (ofI 32 (base + (x - base) % len), wr)
  | 2 => (ofI 32 (base + (x - base) % len), wr + ofI 32 ((x - base) / len))
  | _ =>
    let n := Nat.log2 (bufLen b)
    let j := (((ad.toNat : Int) - base) % len).toNat
    let q := (((revBits n j : Nat) : Int) + bufStep b) % len
    (ofI 32 (base + (revBits n q.toNat : Nat)), wr)

/-- A descriptor that ASETB refuses (R182). -/
def bufBad (b : W64) : Bool :=
  (bufMode b ≠ 0 && bufLen b = 0) || (bufMode b = 3 && bufLen b ≠ 2 ^ Nat.log2 (bufLen b))

def execAmov (ad : Fin 16) (imm : BitVec 16) (s : State) : Out := s.wrA ad (imm.zeroExtend 32)
def execAget (d : Fin 32) (ad : Fin 16) (s : State) : Out := .next (s.wrS d 1 ((s.ik.ra ad).zeroExtend 64))
def execAadd (ad : Fin 16) (imm : BitVec 16) (s : State) : Out := s.wrA ad (s.ik.ra ad + imm.signExtend 32)
def execAadds (ad : Fin 16) (a : Fin 32) (s : State) : Out := s.wrA ad (s.ik.ra ad + (s.gs a).truncate 32)
def execAsetb (bd : Fin 16) (a : Fin 32) (s : State) : Out :=
  s.checked (s.chkField (bufBad (s.gs a))) (s.pend s.ic 1 (.b bd.val) (.w (s.gs a)))

/-- An a register advanced, with the WRAP that a CIRC descriptor counts. -/
def State.advanced (s : State) (ad bd : Fin 16) (r : W32 × W32) : Out :=
  let s1 := s.pend s.ic 1 (.a ad.val) (.w (r.1.zeroExtend 64))
  .next (if bufMode s.ik.sc.b[bd] = 2 then s1.pend s.ic 1 (.wrap bd.val) (.w (r.2.zeroExtend 64)) else s1)

def execAinc (ad bd : Fin 16) (s : State) : Out :=
  s.advanced ad bd (advance s.ik.sc.b[bd] (s.ik.ra ad) s.ik.sc.wrap[bd])
/-- Twice within the cycle. -/
def execAinc2 (ad bd : Fin 16) (s : State) : Out :=
  let b := s.ik.sc.b[bd]
  let r := advance b (s.ik.ra ad) s.ik.sc.wrap[bd]
  s.advanced ad bd (advance b r.1 r.2)

end Sys2Proof.Machine
end

