-- ==== Sys2Proof/Machine/Aes.lean ====
section
/-! DEFINITION. AES-XTS-256 (R98): the cipher of FIPS 197 with a 256-bit key, and the XTS mode of IEEE 1619 over one 64-byte line. -/

namespace Sys2Proof.Machine

open Sys2Proof

/-! ### The field of 256 elements -/

/-- A product by x, modulo x^8 + x^4 + x^3 + x + 1. -/
def gfX (a : Nat) : Nat := if a < 128 then 2 * a else Nat.xor (2 * a) 0x11B

/-- A product, over the low n bits of the second factor. -/
def gfMul : Nat → Nat → Nat → Nat
  | 0, _, _ => 0
  | n + 1, a, b => Nat.xor (if b % 2 = 1 then a else 0) (gfMul n (gfX a) (b / 2))

/-- The inverse of an element, and 0 for 0: its 254th power. -/
def gfInv (a : Nat) : Nat :=
  let m := gfMul 8
  let a2 := m a a
  let a3 := m a2 a
  let a12 := m (m a3 a3) (m a3 a3)
  let a15 := m a12 a3
  let a240 := (List.range 4).foldl (fun x _ => m x x) a15
  m a240 (m a12 a2)

/-- A byte rotated to the left. -/
def rotl8 (a n : Nat) : Nat := a * 2 ^ n % 256 + a / 2 ^ (8 - n)

/-- The substitution of a byte, and its inverse. -/
def aesSub (a : Nat) : Nat :=
  let i := gfInv a
  (List.range 4).foldl (fun x n => Nat.xor x (rotl8 i (n + 1))) (Nat.xor i 0x63)
def aesUnsub (a : Nat) : Nat :=
  gfInv (Nat.xor (Nat.xor (rotl8 a 1) (Nat.xor (rotl8 a 3) (rotl8 a 6))) 0x05)

/-! ### The key schedule -/

/-- Two lists of bytes, added. -/
def xorBytes (a b : List Nat) : List Nat := (a.zip b).map (fun p => Nat.xor p.1 p.2)

/-- What is added to the word 8 before to give word i. -/
def keyTerm (i : Nat) (w : List Nat) : List Nat :=
  if i % 8 = 0 then
    xorBytes ((w.drop 1 ++ w.take 1).map aesSub) [(List.range (i / 8 - 1)).foldl (fun x _ => gfX x) 1, 0, 0, 0]
  else if i % 8 = 4 then w.map aesSub else w

/-- The words of the schedule, the latest first, from those of the key. -/
def keyWords : Nat → List (List Nat) → List (List Nat)
  | 0, l => l
  | n + 1, l =>
    let r := keyWords n l
    xorBytes (r.getD 7 []) (keyTerm r.length (r.headD [])) :: r

/-- The 15 round keys of a key of 32 bytes. -/
def roundKeys (key : List Nat) : List (List Nat) :=
  let ws := (keyWords 52 ((List.range 8).map (fun i => (key.drop (4 * i)).take 4)).reverse).reverse
  (List.range 15).map (fun r => ((ws.drop (4 * r)).take 4).flatten)

/-! ### The cipher -/

/-- A column multiplied by the circulant matrix of four coefficients. -/
def mixColumn (m col : List Nat) : List Nat :=
  (List.range 4).map (fun r => (List.range 4).foldl (fun x j => Nat.xor x (gfMul 8 (col.getD j 0) (m.getD ((j + 4 - r) % 4) 0))) 0)

/-- Every column of a block multiplied. -/
def mixColumns (m b : List Nat) : List Nat := (List.range 4).flatMap (fun c => mixColumn m ((b.drop (4 * c)).take 4))

/-- Row r of a block rotated by r columns times s. -/
def shiftRows (s : Nat) (b : List Nat) : List Nat := (List.range 16).map (fun i => b.getD (i % 4 + 4 * ((i / 4 + s * (i % 4)) % 4)) 0)

/-- One block of 16 bytes enciphered, and deciphered. -/
def aesEnc (ks : List (List Nat)) (b : List Nat) : List Nat :=
  let x := (List.range 13).foldl (fun b r => xorBytes (mixColumns [2, 3, 1, 1] (shiftRows 1 (b.map aesSub))) (ks.getD (r + 1) []))
    (xorBytes b (ks.getD 0 []))
  xorBytes (shiftRows 1 (x.map aesSub)) (ks.getD 14 [])
def aesDec (ks : List (List Nat)) (b : List Nat) : List Nat :=
  let x := (List.range 13).foldl (fun b r => mixColumns [14, 11, 13, 9] (xorBytes ((shiftRows 3 b).map aesUnsub) (ks.getD (13 - r) [])))
    (xorBytes b (ks.getD 14 []))
  xorBytes ((shiftRows 3 x).map aesUnsub) (ks.getD 0 [])

/-! ### XTS -/

/-- The 16 bytes of a number, lowest first. -/
def block16 (x : Nat) : List Nat := (List.range 16).map (fun i => x / 256 ^ i % 256)

/-- The number of some bytes, lowest first. -/
def blockNum (b : List Nat) : Nat := b.foldr (fun x n => x + 256 * n) 0

/-- A tweak multiplied by the primitive element of the field of 2^128 elements. -/
def xtsNext (t : Nat) : Nat := if t < 2 ^ 127 then 2 * t else Nat.xor (2 * t - 2 ^ 128) 0x87

/-- The blocks of a line, each through a block function between two additions of its tweak. -/
def xtsBlocks (f : List Nat → List Nat) : Nat → Nat → List Nat → List Nat
  | 0, _, _ => []
  | n + 1, t, b => xorBytes (f (xorBytes (b.take 16) (block16 t))) (block16 t) ++ xtsBlocks f n (xtsNext t) (b.drop 16)

/-- The bytes of half of a key slot: half 0 enciphers data, half 1 the tweak. -/
def keyHalf (k : BitVec 512) (h : Nat) : List Nat := (List.range 32).map (fun i => getF k (256 * h + 8 * i) 8)

/-- A line of 64 bytes enciphered under the keys of a slot with a tweak, and deciphered. -/
def xtsEnc (k : BitVec 512) (tweak : Nat) (line : List Byte) : List Byte :=
  (xtsBlocks (aesEnc (roundKeys (keyHalf k 0))) 4 (blockNum (aesEnc (roundKeys (keyHalf k 1)) (block16 tweak))) (line.map (·.toNat))).map
    (BitVec.ofNat 8)
def xtsDec (k : BitVec 512) (tweak : Nat) (line : List Byte) : List Byte :=
  (xtsBlocks (aesDec (roundKeys (keyHalf k 0))) 4 (blockNum (aesEnc (roundKeys (keyHalf k 1)) (block16 tweak))) (line.map (·.toNat))).map
    (BitVec.ofNat 8)

end Sys2Proof.Machine
end

