-- ==== Sys2Proof/Machine/VectorAlu.lean ====
section
/-! DEFINITION. Elementwise vector arithmetic, compares, masks, special functions and conversions (R192 to R199). -/

namespace Sys2Proof.Machine

open Sys2Proof

/-- A function of the element number and three containers, applied at the active elements: containers and flags. -/
def vmap (m : Mask) (f : Nat → Nat → Nat → Nat → Nat × Flags) : Nat → List W32 → List W32 → List W32 → List W32 × Flags
  | e, x :: xs, y :: ys, z :: zs =>
    let r := vmap m f (e + 1) xs ys zs
    if m.getLsbD e then
      let q := f e x.toNat y.toNat z.toNat
      (BitVec.ofNat 32 q.1 :: r.1, q.2 ||| r.2)
    else (0 :: r.1, r.2)
  | _, _, _, _ => ([], 0)

/-- A source of tag NONE (R190). -/
def chkSome (t : Tag) : Check := chkTag (t ≠ .none) t

/-- Unscaled sources of one accepted tag (R190, R192). Where two tags differ, the code found is that of the later source; for the
destination rule of R188 it is the destination's, for a VST or VSTX whose register and handle differ the handle's (DESIGN CHOICE, log 31:
R293 says only the tag code found). -/
def chkSame (ok : Tag → Bool) : List VReg → Check
  | [] => none
  | a :: r =>
    firstFail ((a :: r).map (fun x => chkSome x.tag) ++ (a :: r).map (fun x => chkTag (ok x.tag && !x.sc) x.tag)
      ++ r.map (fun x => chkTag (x.tag = a.tag) x.tag))

/-- A vector result with the flags of its active elements, both at t + l. -/
def State.vRes (s : State) (vd : Fin 32) (l : Nat) (x : VReg) (m : Mask) (fl : Flags) : State :=
  (s.wrV vd l x m).wrFlags l fl

/-- An elementwise form of one tag: latency beats + lat (R207). -/
def State.vElem (s : State) (vd : Fin 32) (k : Fin 8) (h : Hold) (a : VReg) (b c : Option VReg) (ports : Nat)
    (ok : Tag → Bool) (mul : Bool) (lat : Nat) (f : Tag → Nat → Nat → Nat → Nat → Nat × Flags) : Out :=
  let srcs := a :: (b.toList ++ c.toList)
  let n := beats (srcs.map (·.tag))
  let fpm := mul && a.tag = .fp32
  let m := s.ik.rk k
  let r := vmap m (f a.tag) 0 a.cells ((b.getD a).cells) ((c.getD a).cells)
  s.checked
    (firstFail [chkBusy (s.vBusy n ports fpm), chkSame ok srcs, s.ik.chkDest vd k a.tag false 0])
    (((s.vTake n ports fpm).latch h a b).vRes vd (n + lat) (.plain a.tag r.1) m r.2)

/-- A form of two sources. -/
def State.vBin (s : State) (vd va vb : Fin 32) (k : Fin 8) (h : Hold) (ok : Tag → Bool) (mul : Bool)
    (f : Tag → Nat → Nat → Nat → Nat × Flags) : Out :=
  s.vElem vd k h (s.srcA va h) (some (s.srcB vb h)) none (ports2 h) ok mul 3 (fun t e a b _ => f t e a b)

/-- A form of three sources: the addend is vd as it stands at issue (R192). -/
def State.vTer (s : State) (vd va vb : Fin 32) (k : Fin 8) (h : Hold) (ok : Tag → Bool)
    (f : Tag → Nat → Nat → Nat → Nat → Nat × Flags) : Out :=
  s.vElem vd k h (s.srcA va h) (some (s.srcB vb h)) (some (s.ik.v vd)) (ports2 h + 1) ok true 3 f

/-- A form of one source. -/
def State.vUn (s : State) (vd va : Fin 32) (k : Fin 8) (h : Hold) (ok : Tag → Bool) (lat : Nat)
    (f : Tag → Nat → Nat → Nat × Flags) : Out :=
  s.vElem vd k h (s.srcA va h) none none (ports1 h) ok false lat (fun t e a _ _ => f t e a)

/-- Floats and integers. -/
def okArith (t : Tag) : Bool := t.isFloat || t.isInt
/-- Any unscaled tag but NONE (R192). -/
def okLogic (t : Tag) : Bool := t ≠ .none
/-- Integers and RAW32. -/
def okShift (t : Tag) : Bool := t.isInt || t = .raw32

/-- An integer wrapped into a container (R192). -/
def wrapTo (t : Tag) (i : Int) : Nat := (ofI 32 i).toNat % 2 ^ t.bits

/-- An arithmetic form on floats or on integers. -/
def arith (ff : Fmt → Nat → Nat → Nat → Nat → Nat × Flags) (fi : Int → Int → Int → Int) (seed : W64) (t : Tag)
    (e a b c : Nat) : Nat × Flags :=
  match t.fmt with
  | some f => ff f (srG seed e) a b c
  | none => (wrapTo t (fi (t.int a) (t.int b) (t.int c)), 0)

def execVadd (vd va vb : Fin 32) (k : Fin 8) (h : Hold) (m : RMode) (s : State) : Out :=
  s.vBin vd va vb k h okArith false (fun t e a b =>
    arith (fun f g a b _ => f.add m g a b) (fun a b _ => a + b) s.ik.sc.seed t e a b 0)
def execVsub (vd va vb : Fin 32) (k : Fin 8) (h : Hold) (m : RMode) (s : State) : Out :=
  s.vBin vd va vb k h okArith false (fun t e a b =>
    arith (fun f g a b _ => f.sub m g a b) (fun a b _ => a - b) s.ik.sc.seed t e a b 0)
def execVmul (vd va vb : Fin 32) (k : Fin 8) (h : Hold) (m : RMode) (s : State) : Out :=
  s.vBin vd va vb k h okArith true (fun t e a b =>
    arith (fun f g a b _ => f.mul m g a b) (fun a b _ => a * b) s.ik.sc.seed t e a b 0)
def execVfma (vd va vb : Fin 32) (k : Fin 8) (h : Hold) (m : RMode) (s : State) : Out :=
  s.vTer vd va vb k h okArith (fun t e a b c =>
    arith (fun f g a b c => f.fma m g a b c) (fun a b c => a * b + c) s.ik.sc.seed t e a b c)
def execVfms (vd va vb : Fin 32) (k : Fin 8) (h : Hold) (m : RMode) (s : State) : Out :=
  s.vTer vd va vb k h okArith (fun t e a b c =>
    arith (fun f g a b c => f.fms m g a b c) (fun a b c => a * b - c) s.ik.sc.seed t e a b c)
def execVmin (vd va vb : Fin 32) (k : Fin 8) (h : Hold) (s : State) : Out :=
  s.vBin vd va vb k h okArith false (fun t e a b =>
    arith (fun f _ a b _ => f.minmax false a b) (fun a b _ => min a b) s.ik.sc.seed t e a b 0)
def execVmax (vd va vb : Fin 32) (k : Fin 8) (h : Hold) (s : State) : Out :=
  s.vBin vd va vb k h okArith false (fun t e a b =>
    arith (fun f _ a b _ => f.minmax true a b) (fun a b _ => max a b) s.ik.sc.seed t e a b 0)

/-- A float with its sign cleared or flipped; a NaN becomes canonical, with NV if signalling (R192). -/
def Fmt.signOp (f : Fmt) (flip : Bool) (a : Nat) : Nat × Flags :=
  match f.decode a with
  | .nan sg => (f.nanCode, flIf sg flNV)
  | v =>
    let mag := fld a 0 (f.w - 1)
    (if flip && !v.sign then 2 ^ (f.w - 1) + mag else mag, 0)

def execVabs (vd va : Fin 32) (k : Fin 8) (h : Hold) (s : State) : Out :=
  s.vUn vd va k h okArith 3 (fun t e a =>
    arith (fun f _ a _ _ => f.signOp false a) (fun a _ _ => (a.natAbs : Int)) s.ik.sc.seed t e a 0 0)
def execVneg (vd va : Fin 32) (k : Fin 8) (h : Hold) (s : State) : Out :=
  s.vUn vd va k h okArith 3 (fun t e a =>
    arith (fun f _ a _ _ => f.signOp true a) (fun a _ _ => -a) s.ik.sc.seed t e a 0 0)
def execVand (vd va vb : Fin 32) (k : Fin 8) (h : Hold) (s : State) : Out :=
  s.vBin vd va vb k h okLogic false (fun _ _ a b => (Nat.land a b, 0))
def execVor (vd va vb : Fin 32) (k : Fin 8) (h : Hold) (s : State) : Out :=
  s.vBin vd va vb k h okLogic false (fun _ _ a b => (Nat.lor a b, 0))
def execVxor (vd va vb : Fin 32) (k : Fin 8) (h : Hold) (s : State) : Out :=
  s.vBin vd va vb k h okLogic false (fun _ _ a b => (Nat.xor a b, 0))
def execVshl (vd va vb : Fin 32) (k : Fin 8) (h : Hold) (s : State) : Out :=
  s.vBin vd va vb k h okShift false (fun t _ a b => (a * 2 ^ (b % t.bits) % 2 ^ t.bits, 0))
def execVshr (vd va vb : Fin 32) (k : Fin 8) (h : Hold) (s : State) : Out :=
  s.vBin vd va vb k h okShift false (fun t _ a b => (a / 2 ^ (b % t.bits), 0))
/-- For UINT8 and RAW32 it acts as VSHR. -/
def execVsar (vd va vb : Fin 32) (k : Fin 8) (h : Hold) (s : State) : Out :=
  s.vBin vd va vb k h okShift false (fun t _ a b =>
    (if t = .uint8 || t = .raw32 then a / 2 ^ (b % t.bits) else wrapTo t (t.int a / 2 ^ (b % t.bits)), 0))
def execVmulh (vd va vb : Fin 32) (k : Fin 8) (h : Hold) (s : State) : Out :=
  s.vBin vd va vb k h Tag.isInt false (fun t _ a b => (wrapTo t (t.int a * t.int b / 2 ^ t.bits), 0))

/-- A result clamped to the tag's range (R192). -/
def clampTag (t : Tag) (i : Int) : Nat × Flags :=
  let r := clampTo t.range.1 t.range.2 i
  (wrapTo t r.1, r.2)

def execVadds (vd va vb : Fin 32) (k : Fin 8) (h : Hold) (s : State) : Out :=
  s.vBin vd va vb k h Tag.isInt false (fun t _ a b => clampTag t (t.int a + t.int b))
def execVsubs (vd va vb : Fin 32) (k : Fin 8) (h : Hold) (s : State) : Out :=
  s.vBin vd va vb k h Tag.isInt false (fun t _ a b => clampTag t (t.int a - t.int b))

/-! ### Compare and masks (R193, R194) -/

/-- Numeric tags of VCMP. -/
def okCmp (t : Tag) : Bool := okArith t || t = .e4m3f || t = .e5m2f

/-- VCMP: inactive bits of kd are not written. -/
def execVcmp (kd : Fin 8) (va vb : Fin 32) (k : Fin 8) (h : Hold) (cond : FCond) (s : State) : Out :=
  let a := s.srcA va h
  let b := s.srcB vb h
  let n := beats [a.tag, b.tag]
  let m := s.ik.rk k
  let r := vmap m (fun _ x y _ => let q := cmpVal cond (a.tag.value x) (a.tag.value y); (b2n q.1, q.2)) 0
    a.cells b.cells b.cells
  let bits := maskOf (r.1.map (fun x => x ≠ 0))
  s.checked (firstFail [chkBusy (s.vBusy n (ports2 h) false), chkSame okCmp [a, b]])
    (((((s.vTake n (ports2 h) false).latch h a (some b)).wrK kd (n + 3) bits m)).wrFlags (n + 3) r.2)

/-- A mask form: one cycle of the slot, every bit written. -/
def State.kForm (s : State) (kd : Fin 8) (x : Mask) : Out :=
  s.checked (chkBusy (s.vBusy 1 0 false)) ((s.vTake 1 0 false).wrK kd 1 x (BitVec.allOnes 1024))

def execKand (kd ka kb : Fin 8) (s : State) : Out := s.kForm kd (s.ik.rk ka &&& s.ik.rk kb)
def execKor (kd ka kb : Fin 8) (s : State) : Out := s.kForm kd (s.ik.rk ka ||| s.ik.rk kb)
def execKxor (kd ka kb : Fin 8) (s : State) : Out := s.kForm kd (s.ik.rk ka ^^^ s.ik.rk kb)
def execKnot (kd ka : Fin 8) (s : State) : Out := s.kForm kd (~~~ s.ik.rk ka)
def execKpop (d : Fin 32) (ka : Fin 8) (s : State) : Out :=
  s.checked (chkBusy (s.vBusy 1 0 false))
    ((s.vTake 1 0 false).wrS d 2 (BitVec.ofNat 64 (onesIn (s.ik.rk ka).toNat 1024)))
def execKset (kd : Fin 8) (n : BitVec 14) (s : State) : Out :=
  s.kForm kd (BitVec.ofNat 1024 (2 ^ Nat.min n.toNat 1024 - 1))

/-! ### Special functions (R195) -/

/-- FP32 and BF16. -/
def okSpecial (t : Tag) : Bool := t = .fp32 || t = .bf16

/-- A special function of R119: latency beats + 11. -/
def State.vSpecial (s : State) (vd va : Fin 32) (k : Fin 8) (h : Hold) (fn : SpFn) : Out :=
  s.vUn vd va k h okSpecial 11 (fun t _ a =>
    match t.fmt with
    | some f => special f fn a
    | none => (0, 0))

def execVrcp (vd va : Fin 32) (k : Fin 8) (h : Hold) (s : State) : Out := s.vSpecial vd va k h .rcp
def execVsqrt (vd va : Fin 32) (k : Fin 8) (h : Hold) (s : State) : Out := s.vSpecial vd va k h .sqrt
def execVrsq (vd va : Fin 32) (k : Fin 8) (h : Hold) (s : State) : Out := s.vSpecial vd va k h .rsq
def execVexp2 (vd va : Fin 32) (k : Fin 8) (h : Hold) (s : State) : Out := s.vSpecial vd va k h .exp2
def execVlog2 (vd va : Fin 32) (k : Fin 8) (h : Hold) (s : State) : Out := s.vSpecial vd va k h .log2
def execVtanh (vd va : Fin 32) (k : Fin 8) (h : Hold) (s : State) : Out := s.vSpecial vd va k h .tanh

/-! ### Conversions (R196 to R199) -/

/-- A register packed block by block (R107): codes, scale bytes with the TYPE code, flags. -/
def packReg (p : PackTo) (m : RMode) (ty : Nat) (seed : W64) (a : VReg) : List W32 × List Byte × Flags :=
  let rs := (List.range 32).map (fun b =>
    packBlock p m 0 ((List.range 32).map (fun i => srG seed (b * 32 + i)))
      ((List.range 32).map (fun i => a.value (b * 32 + i))))
  ((rs.map (fun r => r.2.1.map (BitVec.ofNat 32))).flatten,
   rs.map (fun r => BitVec.ofNat 8 (r.1 + ty * 64)),
   rs.foldl (fun f r => f ||| r.2.2) 0)

/-- VCVT (R196). A scaled integer register is real, whatever the target (log 35). -/
def execVcvt (vd va : Fin 32) (k : Fin 8) (h : Hold) (tgt : Tag) (sc : Bool) (m : RMode) (s : State) : Out :=
  let a := s.srcA va h
  let n := beats [a.tag, if a.tag = .none then .none else tgt]
  let seed := s.ik.sc.seed
  let mk := s.ik.rk k
  let r : VReg × Flags :=
    if sc then
      let q := packReg (.tag tgt) m 0 seed a
      (⟨q.1, tgt, true, 0, q.2.1⟩, q.2.2)
    else
      let q := vmap mk (fun e x _ _ =>
        tgt.convert m (srG seed e) (a.tag.isInt && !a.sc) (elemValue a.tag a.sc a.teo x (a.scale e))) 0 a.cells a.cells a.cells
      (.plain tgt q.1, q.2)
  s.checked
    (firstFail [chkBusy (s.vBusy n (ports1 h) false), chkTag (a.tag ≠ .none && a.tag ≠ .raw32) a.tag,
      s.ik.chkDest vd k tgt sc 0])
    (((s.vTake n (ports1 h) false).latch h a none).vRes vd (n + 4) r.1 mk r.2)

/-- VPACK4 (R197). -/
def execVpack4 (vd va : Fin 32) (h : Hold) (ty : Sn4Ty) (m : RMode) (s : State) : Out :=
  let a := s.srcA va h
  let n := beats [a.tag]
  let q := packReg (.sn4 ty) m ty.code s.ik.sc.seed a
  s.checked (firstFail [chkBusy (s.vBusy n (ports1 h) false), chkTag (a.tag.isFloat) a.tag])
    (((s.vTake n (ports1 h) false).latch h a none).vRes vd (n + 4) ⟨q.1, .sn4, true, 0, q.2.1⟩
      (BitVec.allOnes 1024) q.2.2)

/-- VUNPACK4 (R198): SN4 to BF16. -/
def execVunpack4 (vd va : Fin 32) (k : Fin 8) (h : Hold) (m : RMode) (s : State) : Out :=
  let a := s.srcA va h
  let n := beats [a.tag, if a.tag = .none then .none else .bf16]
  let mk := s.ik.rk k
  let q := vmap mk (fun e x _ _ => fmtBf16.round m (srG s.ik.sc.seed e) (elemValue a.tag a.sc a.teo x (a.scale e))) 0
    a.cells a.cells a.cells
  s.checked
    (firstFail [chkBusy (s.vBusy n (ports1 h) false), chkTag (a.tag = .sn4) a.tag, s.ik.chkDest vd k .bf16 false 0])
    (((s.vTake n (ports1 h) false).latch h a none).vRes vd 6 (.plain .bf16 q.1) mk q.2)

/-- VTAG (R199): the bits keep, the tag changes. -/
def execVtag (vd va : Fin 32) (k : Fin 8) (h : Hold) (tgt : Tag) (s : State) : Out :=
  let a := s.srcA va h
  let n := beats [a.tag]
  s.checked
    (firstFail [chkBusy (s.vBusy n (ports1 h) false), chkSome a.tag,
      chkTag (!a.sc && a.tag.bytes = tgt.bytes) a.tag, s.ik.chkDest vd k tgt false 0])
    (((s.vTake n (ports1 h) false).latch h a none).wrV vd (n + 3) (.plain tgt a.data) (s.ik.rk k))

end Sys2Proof.Machine
end

