-- ==== Sys2Proof/Machine/VectorMove.lean ====
section
/-! DEFINITION. Vector movement, construction, axis forms, reductions, scans and the generator (R200 to R203, R120). -/

namespace Sys2Proof.Machine

open Sys2Proof

/-- Every element. -/
def allMask : Mask := BitVec.allOnes 1024

/-- A form of one source that moves containers: vd[e] is the container of element src e. -/
def State.vMove (s : State) (vd va : Fin 32) (k : Fin 8) (h : Hold) (lat : Nat) (src : Nat → Nat) : Out :=
  let a := s.srcA va h
  let n := beats [a.tag]
  let cells := a.cells.toArray
  s.checked
    (firstFail [chkBusy (s.vBusy n (ports1 h) false), chkSome a.tag, chkTag (!a.sc) a.tag,
      s.ik.chkDest vd k a.tag false 0])
    (((s.vTake n (ports1 h) false).latch h a none).wrV vd (n + lat)
      (.plain a.tag (elems.map (fun e => cells.getD (src e) 0))) (s.ik.rk k))

/-- VMOV: scaled tags copy the scale area. -/
def execVmov (vd va : Fin 32) (k : Fin 8) (h : Hold) (s : State) : Out :=
  let a := s.srcA va h
  let n := beats [a.tag]
  s.checked (firstFail [chkBusy (s.vBusy n (ports1 h) false), chkSome a.tag, s.ik.chkDest vd k a.tag a.sc a.teo])
    (((s.vTake n (ports1 h) false).latch h a none).wrV vd (n + 3) a (s.ik.rk k))

/-- VSEL: va where the mask is set, else vb; every element is written. -/
def execVsel (vd va vb : Fin 32) (k : Fin 8) (h : Hold) (s : State) : Out :=
  let a := s.srcA va h
  let b := s.srcB vb h
  let n := beats [a.tag, b.tag]
  s.checked (firstFail [chkBusy (s.vBusy n (ports2 h) false), chkSame okLogic [a, b]])
    (((s.vTake n (ports2 h) false).latch h a (some b)).wrV vd (n + 3)
      (.plain a.tag (mergeData (s.ik.rk k) a.cells b.cells)) allMask)

/-- A register built without a vector source. -/
def State.vMake (s : State) (vd : Fin 32) (n l : Nat) (x : VReg) : Out :=
  s.checked (chkBusy (s.vBusy n 0 false)) ((s.vTake n 0 false).wrV vd l x allMask)

def execVbcs (vd a : Fin 32) (tag : Tag) (s : State) : Out :=
  let x : W32 := BitVec.ofNat 32 (fld (s.gs a).toNat 0 tag.bits)
  s.vMake vd tag.bytes (tag.bytes + 3) (.plain tag (List.replicate 1024 x))
def execViota (vd : Fin 32) (imm : BitVec 14) (s : State) : Out :=
  s.vMake vd 4 7 (.plain .int32 (elems.map (fun e => imm.signExtend 32 + BitVec.ofNat 32 e)))
def execVrand (vd a : Fin 32) (s : State) : Out :=
  let x := s.gs a
  s.vMake vd 4 10 (.plain .int32 (elems.map (fun e =>
    BitVec.ofNat 32 (genG (getF x 0 32) ((getF x 32 32 + e) % 2 ^ 32)))))

def execVbrow (vd va : Fin 32) (row : Fin 16) (k : Fin 8) (h : Hold) (s : State) : Out :=
  s.vMove vd va k h 5 (fun e => row.val * 64 + e % 64)
def execVbcol (vd va : Fin 32) (col : Fin 64) (k : Fin 8) (h : Hold) (s : State) : Out :=
  s.vMove vd va k h 9 (fun e => e / 64 * 64 + col.val)
def execVrotr (vd va : Fin 32) (n : Fin 64) (k : Fin 8) (h : Hold) (s : State) : Out :=
  s.vMove vd va k h 5 (fun e => e / 64 * 64 + (e % 64 + 64 - n.val) % 64)
def execVrotc (vd va : Fin 32) (n : Fin 16) (k : Fin 8) (h : Hold) (s : State) : Out :=
  s.vMove vd va k h 9 (fun e => (e / 64 + 16 - n.val) % 16 * 64 + e % 64)
/-- vd[r][16q + c] := va[c][16q + r]. -/
def execVtrn (vd va : Fin 32) (k : Fin 8) (h : Hold) (s : State) : Out :=
  s.vMove vd va k h 9 (fun e => e % 16 * 64 + e % 64 / 16 * 16 + e / 64)

/-- VPERM: the indices are unsigned, modulo 64, of any integer tag (R201). -/
def execVperm (vd va vb : Fin 32) (k : Fin 8) (h : Hold) (s : State) : Out :=
  let a := s.srcA va h
  let b := s.srcB vb h
  let n := beats [a.tag, b.tag]
  let cells := a.cells.toArray
  let idx := b.cells.toArray
  s.checked
    (firstFail [chkBusy (s.vBusy n (ports2 h) false), chkSome a.tag, chkSome b.tag, chkTag (!a.sc) a.tag,
      chkTag (b.tag.isInt && !b.sc) b.tag, s.ik.chkDest vd k a.tag false 0])
    (((s.vTake n (ports2 h) false).latch h a (some b)).wrV vd (n + 5)
      (.plain a.tag (elems.map (fun e => cells.getD (e / 64 * 64 + (idx.getD e 0).toNat % 64) 0))) (s.ik.rk k))

/-! ### Reductions and scans (R202, R120) -/

/-- The tag in which a reduction combines and delivers. -/
def redTag (op : RedOp) (t : Tag) : Tag :=
  match op with
  | .sum => if t.isFloat then .fp32 else .int32
  | _ => t

/-- An element as it enters the tree: widened for a sum; excluded elements give +0 or the identity. -/
def redIn (op : RedOp) (t : Tag) (active : Bool) (c : Nat) : Nat × Flags :=
  match op with
  | .sum =>
    if !active then (0, 0)
    else match t.fmt with
      | some f => if t = .fp32 then (c, 0) else let v := f.decode c; fmt32.fin .rne 0 (v, flIf v.isSig flNV)
      | none => (wrapTo .int32 (t.int c), 0)
  | _ =>
    if active then (c, 0)
    else match t.fmt with
      | some f => (f.signBit (op = .max) + f.maxCode + 1, 0)
      | none => (wrapTo t (if op = .max then t.range.1 else t.range.2), 0)

/-- One combination. -/
def redOp (op : RedOp) (t : Tag) (a b : Nat) : Nat × Flags :=
  match op with
  | .sum => if t.isFloat then fmt32.add .rne 0 a b else (wrapTo .int32 (Tag.int32.int a + Tag.int32.int b), 0)
  | .min => match t.fmt with
    | some f => f.minmax false a b
    | none => (wrapTo t (min (t.int a) (t.int b)), 0)
  | .max => match t.fmt with
    | some f => f.minmax true a b
    | none => (wrapTo t (max (t.int a) (t.int b)), 0)

/-- The pairwise tree: entry i is combined with the entry half a list further, the lower on the left; n levels. -/
def redTree (op : RedOp) (t : Tag) : Nat → List (Nat × Flags) → Nat × Flags
  | 0, l => l.headD (0, 0)
  | n + 1, l =>
    let half := l.length / 2
    redTree op t n (((l.take half).zip (l.drop half)).map (fun p =>
      let q := redOp op t p.1.1 p.2.1
      (q.1, q.2 ||| p.1.2 ||| p.2.2)))

/-- The first value of a scan: a NaN result is canonical, with NV where the input is signalling (R111). -/
def redFirst (op : RedOp) (t : Tag) (x : Nat × Flags) : Nat × Flags :=
  match (redTag op t).fmt with
  | some f => match f.decode x.1 with
    | .nan sg => (f.nanCode, x.2 ||| flIf sg flNV)
    | _ => x
  | none => x

/-- The sequential scan (R120). -/
def redScan (op : RedOp) (t : Tag) : Option Nat → List (Nat × Flags) → List (Nat × Flags)
  | _, [] => []
  | none, x :: r =>
    let y := redFirst op t x
    y :: redScan op t (some y.1) r
  | some a, x :: r =>
    let q := redOp op t a x.1
    (q.1, q.2 ||| x.2) :: redScan op t (some q.1) r

/-- A reduction or scan: every element is written, with the result tag whatever the mask (R202). -/
def State.vReduce (s : State) (vd va : Fin 32) (op : RedOp) (k : Fin 8) (h : Hold) (lat : Nat)
    (f : Tag → List (Nat × Flags) → List (Nat × Flags)) : Out :=
  let a := s.srcA va h
  let n := beats [a.tag, redTag op a.tag]
  let m := s.ik.rk k
  let ins := (a.cells.zip elems).map (fun p => redIn op a.tag (m.getLsbD p.2) p.1.toNat)
  let outs := f a.tag ins
  s.checked (firstFail [chkBusy (s.vBusy n (ports1 h) false), chkSame okArith [a]])
    (((s.vTake n (ports1 h) false).latch h a none).vRes vd (n + lat)
      (.plain (redTag op a.tag) (outs.map (fun x => BitVec.ofNat 32 x.1))) allMask
      (outs.foldl (fun g x => g ||| x.2) 0))

/-- Row r of 1024 entries. -/
def rowOf {α : Type} (l : List α) (r : Nat) : List α := (l.drop (r * 64)).take 64

def execVredr (vd va : Fin 32) (op : RedOp) (k : Fin 8) (h : Hold) (s : State) : Out :=
  s.vReduce vd va op k h 5 (fun t l =>
    ((List.range 16).map (fun r => List.replicate 64 (redTree op t 6 (rowOf l r)))).flatten)
def execVredc (vd va : Fin 32) (op : RedOp) (k : Fin 8) (h : Hold) (s : State) : Out :=
  s.vReduce vd va op k h 9 (fun t l =>
    let rows := (List.range 16).map (rowOf l)
    let res := (List.range 64).map (fun c => redTree op t 4 (rows.map (fun r => r.getD c (0, 0))))
    (List.replicate 16 res).flatten)
def execVscanr (vd va : Fin 32) (op : RedOp) (k : Fin 8) (h : Hold) (s : State) : Out :=
  s.vReduce vd va op k h 5 (fun t l => ((List.range 16).map (fun r => redScan op t none (rowOf l r))).flatten)

end Sys2Proof.Machine
end

