-- ==== Sys2Proof/Machine/VectorMem.lean ====
section
/-! DEFINITION. Vector loads and stores (R204 to R206). -/

namespace Sys2Proof.Machine

open Sys2Proof

/-- The view's entry and the a register of a memory form. -/
def State.vEntry (s : State) (h : Fin 256) : TEntry := s.ik.vEnt h.val

/-- Lines of a block whose row r begins at element a + r × stride, scale bytes included (R206). -/
def blockLines (e : TEntry) (a stride rows : Nat) : List Nat :=
  ((List.range rows).map (fun r => linesOf ((a + r * stride) * entHalf e) (64 * entHalf e))).flatten
    ++ (if entScaled e then
      ((List.range rows).map (fun r => [entScaleAt e (a + r * stride) / 64, entScaleAt e (a + r * stride + 32) / 64])).flatten
      else [])

/-- The alignment that R205 asks of a scaled or SN4 handle. -/
def blockAligned (e : TEntry) (a : Nat) (cols : Bool) : Bool :=
  !entScaled e || (a % 32 = 0 && (!cols || entCols e % 32 = 0))

/-- The uses of a footprint, and whether it needs more lines of a bank than its form allows. -/
def State.chkUses (s : State) (us : Option (List BankUse)) : Check :=
  match us with
  | some l => chkBusy (s.ik.bankBusy l)
  | none => chkBusy true

/-- VLD and VLDB: checks in the order of R190, read from bank cycle t + 1 on, visible at t + 8. -/
def State.vLoad (s : State) (v : Fin 32) (h : Fin 256) (a : Fin 16) (k : Fin 8) (stride rows per : Nat)
    (cols : Bool) (what : LoadKind) : Out :=
  let c := s.ic
  let e := s.vEntry h
  let i := (s.ik.ra a).toNat
  let last := i + (rows - 1) * stride + 63
  let inside := last < entCount e && blockAligned e i cols
  let us := if inside then footprint e (s.cyc c + 1) per (blockLines e i stride rows) else none
  s.checked
    (firstFail [chkBusy (s.vBusy 1 0 false), s.ik.chkView h.val, chkSome (entTag e),
      s.ik.chkDest v k (entTag e) (entSc e) (entTeo e), s.ik.chkRw 1 h.val false, chkRange inside h.val, s.chkUses us])
    ((((s.vTake 1 0 false).claim c (us.getD [])).wrV v 8 ⟨[], entTag e, entSc e, entTeo e, []⟩ (s.ik.rk k)).tileOp c 1
      (.load h.val e what))

def execVld (v : Fin 32) (h : Fin 256) (a : Fin 16) (k : Fin 8) (s : State) : Out :=
  s.vLoad v h a k (entCols (s.vEntry h)) 16 2 true (.vld (s.ik.ra a).toNat)
def execVldb (v : Fin 32) (h : Fin 256) (a : Fin 16) (k : Fin 8) (s : State) : Out :=
  s.vLoad v h a k 0 1 1 false (.vldb (s.ik.ra a).toNat)

/-- The bytes that VST writes: active elements, and the scale byte of a block with an active element (R204). -/
def vstBytes (e : TEntry) (x : VReg) (m : Mask) (a : Nat) : List MByte :=
  ((x.cells.zip elems).map (fun p =>
      if m.getLsbD p.2 then entPut e (a + p.2 / 64 * entCols e + p.2 % 64) p.1.toNat else [])).flatten
    ++ (if entScaled e then
      ((List.range 32).map (fun b =>
        if (List.range 32).any (fun i => m.getLsbD (b * 32 + i)) then
          [⟨entScaleAt e (a + b / 2 * entCols e + b % 2 * 32), x.scales.getD b 0, 0xFF⟩]
        else [])).flatten
      else [])

/-- VST: bank cycles t + 3 and t + 4, all bytes commit in t + 4. -/
def execVst (v : Fin 32) (h : Fin 256) (a : Fin 16) (k : Fin 8) (s : State) : Out :=
  let c := s.ic
  let e := s.vEntry h
  let x := s.ik.v v
  let n := beats [x.tag]
  let i := (s.ik.ra a).toNat
  let inside := i + 15 * entCols e + 63 < entCount e && blockAligned e i true
  let us := if inside then footprint e (s.cyc c + 3) 2 (blockLines e i (entCols e) 16) else none
  s.checked
    (firstFail [chkBusy (s.vBusy n 1 false), s.ik.chkView h.val, chkSome x.tag,
      chkTag (sameTag (x.tag, x.sc, x.teo) (entTag e, entSc e, entTeo e)) (entTag e), s.ik.chkRw 1 h.val true,
      chkRange inside h.val, s.chkUses us])
    (((s.vTake n 1 false).claim c (us.getD [])).tileOp c 4
      (.commit h.val (s.ik.vIdx h.val) e (if inside then vstBytes e x (s.ik.rk k) i else [])))

/-- Indices a + x[e] of the 1024 lanes (R204). -/
def laneIdx (a : Nat) (x : VReg) : List Nat := x.cells.map (fun c => a + c.toNat)

/-- Active lanes of a row, as pairs of lane and element index. -/
def rowLanes (m : Mask) (idx : List Nat) (r : Nat) : List (Nat × Nat) :=
  ((rowOf idx r).zipIdx.map (fun p => (r * 64 + p.2, p.1))).filter (fun p => m.getLsbD p.1)

/-- The uses of an indexed form: at most one line of a bank for each row, row r in cycle t + r (R206). -/
def rowUses (e : TEntry) (m : Mask) (idx : List Nat) (t : Nat) : Option (List BankUse) :=
  (List.range 16).foldl (fun us r =>
    match us, footprint e (t + r) 1 ((rowLanes m idx r).map (fun p => p.2 * (entHalf e / 2) / 64)) with
    | some l, some l' => some (l ++ l')
    | _, _ => none) (some [])

/-- The checks of an indexed form after its slot's (R190, R205). -/
def State.chkIndexed (s : State) (h : Fin 256) (x : VReg) (dest : Check) (wr inside : Bool)
    (us : Option (List BankUse)) : Check :=
  let e := s.vEntry h
  firstFail [s.ik.chkView h.val, chkSome (entTag e), chkTag (!entScaled e) (entTag e), chkTag (x.tag = .int32) x.tag,
    dest, s.ik.chkRw 1 h.val wr, chkRange inside h.val, s.chkUses us]

/-- Every active lane inside the handle. -/
def lanesIn (e : TEntry) (m : Mask) (idx : List Nat) : Bool :=
  (idx.zipIdx).all (fun p => !m.getLsbD p.2 || p.1 < entCount e)

/-- VLDX: row r is read in bank cycle t + 1 + r, all visible at t + 24. -/
def execVldx (v : Fin 32) (h : Fin 256) (a : Fin 16) (k : Fin 8) (s : State) : Out :=
  let c := s.ic
  let e := s.vEntry h
  let x := s.ik.v (v + 1)
  let m := s.ik.rk k
  let idx := laneIdx (s.ik.ra a).toNat x
  let inside := lanesIn e m idx
  let us := if inside then rowUses e m idx (s.cyc c + 1) else none
  let s1 := ((s.vTake 16 1 false).claim c (us.getD [])).wrV v 24 ⟨[], entTag e, false, entTeo e, []⟩ m
  s.checked
    (firstFail [s.chkField (v = 31), chkBusy (s.vBusy 16 1 false),
      s.chkIndexed h x (s.ik.chkDest v k (entTag e) false (entTeo e)) false inside us])
    ((List.range 16).foldl (fun s r => s.tileOp c (1 + r) (.load h.val e (.vldx r (rowOf idx r)))) s1)

/-- VSTX: row r commits in t + 4 + r; of two lanes that name one element the higher writes last. -/
def execVstx (v : Fin 32) (h : Fin 256) (a : Fin 16) (k : Fin 8) (s : State) : Out :=
  let c := s.ic
  let e := s.vEntry h
  let d := s.ik.v v
  let x := s.ik.v (v + 1)
  let m := s.ik.rk k
  let idx := laneIdx (s.ik.ra a).toNat x
  let inside := lanesIn e m idx
  let us := if inside then rowUses e m idx (s.cyc c + 4) else none
  let s1 := (s.vTake 16 2 false).claim c (us.getD [])
  s.checked
    (firstFail [s.chkField (v = 31), chkBusy (s.vBusy 16 2 false),
      s.chkIndexed h x (firstFail [chkSome d.tag, chkTag (sameTag (d.tag, d.sc, d.teo) (entTag e, entSc e, entTeo e)) (entTag e)])
        true inside us])
    ((List.range 16).foldl (fun s r => s.tileOp c (4 + r) (.commit h.val (s.ik.vIdx h.val) e
      (((rowLanes m idx r).map (fun p => entPut e p.2 (d.cell p.1).toNat)).flatten))) s1)

end Sys2Proof.Machine
end

