-- ==== Sys2Proof/Machine/CubeMath.lean ====
section
/-! DEFINITION. The arithmetic of the cube (R114 to R118) and its operands: the configuration word (R209), classes
and kstep (R210), planes (R217), drains' conversions (R222). -/

namespace Sys2Proof.Machine

open Sys2Proof

/-! ### The configuration word (R209) -/

/-- The format of an operand: code, signed bit, scaled bit. -/
structure OpFmt where
  f : Nat
  s : Bool
  c : Bool
  deriving DecidableEq, Repr

def cfgA (w : W32) : OpFmt := ⟨getF w 2 3, getB w 1, getB w 0⟩
def cfgB (w : W32) : OpFmt := ⟨getF w 7 3, getB w 6, getB w 5⟩
def cfgW (w : W32) : OpFmt := ⟨getF w 12 3, getB w 11, getB w 10⟩
def cfgWide (w : W32) : Bool := getB w 25
/-- 0 IK, 1 KJ, 2 K. -/
def cfgBind (w : W32) : Nat := getF w 26 2
def cfgSat (w : W32) : Bool := getB w 28
def cfgDrm (w : W32) : RMode := (RMode.ofCode (getF w 29 3)).getD .rne

/-- The tag of a format. -/
def OpFmt.tag (o : OpFmt) : Tag :=
  match o.f with
  | 0 => .bf16
  | 1 => .fp16
  | 2 => .e4m3f
  | 3 => .e5m2f
  | 4 => if o.s then .int8 else .uint8
  | _ => .sn4

/-- Integer operands: I8 with the scaled bit clear. -/
def OpFmt.isInt (o : OpFmt) : Bool := o.f = 4 && !o.c

/-- The plane that a trilinear step replaces (R118). -/
def cfgReplaced (w : W32) : OpFmt := if cfgBind w = 1 then cfgB w else cfgA w

/-- The class of a step is integer (R210). -/
def stepInt (tri : Bool) (w : W32) : Bool :=
  if tri then (cfgReplaced w).f = 4 else (cfgA w).isInt && (cfgB w).isInt

/-- The class as an accumulator's tag. -/
def classTag (int : Bool) : Tag := if int then .int32 else .fp32

/-- kstep (R210). -/
def stepK (tri : Bool) (w : W32) : Nat :=
  let f := (cfgA w).f
  if f < 2 then 16
  else if f = 5 then 64
  else if tri && (cfgWide w || stepInt tri w) then 16
  else 32

/-! ### Planes (R217) -/

/-- A plane as a step reads it. -/
structure Plane where
  rows : Nat
  cols : Nat
  tag : Tag
  sc : Bool
  teo : BitVec 8
  data : List W32
  scales : List Byte
  deriving DecidableEq, Repr

/-- The value of element (i, k) of a plane. -/
def Plane.value (p : Plane) (i k : Nat) : FVal :=
  elemValue p.tag p.sc p.teo (p.data.getD (i * p.cols + k) 0).toNat (p.scales.getD (i * cdiv p.cols 32 + k / 32) 0)

/-- The integer of element (i, k) of a plane. -/
def Plane.int (p : Plane) (i k : Nat) : Int := p.tag.int (p.data.getD (i * p.cols + k) 0).toNat

/-- Rows r0 to r0 + n - 1 of a handle as a plane. -/
def Core.planeOf (k : Core) (e : TEntry) (r0 n : Nat) : Plane :=
  let cols := entCols e
  ⟨n, cols, entTag e, entSc e, entTeo e,
    (List.range (n * cols)).map (fun i => BitVec.ofNat 32 (k.elem e (r0 * cols + i))),
    if entScaled e then
      (List.range (n * cdiv cols 32)).map (fun i => k.imgByte e (entScale0 e + r0 * cdiv cols 32 + i))
    else []⟩

/-- A ring by number. -/
def Core.ring (k : Core) (n : Nat) : Ring := k.cube.rings.toArray.getD n .unset

/-- The entry of a ring's handle. -/
def Core.ringEnt (k : Core) (n : Nat) : TEntry := k.ent (k.ring n).index

/-- A ring's tail slot. -/
def Ring.slot (r : Ring) : Nat := if r.depth = 0 then 0 else r.tail.toNat % r.depth

/-- A ring's fill (R208). -/
def Ring.fill (r : Ring) : Nat := (r.head - r.tail).toNat

/-- The plane of a selector: the tail slot of a ring, or a latch. -/
def Core.plane (k : Core) : Sel → Plane
  | .ring n =>
    let r := k.ring n.val
    k.planeOf (k.ringEnt n.val) (r.slot * r.rows) r.rows
  | .latch l =>
    let x := k.cube.lat[l]
    ⟨x.rows, x.cols, x.tag, x.sc, x.teo, x.data, x.scales⟩

/-- The lines that a ring's tail slot takes: its codes and its scale bytes. -/
def Core.slotLines (k : Core) (n : Nat) : List Nat :=
  let r := k.ring n
  let e := k.ringEnt n
  let cols := entCols e
  let sb := cdiv cols 32
  linesOf (r.slot * r.rows * cols * entHalf e) (r.rows * cols * entHalf e)
    ++ (if entScaled e then linesOf (2 * (entScale0 e + r.slot * r.rows * sb)) (2 * r.rows * sb) else [])

/-- Lines by bank, each counted once. -/
def bankCounts (ls : List (Nat × Nat)) : List (Nat × Nat) :=
  let ds := ls.foldl (fun r x => if r.contains x then r else r ++ [x]) []
  (once (ds.map (·.1))).map (fun b => (b, (ds.filter (fun x => x.1 = b)).length))

/-- The largest count. -/
def maxCount (l : List (Nat × Nat)) : Nat := l.foldl (fun m x => Nat.max m x.2) 0

/-- The banks that lines of an entry take. -/
def lineBanks (e : TEntry) (js : List Nat) : List (Nat × Nat) := js.map (fun j => (entBank e j, entLine e j))

/-! ### Accumulation (R114, R116) -/

/-- The exact sum of a chunk's terms, whatever their order (R114): a NaN, or infinities of both signs with NV, make it NaN; a zero
sum is -0 only when every one of the 32 terms is -0, an absent position being +0 (R115). -/
def chunkSum (ts : List (FVal × Flags)) : FVal × Flags :=
  let inf := fun (n : Bool) => ts.any (fun t => t.1 = .inf n)
  let fl := ts.foldl (fun f t => f ||| t.2) (flIf (inf false && inf true) flNV)
  if ts.any (fun t => t.1.isNan) || (inf false && inf true) then (.nan false, fl)
  else if inf false || inf true then (.inf (inf true), fl)
  else
    let start : FVal := .fin (ts.length = 32 && ts.all (fun t => t.1.isZero && t.1.sign)) 0 0
    (ts.foldl (fun x t => (addX .rne x t.1).1) start, fl)

/-- Present positions of chunk c of kv (R115). -/
def chunkKs (kv c : Nat) : List Nat := (List.range (Nat.min 32 (kv - 32 * c))).map (fun i => 32 * c + i)

/-- One element of a float step: each chunk is rounded once and added. -/
def accFloat (kv : Nat) (f : Nat → FVal × Flags) (acc : Nat) : Nat × Flags :=
  (List.range (cdiv kv 32)).foldl (fun a c =>
    let s := fmt32.fin .rne 0 (chunkSum ((chunkKs kv c).map f))
    let r := fmt32.add .rne 0 a.1 s.1
    (r.1, a.2 ||| s.2 ||| r.2)) (acc, 0)

/-- One element of an integer step: wrapping, or clamped at every chunk (R116). -/
def accInt (kv : Nat) (sat : Bool) (f : Nat → Int) (acc : Nat) : Nat × Flags :=
  (List.range (cdiv kv 32)).foldl (fun a c =>
    let s := (chunkKs kv c).foldl (fun t k => t + f k) (0 : Int)
    let x := Tag.int32.int a.1 + s
    let r := if sat then clampTo (-2147483648) 2147483647 x else (x, 0)
    (wrapTo .int32 r.1, a.2 ||| r.2)) (acc, 0)

/-- A pair product of a trilinear step, rounded to the pair format (R118). -/
def pairFloat (f : Fmt) (x w : FVal) : FVal × Flags :=
  let r := f.fin .rne 0 (mulX x w)
  (f.decode r.1, r.2)

/-- The 1024 elements of a step. -/
def stepElems (int sat : Bool) (kv : Nat) (fx : Nat → Nat → Nat → FVal × Flags) (fi : Nat → Nat → Nat → Int)
    (acc : List W32) : List (Nat × Flags) :=
  (acc.zip elems).map (fun p =>
    let i := p.2 / 32
    let j := p.2 % 32
    if int then accInt kv sat (fi i j) p.1.toNat else accFloat kv (fx i j) p.1.toNat)

/-- Values of a plane by position, for the positions present. -/
def Plane.vals (p : Plane) (kv : Nat) : Array (Array FVal) :=
  ((List.range p.rows).map (fun i => ((List.range kv).map (fun k => p.value i k)).toArray)).toArray

/-- A value of such a table. -/
def valAt (t : Array (Array (FVal × Flags))) (i k : Nat) : FVal × Flags := (t.getD i #[]).getD k (.fin false 0 0, 0)

/-- A plane with no flags of its own. -/
def Plane.plain (p : Plane) (kv : Nat) : Array (Array (FVal × Flags)) :=
  (p.vals kv).map (fun r => r.map (fun v => (v, 0)))

/-- A step's two multiplied planes: for MMUL3 the replaced plane times W (R118, R219). -/
def stepPlanes (tri : Bool) (w : W32) (a b pw : Plane) (kv : Nat) :
    Array (Array (FVal × Flags)) × Array (Array (FVal × Flags)) :=
  if !tri then (a.plain kv, b.plain kv)
  else
    let rep := if cfgBind w = 1 then b else a
    let f := if cfgWide w then fmtBf16 else (rep.tag.fmt.getD fmt32)
    let pair := ((List.range rep.rows).map (fun i => ((List.range kv).map (fun k =>
      pairFloat f (rep.value i k) (pw.value (if cfgBind w = 2 then 0 else i) k))).toArray)).toArray
    if cfgBind w = 1 then (a.plain kv, pair) else (pair, b.plain kv)

/-- The exact product of two terms. Integer codes have no negative zero, so their product has none (R117). -/
def termX (int : Bool) (x y : FVal) : FVal × Flags :=
  let z := mulX x y
  (if int && z.1.isZero then .fin false 0 0 else z.1, z.2)

/-- A step of an accumulator: its new elements, the flags, whether an accumulation clamped (R219). -/
def stepAcc (tri : Bool) (w : W32) (a b pw : Plane) (kv : Nat) (acc : List W32) : List W32 × Flags :=
  let int := stepInt tri w
  let t := if int then (#[], #[]) else stepPlanes tri w a b pw kv
  let pi := fun i k => if tri && cfgBind w ≠ 1 then a.int i k * pw.int (if cfgBind w = 2 then 0 else i) k else a.int i k
  let pj := fun j k => if tri && cfgBind w = 1 then b.int j k * pw.int j k else b.int j k
  let rs := stepElems int (cfgSat w) kv
    (fun i j k =>
      let x := valAt t.1 i k
      let y := valAt t.2 j k
      let z := termX (!tri && 4 ≤ (cfgA w).f) x.1 y.1
      (z.1, x.2 ||| y.2 ||| z.2))
    (fun i j k => pi i k * pj j k) acc
  (rs.map (fun r => BitVec.ofNat 32 r.1), rs.foldl (fun f r => f ||| r.2) 0)

/-! ### Drains (R222) -/

/-- The fields of a drain descriptor. -/
structure DrainDesc where
  otag : Option Tag
  osc : Bool
  bias : Bool
  zp : Bool
  req : Bool
  ozp : Bool
  za : Int
  zb : Int
  zo : Int
  kz : Nat
  biasV : Nat
  colV : Nat
  rowV : Nat
  mulV : Nat
  zero : Bool
  deriving DecidableEq, Repr

/-- A drain descriptor from the 64 bytes of its image. -/
def drainDesc (bs : List Byte) : DrainDesc :=
  let n := fun o l => ofLe ((bs.drop o).take l)
  let ctl := n 0 4
  ⟨Tag.ofCode (fld ctl 27 5), bit ctl 26, bit ctl 25, bit ctl 24, bit ctl 23, bit ctl 22, sxt 32 (n 4 4),
    sxt 32 (n 8 4), sxt 32 (n 12 4), n 16 4, n 20 1, n 21 1, n 22 1, n 23 1, fld ctl 0 22 = 0 && n 24 40 = 0⟩

/-- The vectors a drain reads: bias, column sums, row sums, multipliers and shifts. -/
structure DrainVecs where
  bias : List Nat
  col : List Nat
  row : List Nat
  mul : List Nat
  deriving DecidableEq, Repr

/-- An element of an integer accumulator before its conversion. -/
def drainInt (d : DrainDesc) (v : DrainVecs) (i j : Nat) (c : Nat) : Int :=
  let g := fun (l : List Nat) n => Tag.int32.int (l.getD n 0)
  let x := Tag.int32.int c
  let x := if d.zp then x - d.za * g v.col j - d.zb * g v.row i + (d.kz : Int) * d.za * d.zb else x
  let x := if d.bias then x + g v.bias j else x
  let x := if d.req then
      let p := x * g v.mul j
      let q := roundNat .rna 0 (p < 0) p.natAbs (2 ^ (31 + g v.mul (32 + j)).toNat)
      if p < 0 then -(q.1 : Int) else q.1
    else x
  if d.ozp then x + d.zo else x

/-- An element of a float accumulator before its conversion. -/
def drainFloat (d : DrainDesc) (v : DrainVecs) (j : Nat) (c : Nat) : Nat × Flags :=
  if d.bias then fmt32.add .rne 0 c (v.bias.getD j 0) else (c, 0)

/-- What a drain makes of an accumulator: codes, one scale byte for each row of a scaled target, flags. -/
def drainOut (d : DrainDesc) (v : DrainVecs) (drm : RMode) (seed : W64) (int : Bool) (acc : List W32) :
    List W32 × List Byte × Flags :=
  let t := d.otag.getD .fp32
  let xs : List (FVal × Flags) := (acc.zip elems).map (fun p =>
    if int then (FVal.ofInt (drainInt d v (p.2 / 32) (p.2 % 32) p.1.toNat), 0)
    else
      let r := drainFloat d v (p.2 % 32) p.1.toNat
      (fmt32.decode r.1, r.2))
  let pre := xs.foldl (fun f x => f ||| x.2) (0 : Flags)
  if d.osc then
    let rs := (List.range 32).map (fun i =>
      packBlock (.tag t) drm 0 ((List.range 32).map (fun j => srG seed (i * 32 + j)))
        (((xs.drop (i * 32)).take 32).map (·.1)))
    ((rs.map (fun r => r.2.1.map (BitVec.ofNat 32))).flatten, rs.map (fun r => BitVec.ofNat 8 r.1),
      rs.foldl (fun f r => f ||| r.2.2) pre)
  else
    let rs := (xs.zip elems).map (fun p => t.convert drm (srG seed p.2) int p.1.1)
    (rs.map (fun r => BitVec.ofNat 32 r.1), [], rs.foldl (fun f r => f ||| r.2) pre)

end Sys2Proof.Machine
end

