-- ==== Sys2Proof/Machine/Cube.lean ====
section
/-! DEFINITION. Cube instructions (R208 to R226): the M slot, macro tiles, the follow-on queue, and the retirement of
steps and drains. A command is planned as its field checks, its checks after SLOT_BUSY in the order of R212, and
its effect, so that the M slot, the macro-tile sequencer and the follow-on queue share it. -/

namespace Sys2Proof.Machine

open Sys2Proof

/-! ### Units (R211) -/

/-- The cycles in which a bank serves n accesses of a command from cycle r on, one in each cycle that nothing before it takes (R21,
R85). -/
def serveFrom (taken : Nat → Bool) : Nat → Nat → Nat → List Nat
  | 0, _, _ => []
  | _, _, 0 => []
  | f + 1, r, n + 1 => if taken r then serveFrom taken f (r + 1) (n + 1) else r :: serveFrom taken f (r + 1) n

/-- A command of the cube as the banks see it: its place among the commands, by issue cycle, the pipe's before the drain's, the first cycle
of its accesses, and their number by bank. -/
structure CubeUse where
  order : Nat
  first : Nat
  banks : List (Nat × Nat)
  deriving DecidableEq, Repr

/-- The cycles that the accesses of a command take, by bank. Accesses of class 1 and multicast landings come before it, and of the cube's
own, which R85 does not rank among themselves, those of commands issued before it, whether they are over (claims of class 2) or not
(`prior`) (DESIGN CHOICE, log 31). -/
def Core.takes (k : Core) (prior : List (Nat × Nat)) (u : CubeUse) : List (Nat × Nat) :=
  u.banks.flatMap (fun b =>
    (serveFrom (fun x => prior.contains (b.1, x) || k.fl.claims.any (fun c =>
      (c.cls ≤ 1 || (c.cls = 2 && c.seq < u.order)) && c.cyc = x && (k.claimUse c).any (fun v => v.1 = b.1))) 4096 u.first b.2).map
        (fun x => (b.1, x)))

/-- The cycles that an access of the command loses at most: how much later than it would be served its last one is. -/
def CubeUse.lost (u : CubeUse) (taken : List (Nat × Nat)) : Nat :=
  u.banks.foldl (fun m b => Nat.max m (((taken.filter (fun t => t.1 = b.1)).foldl (fun l t => Nat.max l (t.2 + 1)) 0) - (u.first + b.2))) 0

/-- A command on the pipe reads its lines from its issue on. -/
def PipeCmd.use (p : PipeCmd) : CubeUse := ⟨2 * p.start, p.start, p.banks⟩

/-- A drain writes its lines so that the last of a bank falls in the commit cycle. R211 has it commit 24 cycles after its issue whatever its
lines are, so a bank that has more of them than that is taken in all 24 (DESIGN CHOICE, log 31). -/
def DrainCmd.use (d : DrainCmd) : CubeUse :=
  let banks := d.banks.map (fun b => (b.1, Nat.min 24 b.2))
  ⟨2 * d.start + 1, d.start + d.late + 25 - Nat.max 1 (maxCount banks), banks⟩

/-- The commands in progress, by issue. -/
def Core.cubeUses (k : Core) : List CubeUse :=
  let ds := k.cube.drains.map DrainCmd.use
  match k.cube.pipe with
  | some p => ds.filter (fun d => d.order < p.use.order) ++ p.use :: ds.filter (fun d => p.use.order < d.order)
  | none => ds

/-- What the accesses of the cube's commands in progress take, of those before a place in the order. -/
def Core.cubeTaken (k : Core) (order : Nat) : List (Nat × Nat) :=
  (k.cubeUses.filter (fun u => u.order < order)).foldl (fun l u => l ++ k.takes l u) []

/-- The most cycles that accesses of a command lose over its banks. -/
def Core.lost (k : Core) (u : CubeUse) : Nat := u.lost (k.takes (k.cubeTaken u.order) u)

/-- The cycle in which the command on the pipe retires, as lengthened by deferrals. -/
def Core.pipeEnd (k : Core) (p : PipeCmd) : Nat := p.start + p.len + k.lost p.use

/-- A command over in cycle r, `rest` being the core without it: what it has taken is kept as claims of class 2 while it may matter to
other commands (R85). -/
def Core.keepUse (k rest : Core) (u : CubeUse) (r : Nat) : Core :=
  let mine : List Claim := (k.takes (k.cubeTaken u.order) u).map (fun t => ⟨t.2, t.1, 0, u.order, 2, none⟩)
  { rest with fl := { rest.fl with claims := (rest.fl.claims ++ mine).filter (fun x => rest.claimsFrom r ≤ x.cyc) } }

/-- Whether the pipe is occupied. -/
def State.pipeBusy (s : State) (c : Nat) : Bool :=
  let k := s.core c
  match k.cube.pipe with
  | some p => s.cyc c < k.pipeEnd p
  | none => false

/-- The commit cycle of a drain, later by the cycles lost. -/
def Core.drainEnd (k : Core) (d : DrainCmd) : Nat := d.start + d.late + 24 + k.lost d.use

/-- Whether the drain unit is occupied: 16 cycles of each drain, longer by the cycles lost (R211). -/
def State.drainBusy (s : State) (c : Nat) : Bool :=
  let k := s.core c
  s.cyc c < k.cube.drainUntil || k.cube.drains.any (fun d => s.cyc c + 8 < k.drainEnd d)

/-- Whether an executing command writes an accumulator. -/
def State.accBusy (s : State) (c n : Nat) : Bool :=
  match (s.core c).cube.pipe with
  | some p => s.pipeBusy c && p.acc = some n
  | none => false

/-- SLOT_BUSY of every M-slot instruction in an ASYNC phase or an exchange phase (R64, R258). -/
def State.mBusy (s : State) (c : Nat) : Bool := (s.core c).async || (s.core c).x.on

/-- The checks of R212 after SLOT_BUSY, by their steps 2 to 7. -/
structure CubeChks where
  stale : List Check
  tag : List Check
  shape : List Check
  rw : List Check
  range : List Check
  ring : List Check
  deriving DecidableEq, Repr

/-- No check. -/
def CubeChks.none_ : CubeChks := ⟨[], [], [], [], [], []⟩

/-- The checks of two commands, step by step. -/
def CubeChks.join (a b : CubeChks) : CubeChks :=
  ⟨a.stale ++ b.stale, a.tag ++ b.tag, a.shape ++ b.shape, a.rw ++ b.rw, a.range ++ b.range, a.ring ++ b.ring⟩

/-- The first check that fails in the order of the steps (R212). -/
def CubeChks.first (a : CubeChks) : Check := firstFail (a.stale ++ a.tag ++ a.shape ++ a.rw ++ a.range ++ a.ring)

/-- A planned command: its field checks, the checks of R212 after SLOT_BUSY, its effect. -/
structure CubePlan where
  pre : Check
  chks : CubeChks
  eff : State
  deriving DecidableEq, Repr

/-- The first check of R212 after SLOT_BUSY that fails. -/
def CubePlan.chk (p : CubePlan) : Check := p.chks.first

/-- How a command comes to the cube: its bundle, its image for FADDR, its configuration, whether it is counted on
channel 8, the cycle of its issue, or of its macro tile's, and the cycles by which a last drain ends later. -/
structure CubeBy where
  pc : W64
  img : W64
  cfg : W32
  follow : Bool
  issued : Nat
  late : Nat
  deriving DecidableEq, Repr

/-- CUBE_SHAPE with the first detail code that applies (R218). -/
def chkShape (ds : List (Nat × Bool)) : Check :=
  match ds.find? (fun d => d.2) with
  | some d => some (cCubeShape, BitVec.ofNat 64 d.1)
  | none => none

/-- The pipe taken by a command. -/
def State.pipeTake (s : State) (c : Nat) (p : PipeCmd) : State :=
  let s1 := s.modCore c (fun k => ({ k with cube := { k.cube with pipe := some p } } : Core).busy 2 p.start p.len)
  s1.postEv (s1.inst c (p.start + p.len)) 4 (.cubeStepRetire c)

/-- An accumulator by number. -/
def Core.acc (k : Core) (n : Nat) : Acc := k.cube.acc.toArray.getD n ⟨[], .none, false⟩

/-- The elements of an accumulator. -/
def Acc.elems (a : Acc) : List W32 := a.data ++ List.replicate (1024 - a.data.length) 0

/-- A core with an accumulator replaced, seen at once. -/
def Core.setAcc (k : Core) (n : Nat) (a : Acc) : Core :=
  { k with cube := { k.cube with acc := k.cube.acc.setIfInBounds n a, olds := k.cube.olds.filter (fun p => p.n ≠ n) } }

/-- A core with an accumulator that the step issued in cycle r changes: MSTEP and the debugger still see the old one (R211). -/
def Core.stepTo (k : Core) (n : Nat) (a : Acc) (r : Nat) (pc : W64) : Core :=
  { k with cube := { k.cube with
      acc := k.cube.acc.setIfInBounds n a
      olds := k.cube.olds.filter (fun p => p.till.all (r < ·)) ++ [⟨n, k.acc n, pc, k.fl.seq, none⟩] } }

/-- The step on the pipe retires in cycle r: what it has changed is seen six cycles later (R211). -/
def Core.stepSeen (k : Core) (r : Nat) : Core :=
  { k with cube := { k.cube with olds := k.cube.olds.map (fun p => { p with till := some (p.till.getD (r + 6)) }) } }

/-- An accumulator as MSTEP and the debugger see it in cycle r (R211, R225). -/
def Core.accSeen (k : Core) (n r : Nat) : Acc :=
  match k.cube.olds.find? (fun p => p.n = n && p.till.all (r < ·)) with
  | some p => p.val
  | none => k.acc n

/-! ### Accumulators and latches (R213, R214) -/

def State.planZero (s : State) (c n : Nat) (b : CubeBy) : CubePlan :=
  let r := s.cyc c
  let s1 := s.modCore c (fun k => k.setAcc n ⟨[], classTag (stepInt false b.cfg), false⟩)
  ⟨none, .none_, s1.pipeTake c ⟨r, 1, [], some n, [], [], [], [], 0, b.follow, b.issued⟩⟩

def State.planLoad (s : State) (c n h : Nat) (b : CubeBy) : CubePlan :=
  let k := s.core c
  let e := k.vEnt h
  let banks := bankCounts (lineBanks e (linesOf 0 (entCount e * entHalf e)))
  let r := s.cyc c
  let p := k.planeOf e 0 32
  let s1 := s.modCore c (fun k => k.setAcc n ⟨p.data, entTag e, false⟩)
  ⟨none,
   ⟨[k.chkView h], [chkTag ((entTag e = .fp32 || entTag e = .int32) && !entSc e) (entTag e)],
     [chkShape [(2, entRows e ≠ 32 || entCols e ≠ 32)]], [k.chkRw 2 h false], [], []⟩,
   s1.pipeTake c ⟨r, Nat.max 1 (maxCount banks), banks, some n, [], [h], [k.vIdx h], [], 0, b.follow, b.issued⟩⟩

/-- Depths of a plane (R214, R218). -/
def okKt (n : Nat) : Bool := n = 32 || n = 64 || n = 128 || n = 256

def State.planLatch (s : State) (c n h : Nat) (b : CubeBy) : CubePlan :=
  let k := s.core c
  let e := k.vEnt h
  let small := entCount e ≤ 32 * 256
  let lines := if small then (List.range (entLines e)) else []
  let banks := bankCounts (lineBanks e lines)
  let r := s.cyc c
  let p := k.planeOf e 0 (if small then entRows e else 0)
  let l : Latch := ⟨p.rows, p.cols, p.data, p.tag, p.sc, p.teo, p.scales⟩
  let s1 := s.modCore c (fun k => { k with cube := { k.cube with lat := k.cube.lat.setIfInBounds n l } })
  ⟨none,
   ⟨[k.chkView h], [chkSome (entTag e)],
     [chkShape [(1, !okKt (entCols e)), (2, entRows e ≠ 32 && entRows e ≠ 1), (10, entLevel e ≠ 1)]], [k.chkRw 2 h false], [], []⟩,
   s1.pipeTake c ⟨r, Nat.max 1 (maxCount banks), banks, none, [], [h], [k.vIdx h], [], 0, b.follow, b.issued⟩⟩

/-! ### Steps (R216 to R220) -/

/-- Rings among selectors, each once. -/
def selRings (l : List Sel) : List Nat := once (l.flatMap (fun x => match x with | .ring n => [n.val] | .latch _ => []))

/-- FORMAT_TAG of an operand against its configured format (R212). -/
def chkOperand (p : Plane) (o : OpFmt) : Check :=
  firstFail [chkSome p.tag, chkTag (p.tag = o.tag && p.sc = o.c) p.tag]

/-- A–B formats that a step accepts (R218, detail 3). -/
def okPair (a b : OpFmt) : Bool :=
  (a.f = b.f && (a.f ≠ 4 || a.s = b.s)) || (a.f = 4 && b.f = 4) || (a.f = 2 && b.f = 3) || (a.f = 3 && b.f = 2)

/-- The details 1 to 9 of R218 for a step, judged on the planes that it names: in a macro tile's descriptor a selector may name none
(R224). -/
def stepDetails (tri : Bool) (w : W32) (a b pw : Option Plane) (kv : Nat) (accTag : Tag) : List (Nat × Bool) :=
  let rep := cfgReplaced w
  let ps := [a, b, pw].filterMap id
  [(1, ps.any (fun p => !okKt p.cols || ps.any (fun q => q.cols ≠ p.cols))),
   (2, [a, b].any (fun x => x.any (fun p => p.rows ≠ 32))),
   (3, !okPair (cfgA w) (cfgB w)),
   (4, a.any (fun p => p.cols < kv)),
   (5, pw.any (fun p => p.rows ≠ (if cfgBind w = 2 then 1 else 32))),
   (6, tri && ps.any (fun p => p.sc || p.tag = .sn4)),
   (7, tri && cfgWide w && rep.f ≠ 2 && rep.f ≠ 3),
   (8, tri && (if rep.f = 4 then !((cfgW w).f = 4 && (cfgW w).s) else (cfgW w).f ≠ rep.f)),
   (9, accTag ≠ classTag (stepInt tri w))]

/-- The cycles of a step: a part of a cycle that the quotient leaves is one more, and a step has one at least (R220). -/
def stepLen (tri : Bool) (w : W32) (kt lines : Nat) : Nat :=
  Nat.max 1 (Nat.max (cdiv ((if tri && cfgWide w then 2 else 1) * kt) (stepK tri w)) lines)

/-- A step on the pipe: S cycles, its operands read once, its pops at the retirement. -/
def State.planStep (s : State) (c : Nat) (tri : Bool) (n : Nat) (a b w : Sel) (pa pb pw : Bool) (kv : Nat)
    (by_ : CubeBy) : CubePlan :=
  let k := s.core c
  let cfg := by_.cfg
  let sels := if tri then [a, b, w] else [a, b]
  let rings := selRings sels
  let pops := selRings ((if pa then [a] else []) ++ (if pb then [b] else []) ++ (if tri && pw then [w] else []))
  let ok := rings.all (fun r => (k.ring r).bound)
  let A := k.plane a
  let B := k.plane b
  let W := if tri then k.plane w else ⟨0, 0, .none, false, 0, [], []⟩
  let acc := k.acc n
  let banks := bankCounts ((rings.map (fun r => lineBanks (k.ringEnt r) (k.slotLines r))).flatten)
  let S := stepLen tri cfg A.cols (maxCount banks)
  let r := s.cyc c
  let out := stepAcc tri cfg A B W kv acc.elems
  let clamped := getB out.2 5
  let s1 := s.modCore c (fun k => k.stepTo n { acc with data := out.1, sat := acc.sat || clamped } r by_.pc)
  ⟨failIf (!ok) cIllegalField by_.img,
   ⟨[], [chkOperand A (cfgA cfg), chkOperand B (cfgB cfg), if tri then chkOperand W (cfgW cfg) else none, chkSome acc.tag],
     [chkShape (stepDetails tri cfg (some A) (some B) (if tri then some W else none) kv acc.tag)], rings.map (fun x => k.chkRw 2 (k.ring x).view false), [],
     rings.map (fun x => failIf ((k.ring x).fill < 1) cRingEmpty (BitVec.ofNat 64 x))⟩,
   s1.pipeTake c ⟨r, S, banks, some n, rings, rings.map (fun x => (k.ring x).view), rings.map (fun x => (k.ring x).index),
     pops, out.2, by_.follow, by_.issued⟩⟩

/-! ### Drains (R221, R222) -/

/-- The checks of one vector of a drain: view, tag, elements, permission. -/
structure VecUse where
  on : Bool
  view : Nat
  tag : Tag
  n : Nat
  deriving DecidableEq, Repr

/-- The first n elements of a vector. -/
def Core.vec_ (k : Core) (u : VecUse) : List Nat :=
  let e := k.vEnt u.view
  if u.on && u.n ≤ entCount e then (List.range u.n).map (fun i => k.elem e i) else []

/-- A descriptor of at least 16 RAW32 elements. -/
def isDesc (e : TEntry) : Bool := entTag e = .raw32 && 16 ≤ entCount e

/-- The bytes of a descriptor, or none. -/
def Core.descBytes (k : Core) (e : TEntry) : List Byte := if isDesc e then k.imgBytes e 0 64 else []

/-- The views of the vectors that a drain by a descriptor view reads (R222). -/
def Core.drainViews (k : Core) (h : Nat) : List Nat :=
  let d := drainDesc (k.descBytes (k.vEnt h))
  (if d.bias then [d.biasV] else []) ++ (if d.zp then [d.colV, d.rowV] else []) ++ (if d.req then [d.mulV] else [])

/-- Element drains into vd: element (i, j) at (i/2) × 64 + (i mod 2) × 32 + j, which is i × 32 + j (R221). -/
def State.planDrain (s : State) (c n : Nat) (out : Option (Nat × Nat)) (vd : Option Nat) (hdesc : Nat)
    (by_ : CubeBy) : CubePlan :=
  let k := s.core c
  let r := s.cyc c
  let acc := k.acc n
  let int := acc.tag = .int32
  let de := k.vEnt hdesc
  let d := drainDesc (k.descBytes de)
  let t := d.otag.getD .none
  let hout := (out.getD (0, 0)).1
  let off := (out.getD (0, 0)).2
  let oe := k.vEnt hout
  let uses : List VecUse :=
    [⟨d.bias, d.biasV, if int then .int32 else .fp32, 32⟩, ⟨d.zp, d.colV, .int32, 32⟩, ⟨d.zp, d.rowV, .int32, 32⟩,
     ⟨d.req, d.mulV, .int32, 64⟩]
  let on := uses.filter (·.on)
  let vecs : DrainVecs := ⟨k.vec_ (uses.getD 0 ⟨false, 0, .none, 0⟩), k.vec_ (uses.getD 1 ⟨false, 0, .none, 0⟩),
    k.vec_ (uses.getD 2 ⟨false, 0, .none, 0⟩), k.vec_ (uses.getD 3 ⟨false, 0, .none, 0⟩)⟩
  let shiftBad := ((vecs.mul.drop 32).any (fun x => Tag.int32.int x < -31 || 31 < Tag.int32.int x))
  let tagOk := t = .fp32 || t = .bf16 || t = .fp16 || t = .e4m3f || t = .e5m2f || t.isInt
  let bad := !d.zero || !tagOk || (d.osc && !t.narrow) || (!int && (d.zp || d.req || d.ozp)) || d.kz = 0 || 2 ^ 24 < d.kz
    || shiftBad || (out.isSome && (entCols oe < 32 || (d.osc && (off % 32 ≠ 0 || entCols oe % 32 ≠ 0))))
  let x := drainOut d vecs (cfgDrm by_.cfg) k.sc.seed int acc.elems
  let bytes : List MByte := match out with
    | none => []
    | some _ =>
      ((x.1.zip elems).map (fun p => entPut oe (off + p.2 / 32 * entCols oe + p.2 % 32) p.1.toNat)).flatten
        ++ (if d.osc then x.2.1.zipIdx.map (fun p => ⟨entScaleAt oe (off + p.2 * entCols oe), p.1, 0xFF⟩) else [])
  let banks := bankCounts (lineBanks oe (once (bytes.map (fun b => b.off / 64))))
  let rviews := hdesc :: on.map (·.view)
  let s1 := s.modCore c (fun k => ({ k with cube := { k.cube with
      drainUntil := r + by_.late + 16
      drains := k.cube.drains ++ [⟨r, banks, by_.pc, out.map (fun o => (o.1, k.vIdx o.1)), rviews, rviews.map k.vIdx, bytes, x.2.2,
        by_.follow, by_.issued, by_.late⟩] } } : Core).busy 2 r (24 + by_.late))
  let s2 := s1.postEv (s1.inst c (r + by_.late + 24)) 4 (.drainCommit c)
  let s3 := match vd with
    | some v => s2.pend c 24 (.v v) (.vr ⟨x.1, t, d.osc, 0, x.2.1⟩ allMask)
    | none => s2
  ⟨none,
   ⟨(if out.isSome then [k.chkView hout] else []) ++ [k.chkView hdesc]
      ++ (if isDesc de then on.map (fun u => k.chkView u.view) else []),
    [chkSome acc.tag, chkTag (entTag de = .raw32) (entTag de), chkRange (16 ≤ entCount de) hdesc]
      ++ (if out.isSome then [chkTag (d.otag = some (entTag oe) && entSc oe = d.osc) (entTag oe)] else [])
      ++ on.map (fun u => chkTag (entTag (k.vEnt u.view) = u.tag) (entTag (k.vEnt u.view))),
    [chkShape [(11, bad)]],
    [k.chkRw 2 hdesc false] ++ on.map (fun u => k.chkRw 2 u.view false) ++ (if out.isSome then [k.chkRw 2 hout true] else []),
    on.map (fun u => chkRange (u.n ≤ entCount (k.vEnt u.view)) u.view)
      ++ (if out.isSome then [chkRange (off + 31 * entCols oe + 31 < entCount oe) hout] else []), []⟩,
   s3⟩

/-! ### The M slot -/

/-- How the issuing M slot comes to the cube. -/
def State.byM (s : State) : CubeBy := ⟨s.issue.cur.bundle, s.image, s.ik.cube.ccfg, false, s.cyc s.ic, 0⟩

/-- A command of the pipe. -/
def State.onPipe (s : State) (p : CubePlan) : Out :=
  let c := s.ic
  s.checked (firstFail [p.pre, chkBusy (s.mBusy c || s.ik.cube.mtile.isSome || s.pipeBusy c), p.chk]) p.eff

/-- A command of the drain unit. -/
def State.onDrain (s : State) (n : Nat) (p : CubePlan) : Out :=
  let c := s.ic
  s.checked (firstFail [p.pre, chkBusy (s.mBusy c || s.ik.cube.mtile.isSome || s.drainBusy c || s.accBusy c n), p.chk]) p.eff

/-- MCFG governs commands issued from the next cycle on (R209). -/
def execMcfg (_st : BitVec 20) (word : W32) (s : State) : Out :=
  s.checked (firstFail [s.chkField (!Wf.cfg word.toNat), chkBusy (s.mBusy s.ic)])
    (s.pend s.ic 1 .ccfg (.w (word.zeroExtend 64)))
def execMzero (_st : BitVec 20) (n : Fin 8) (s : State) : Out := s.onPipe (s.planZero s.ic n.val s.byM)
def execMload (_st : BitVec 20) (n : Fin 8) (h : Fin 256) (s : State) : Out :=
  s.onPipe (s.planLoad s.ic n.val h.val s.byM)
def execMlatch (_st : BitVec 20) (l : Fin 4) (h : Fin 256) (s : State) : Out :=
  s.onPipe (s.planLatch s.ic l.val h.val s.byM)
def execMmul (_st : BitVec 20) (n : Fin 8) (a b : Sel) (pa pb : Bool) (kv : Fin 256) (s : State) : Out :=
  s.onPipe (s.planStep s.ic false n.val a b (.latch 0) pa pb false (kv.val + 1) s.byM)
def execMmul3 (_st : BitVec 20) (n : Fin 8) (a b w : Sel) (pa pb pw : Bool) (kv : Fin 256) (s : State) : Out :=
  s.onPipe (s.planStep s.ic true n.val a b w pa pb pw (kv.val + 1) s.byM)
def execMdrain (_st : BitVec 20) (n : Fin 8) (hout hdesc : Fin 256) (off : BitVec 16) (s : State) : Out :=
  s.onDrain n.val (s.planDrain s.ic n.val (some (hout.val, off.toNat)) none hdesc.val s.byM)
def execMdrainv (_st : BitVec 20) (n : Fin 8) (vd : Fin 32) (hdesc : Fin 256) (s : State) : Out :=
  s.onDrain n.val (s.planDrain s.ic n.val none (some vd.val) hdesc.val s.byM)

/-- The command images that MSETF accepts (R226). -/
def followOk (w : Nat) : Bool :=
  let op := fld w 56 8
  fld w 36 20 = 0xFFFFF && ((2 ≤ op && op ≤ 10) || op = 13)

/-- MSETF (R226). -/
def execMsetf (_st : BitVec 20) (f : Fin 8) (h : Fin 256) (off : BitVec 16) (s : State) : Out :=
  let k := s.ik
  let e := k.vEnt h.val
  let o := off.toNat
  let w := k.elem e o + k.elem e (o + 1) * 2 ^ 32
  s.checked
    (firstFail [chkBusy (s.mBusy s.ic), k.chkView h.val, chkTag (entTag e = .raw32) (entTag e), k.chkRw 2 h.val false,
      chkRange (o + 1 < entCount e) h.val, s.chkField (!followOk w)])
    (s.pend s.ic 1 (.fol f.val) (.w (BitVec.ofNat 64 w)))

/-- Whether a command executing on the cube reads a ring. -/
def State.ringRead (s : State) (c n : Nat) : Bool :=
  let k := s.core c
  (match k.cube.pipe with | some p => s.pipeBusy c && p.rings.contains n | none => false)
    || (match k.cube.mtile with
      | some m => ((m.desc.drop 8).take (if m.tri then 3 else 2)).any (fun b => b.toNat = n)
      | none => false)

/-- NSET (R215): the depth field holds depth − 1. -/
def execNset (_st : BitVec 20) (n : Fin 16) (h : Fin 256) (depth : Fin 16) (s : State) : Out :=
  let k := s.ik
  let e := k.vEnt h.val
  let d := depth.val + 1
  let sr := entRows e / d
  s.checked
    (firstFail [s.chkField (d = 1), chkBusy (s.mBusy s.ic || s.ringRead s.ic n.val), k.chkView h.val,
      s.chkField (entLevel e ≠ 1 || entRows e % d ≠ 0 || (sr ≠ 32 && sr ≠ 1) || !okKt (entCols e))])
    (s.pend s.ic 1 (.ring n.val) (.ringIs ⟨true, h.val, k.vIdx h.val, d, sr, entCols e, 0, 0, []⟩))

/-- NADV (R215). -/
def execNadv (_st : BitVec 20) (n : Fin 16) (count : BitVec 16) (s : State) : Out :=
  let r := s.ik.ring n.val
  s.checked
    (firstFail [s.chkField (!r.bound || count = 0 || 16 < count.toNat), chkBusy (s.mBusy s.ic),
      failIf (r.depth < r.fill + count.toNat) cRingFull (BitVec.ofNat 64 n.val)])
    (s.pend s.ic 1 (.ring n.val) (.adv count.toNat))

/-- Pops still pending of a ring from the step on the pipe (R215). -/
def State.popsPending (s : State) (c n : Nat) : Nat :=
  match (s.core c).cube.pipe with
  | some p => if s.pipeBusy c && p.pops.contains n then 1 else 0
  | none => 0

/-- NCHK (R215). -/
def execNchk (_st : BitVec 20) (n : Fin 16) (count : BitVec 16) (s : State) : Out :=
  let r := s.ik.ring n.val
  s.checked
    (firstFail [s.chkField (!r.bound || 16 < count.toNat), chkBusy (s.mBusy s.ic),
      failIf (r.fill < count.toNat + s.popsPending s.ic n.val) cRingEmpty (BitVec.ofNat 64 n.val)]) s

/-- The SAT bits that MSTEP reads in cycle r (R211, R225). -/
def Core.satBits (k : Core) (r : Nat) : Nat :=
  (List.range 8).foldl (fun m n =>
    m + b2n (k.accSeen n r).sat * 2 ^ n) 0

/-- MSTEP (R225). -/
def execMstep (_st : BitVec 20) (d : Fin 32) (s : State) : Out :=
  s.checked (chkBusy (s.mBusy s.ic))
    (s.wrS d 1 (BitVec.ofNat 64 (s.ik.cube.qidx.toNat + s.ik.satBits (s.cyc s.ic) * 2 ^ 32)))

/-! ### Macro tiles (R223 to R225) -/

/-- The fields of a macro-tile descriptor. -/
structure TileDesc_ where
  m : Nat
  n : Nat
  k : Nat
  a : Option Sel
  b : Option Sel
  w : Option Sel
  cA : Nat
  cB : Nat
  out : Nat
  drain : Nat
  off : Nat
  zero : Bool
  deriving DecidableEq, Repr

/-- A macro-tile descriptor from its bytes (R224). -/
def mtileDesc (bs : List Byte) : TileDesc_ :=
  let n := fun o l => ofLe ((bs.drop o).take l)
  let sel := fun o => if fld (n o 1) 5 3 = 0 then Sel.ofCode (n o 1) else none
  ⟨n 0 2, n 2 2, n 4 4, sel 8, sel 9, sel 10, fld (n 11 1) 0 3, fld (n 11 1) 3 3, n 12 1, n 13 1, n 16 4,
    fld (n 11 1) 6 2 = 0 && n 14 2 = 0 && n 20 44 = 0⟩

/-- Detail 12: a field out of range (R224). -/
def mtileBad (tri : Bool) (bs : List Byte) : Bool :=
  let d := mtileDesc bs
  let size := fun x => x < 32 || 65504 < x || x % 32 ≠ 0
  size d.m || size d.n || d.k = 0 || 16777215 < d.k || d.a.isNone || d.b.isNone || d.w.isNone || !d.zero
    || (!tri && ofLe ((bs.drop 10).take 1) ≠ 0) || (d.cA = d.cB && 1 < d.m / 32 * (d.n / 32))

/-- Tiles of a macro tile. -/
def TileDesc_.tiles (d : TileDesc_) : Nat := d.m / 32 * (d.n / 32)

/-- The accumulator of tile q. -/
def TileDesc_.acc (d : TileDesc_) (q : Nat) : Nat := if q % 2 = 0 then d.cA else d.cB

/-- The depth of the A plane of a macro tile. -/
def Core.tileKt (k : Core) (d : TileDesc_) : Nat := (k.plane (d.a.getD (.latch 0))).cols

/-- Step i of a tile, with every ring popped. -/
def State.tileStep (s : State) (c : Nat) (tri : Bool) (d : TileDesc_) (q i : Nat) (b : CubeBy) : CubePlan :=
  let kt := (s.core c).tileKt d
  s.planStep c tri (d.acc q) (d.a.getD (.latch 0)) (d.b.getD (.latch 0)) (d.w.getD (.latch 0)) true true true
    (Nat.min kt (d.k - i * kt)) b

/-- The drain of tile q. -/
def State.tileDrain (s : State) (c : Nat) (d : TileDesc_) (q : Nat) (b : CubeBy) : CubePlan :=
  let cols := entCols ((s.core c).vEnt d.out)
  let nq := d.n / 32
  s.planDrain c (d.acc q) (some (d.out, d.off + q / nq * 32 * cols + q % nq * 32)) none d.drain b

/-- How a macro tile's commands come to the cube. -/
def MacroTile.by_ (m : MacroTile) (last : Bool) (late : Nat) : CubeBy := ⟨m.pc, 0, m.ccfg, m.follow && last, m.issued, late⟩

/-- Tile q starts: its accumulator is zeroed (R223). -/
def State.tileStart (s : State) (c : Nat) (m : MacroTile) (q : Nat) : State :=
  let d := mtileDesc m.desc
  let r := s.cyc c
  let s1 := (s.planZero c (d.acc q) (m.by_ false 0)).eff
  let m2 : MacroTile := { m with q := q, step := 1, start := r, next := r + 1 }
  let s2 := s1.modCore c (fun k => { k with cube := { k.cube with mtile := some m2, qidx := BitVec.ofNat 32 (q + 1) } })
  s2.postEv (s2.inst c (r + 1)) 8 (.mtileExpansion c)

/-- A fault of an expanded command: the macro tile stops, and the group that the core issues or idles before raises
it (R224). A core that is stopped or between tasks raises it in its next group. -/
def State.tileFault (s : State) (c : Nat) (m : MacroTile) (f : Nat × W64) : State :=
  let fa := if f.1 = cCubeShape then f.2 else m.pc
  let s1 := s.modCore c (fun k =>
    ({ k with cube := { k.cube with mtile := none, qidx := BitVec.ofNat 32 m.q } } : Core).busy 2 m.start (s.cyc c - m.start))
  let s2 := if m.follow then s1.postMi s1.now 11 (.count c 8 none) else s1
  let k := s2.core c
  match k.seq.st with
  | .run | .wait | .trap => s2.takeTrap c ⟨f.1, fa, 0, false, none⟩ k.seq.pc
  | _ => s2.modCore c (fun k => { k with seq := { k.seq with held := k.seq.held ++ [(f.1, fa, s.cyc c)] } })

/-- The tile is over: the next one starts, the macro tile ends, or the sequencer holds (R223, R225). -/
def State.tileEnd (s : State) (c : Nat) (m : MacroTile) : State :=
  let d := mtileDesc m.desc
  let s := s.modCore c (fun k => k.busy 2 m.start (m.next - m.start))
  if m.q + 1 = d.tiles then s.modCore c (fun k => { k with cube := { k.cube with mtile := none } })
  else if m.hold then s
  else s.tileStart c m (m.q + 1)

/-- The next command of a macro tile at its cycle. A deferral lengthens every later time of the macro tile (R211, R223): its commands
wait for the pipe, and its drains for the drain unit (DEDUCED, log 38). -/
def execMtileExpansion (c : Nat) (s : State) : Out :=
  let k := s.core c
  match k.cube.mtile with
  | none => .next s
  | some m =>
    if k.held then .next s else
    let d := mtileDesc m.desc
    let r := s.cyc c
    let nK := cdiv d.k (Nat.max 1 (k.tileKt d))
    if r < m.next then .next s
    else if m.step = nK + 2 then .next (s.tileEnd c m)
    else
      match k.cube.pipe with
      | some p =>
        if r < k.pipeEnd p then .next (s.postEv (s.inst c (k.pipeEnd p)) 8 (.mtileExpansion c))
        else .next (s.postEv (s.inst c (r + 1)) 8 (.mtileExpansion c))
      | none =>
        if m.step ≤ nK then
          let p := s.tileStep c m.tri d m.q (m.step - 1) (m.by_ false 0)
          match firstFail [p.pre, p.chk] with
          | some f => .next (s.tileFault c m f)
          | none =>
            let len := match (p.eff.core c).cube.pipe with | some x => x.len | none => 1
            let s1 := p.eff.modCore c (fun k => { k with cube := { k.cube with
              mtile := some { m with step := m.step + 1, next := r + len } } })
            .next (s1.postEv (s1.inst c (r + len)) 8 (.mtileExpansion c))
        else if s.drainBusy c then .next (s.postEv (s.inst c (r + 1)) 8 (.mtileExpansion c))
        else
          -- the drain unit and the last output keep the tile's length, which the last drain's own cycle may come before (R223, log 38)
          let till := Nat.max r (m.start + 16)
          let last : Bool := m.q + 1 = d.tiles
          let p := s.tileDrain c d m.q (m.by_ last (if last then till - r else 0))
          match firstFail [p.pre, p.chk] with
          | some f => .next (s.tileFault c m f)
          | none =>
            let m2 : MacroTile := { m with step := nK + 2, next := till }
            let s1 := p.eff.modCore c (fun k => { k with cube := { k.cube with mtile := some m2 } })
            if till = r then .next (s1.tileEnd c m2)
            else .next (s1.postEv (s1.inst c till) 8 (.mtileExpansion c))

/-- FORMAT_TAG of an operand that a descriptor's selector names, where it names one. -/
def Core.chkSel (k : Core) (x : Option Sel) (o : OpFmt) : Check :=
  match x with
  | some y => chkOperand (k.plane y) o
  | none => none

/-- A macro tile planned: its descriptor, its first step and its first and last drains are checked together, step by step of R212
(R224, log 38). The steps' accumulator is judged with the tag that its MZERO gives it. -/
def State.planMtile (s : State) (c : Nat) (tri : Bool) (h : Nat) (b : CubeBy) : CubePlan :=
  let k := s.core c
  let e := k.vEnt h
  let bs := k.descBytes e
  let d := mtileDesc bs
  let rviews := (selRings (([d.a, d.b] ++ (if tri then [d.w] else [])).filterMap id)).map (fun r => (k.ring r).view)
    ++ h :: d.drain :: k.drainViews d.drain
  let m : MacroTile := ⟨tri, b.pc, bs, b.cfg, 0, 0, s.cyc c, s.cyc c, false, b.follow, rviews, b.issued⟩
  let z := s.modCore c (fun k => (k.setAcc d.cA ⟨[], classTag (stepInt false b.cfg), false⟩).setAcc d.cB
    ⟨[], classTag (stepInt false b.cfg), false⟩)
  let first := z.tileStep c tri d 0 0 b
  let dr0 := z.tileDrain c d 0 b
  let drn := z.tileDrain c d (d.tiles - 1) b
  let own : CubeChks := ⟨[k.chkView h], [chkTag (entTag e = .raw32) (entTag e), chkRange (16 ≤ entCount e) h],
    [chkShape [(12, mtileBad tri bs)]], [k.chkRw 2 h false], [], []⟩
  let named : Bool := d.a.isSome && d.b.isSome && d.w.isSome
  let step : CubeChks := { first.chks with
    shape := [chkShape (stepDetails tri b.cfg (d.a.map k.plane) (d.b.map k.plane) (if tri then d.w.map k.plane else none)
      (Nat.min (k.tileKt d) d.k) (z.core c |>.acc d.cA).tag)]
    tag := (if named then [first.pre] else []) ++ [k.chkSel d.a (cfgA b.cfg), k.chkSel d.b (cfgB b.cfg),
      if tri then k.chkSel d.w (cfgW b.cfg) else none] }
  let inner := (step.join dr0.chks).join drn.chks
  let all := own.join (if isDesc e then inner else .none_)
  -- the details of the step come before 11, and 12 last (R218)
  ⟨none, { all with shape := (if isDesc e then inner.shape else []) ++ own.shape }, s.tileStart c m 0⟩

/-- MTILE and MTILE3: the pipe and then the drain unit (R211). -/
def State.onMtile (s : State) (p : CubePlan) : Out :=
  let c := s.ic
  s.checked (firstFail [p.pre, chkBusy (s.mBusy c || s.ik.cube.mtile.isSome || s.pipeBusy c || s.drainBusy c), p.chk]) p.eff

def execMtile (_st : BitVec 20) (h : Fin 256) (s : State) : Out := s.onMtile (s.planMtile s.ic false h.val s.byM)
def execMtile3 (_st : BitVec 20) (h : Fin 256) (s : State) : Out := s.onMtile (s.planMtile s.ic true h.val s.byM)

/-! ### Retirement and the follow-on queue (R211, R226) -/

/-- The start of queued commands posted, in an ASYNC phase. -/
def State.kickFollow (s : State) (c : Nat) : State :=
  let k := s.core c
  if k.async && !k.cube.queue.isEmpty then s.postEv s.now 10 (.followOnStart c) else s

/-- Rings popped (R219). -/
def Core.pop (k : Core) (l : List Nat) : Core :=
  l.foldl (fun k n =>
    let r := k.ring n
    { k with cube := { k.cube with rings := k.cube.rings.setIfInBounds n { r with tail := r.tail + 1 } } }) k

/-- CUBE_STEP_RETIRE: at t + S, later by the cycles lost, the rings are popped and the flags set (R211, R219). -/
def execCubeStepRetire (c : Nat) (s : State) : Out :=
  let k := s.core c
  match k.cube.pipe with
  | none => .next s
  | some p =>
    let till := k.pipeEnd p
    if k.held then .next s
    else if s.cyc c < till then .next (s.postEv (s.inst c till) 4 (.cubeStepRetire c))
    else
      let s1 := s.modCore c (fun k =>
        (((((k.keepUse { k with cube := { k.cube with pipe := none } } p.use (s.cyc c)).pop p.pops).stepSeen till).orFlags (s.cyc c) p.flags).busy 2 p.start
          (till - p.start)))
      let s2 := if p.follow then s1.postMi s1.now 11 (.count c 8 none) else s1
      .next (s2.kickFollow c)

/-- What a drain that commits in cycle r held until then. -/
def DrainCmd.done (r : Nat) (d : DrainCmd) : DoneAcc :=
  ⟨r, 2, d.rviews, d.out.toList.map (·.1), d.out.toList.map (·.2) ++ d.rents⟩

/-- DRAIN_COMMIT: the oldest drain's bytes commit together, as a store, and its flags are set (R221). -/
def execDrainCommit (c : Nat) (s : State) : Out :=
  let k := s.core c
  match k.cube.drains with
  | [] => .next s
  | d :: rest =>
    let till := k.drainEnd d
    if k.held then .next s
    else if s.cyc c < till then .next (s.postEv (s.inst c till) 4 (.drainCommit c))
    else
      let s1 := s.modCore c (fun k =>
        (((k.keepUse { k with cube := { k.cube with drains := rest } } d.use (s.cyc c)).committed [d.done (s.cyc c)] (s.cyc c)).orFlags (s.cyc c) d.flags).busy 2
          d.start (till - d.start))
      let s2 := match d.out with
        | some o => s1.commit c o.2 (k.ent o.2) d.bytes d.pc
        | none => s1
      let s3 := if d.follow then s2.postMi s2.now 11 (.count c 8 none) else s2
      .next (s3.kickFollow c)

/-- A drain from the queue: step 1 of R212 fails while a command on the pipe writes its accumulator (R211). -/
def State.followDrain (s : State) (c n : Nat) (p : CubePlan) : CubePlan :=
  { p with pre := firstFail [p.pre, chkBusy (s.accBusy c n)] }

/-- The plan of a queued command, and the units it needs: 1 the pipe, 2 the drain unit, 3 both (R226). -/
def State.planFollow (s : State) (c : Nat) (i : Instr) (b : CubeBy) : Nat × CubePlan :=
  match i with
  | .mzero _ n => (1, s.planZero c n.val b)
  | .mload _ n h => (1, s.planLoad c n.val h.val b)
  | .mlatch _ l h => (1, s.planLatch c l.val h.val b)
  | .mmul _ n x y px py kv => (1, s.planStep c false n.val x y (.latch 0) px py false (kv.val + 1) b)
  | .mmul3 _ n x y w px py pw kv => (1, s.planStep c true n.val x y w px py pw (kv.val + 1) b)
  | .mdrain _ n ho hd off => (2, s.followDrain c n.val (s.planDrain c n.val (some (ho.val, off.toNat)) none hd.val b))
  | .mdrainv _ n vd hd => (2, s.followDrain c n.val (s.planDrain c n.val none (some vd.val) hd.val b))
  | .mtile _ h => (3, s.planMtile c false h.val b)
  | .mtile3 _ h => (3, s.planMtile c true h.val b)
  | .nadv _ n count =>
    let r := (s.core c).ring n.val
    let s1 := s.modCore c (fun k => { k with cube := { k.cube with
      rings := k.cube.rings.setIfInBounds n.val { r with head := r.head + count } } })
    (0, ⟨failIf (!r.bound) cIllegalField b.img,
      { CubeChks.none_ with ring := [failIf (r.depth < r.fill + count.toNat) cRingFull (BitVec.ofNat 64 n.val)] }, s1.postMi s1.now 11 (.count c 8 none)⟩)
  | _ => (0, ⟨some (cIllegalField, b.img), .none_, s⟩)

/-- FOLLOW_ON_START: in an ASYNC phase the head of the queue starts when its unit is free; a command that fails
changes nothing and completes with its cause (R226). A suspended core starts none (R65). -/
def execFollowOnStart (c : Nat) (s : State) : Out :=
  let k := s.core c
  match k.async && k.seq.st ≠ .suspend && !k.held, k.cube.queue with
  | true, q :: rest =>
    let s0 := s.modCore c (fun k => { k with
      cube := { k.cube with queue := rest }, fl := { k.fl with seq := k.fl.seq + 1 } })
    let by_ : CubeBy := ⟨q.pc, q.word, k.cube.ccfg, true, s.cyc c, 0⟩
    match decodeSlot .m q.word.toNat with
    | .bad e => .next ((s0.postMi s0.now 11 (.count c 8 (some (if e = .illegalOp then cIllegalOp else cIllegalField, q.word)))).kickFollow c)
    | .ok i =>
      let p := s0.planFollow c i by_
      let unit := p.1
      let free := !((k.cube.mtile.isSome && unit ≠ 0)
        || ((unit = 1 || unit = 3) && (s.pipeBusy c || k.cube.pipe.isSome)) || ((unit = 2 || unit = 3) && s.drainBusy c))
      if !free then .next (s.postEv (s.inst c (s.cyc c + 1)) 10 (.followOnStart c))
      else
        match firstFail [p.2.pre, p.2.chk] with
        | some f => .next ((s0.postMi s0.now 11 (.count c 8 (some f))).kickFollow c)
        | none => .next (p.2.eff.kickFollow c)
  | _, _ => .next s

end Sys2Proof.Machine
end

