-- ==== Sys2Proof/Machine/Translate.lean ====
section
/-! DEFINITION. Device physical addresses (R90), what memory reads as under a key (R98), page tables and translation (R87 to R93), access
tables (R97), translation caches (R94), and where a page in migration lies (R96). -/

namespace Sys2Proof.Machine

open Sys2Proof

/-! ### Device physical addresses (R90) -/

/-- The target that a DPA names, and its canonical DPA: the two views of LPDDR-G6 name the same bytes, kept under
the linear view. None where it names nothing. Targets are numbered: HBM of die d is d, the agent of I/O die io is
9 + io, the window is 13. -/
def State.dpa (s : State) (a : Nat) : Option (Nat × Nat) :=
  if a < 0x24000000000 then
    let d := a / 0x4000000000
    if s.liveDie d then some (d, a) else none
  else if a < 0x40000000000 then none
  else if a < 0x60000000000 then some (9 + (a - 0x40000000000) / 0x8000000000, a)
  else if a < 0x80000000000 then none
  else if a < 0xA0000000000 then
    let f := (a - 0x80000000000) / 4096
    some (9 + f % 4, 0x40000000000 + f % 4 * 0x8000000000 + f / 4 * 4096 + a % 4096)
  else if 0xC0000000000 ≤ a && a < 0xC4000000000 && a - 0xC0000000000 < s.pkg.cxlSize.toNat then some (13, a)
  else none

/-- A byte of device memory. -/
def State.memByte (s : State) (a : Nat) : Byte :=
  match s.dpa a with
  | some (_, x) => Mem.read s.mem x
  | none => Mem.unlisted

/-- n bytes of device memory. -/
def State.memBytes (s : State) (a n : Nat) : List Byte := (List.range n).map (fun i => s.memByte (a + i))

/-- Bytes written to device memory; a byte that no target takes is not written. -/
def State.memWrite (s : State) (a : Nat) (bs : List Byte) : State :=
  { s with mem := bs.zipIdx.foldl (fun m p =>
      match s.dpa (a + p.2) with
      | some (_, x) => Mem.write m x p.1
      | none => m) s.mem }

/-! ### Encryption (R98)

An access under keys other than those under which a line was last written reads what they decipher of the line's ciphertext. An access to
which no page entry gives a key reads and writes bytes as they were written (log 40). -/

/-- The tweak of a line of HBM or LPDDR-G6: its canonical address in lines, and its tier above (log 40). -/
def lineTweak (line : Nat) : Nat := line + (if line < 0x1000000000 then 0 else 2 ^ 64)

/-- A line as an access under keys m finds it, and under which it lies from then on. -/
def State.underLine (s : State) (m : BitVec 512) (line : Nat) : State :=
  let s1 : State := { s with lineKeys := AMap.put s.lineKeys line m }
  match AMap.get? s.lineKeys line with
  | some q =>
    if q = m then s
    else
      let bs := xtsDec m (lineTweak line) (xtsEnc q (lineTweak line) (s.mem.bytes (64 * line) 64))
      { s1 with mem := Mem.writes s.mem (layAt (64 * line) bs) }
  | none => s1

/-- The lines of n bytes from a DPA on as an access under the key of a slot finds them; the host's memory is not encrypted. -/
def State.underKey (s : State) (key a n : Nat) : State :=
  match AMap.get? s.pkg.keys key with
  | some m => (List.range (cdiv (a % 64 + n) 64)).foldl (fun s i =>
      match s.dpa (a / 64 * 64 + 64 * i) with
      | some (_, x) => if x < 0x60000000000 then s.underLine m (x / 64) else s
      | none => s) s
  | none => s

/-- n bytes read, and bytes written, under the key of a slot. -/
def State.memRead (s : State) (key a n : Nat) : List Byte := (s.underKey key a n).memBytes a n
def State.memPut (s : State) (key a : Nat) (bs : List Byte) : State := (s.underKey key a bs.length).memWrite a bs

/-! ### Page entries (R88) -/

def pteV (e : W64) : Bool := getB e 0
def pteR (e : W64) : Bool := getB e 1
def pteW (e : W64) : Bool := getB e 2
def pteX (e : W64) : Bool := getB e 3
def pteU (e : W64) : Bool := getB e 4
def ptePs (e : W64) : Nat := getF e 5 2
def pteTier (e : W64) : Nat := getF e 7 2
def ptePlace (e : W64) : Nat := getF e 9 2
def pteHome (e : W64) : Nat := getF e 11 4
def pteKey (e : W64) : Nat := getF e 15 6
def pteChk (e : W64) : Bool := getB e 21
def pteMig (e : W64) : Bool := getB e 22
def ptePfn (e : W64) : Nat := getF e 24 40

/-- An 8-byte entry at a DPA, if the DPA names memory. -/
def State.pteAt (s : State) (a : Nat) : Option W64 :=
  match s.dpa a with
  | some _ => some (BitVec.ofNat 64 (ofLe (s.memBytes a 8)))
  | none => none

/-- The leaf entry of an address below a table at level n + 1, with the log2 of its page size and where it lies
(R87). -/
def State.walkFrom (s : State) (va : Nat) : Nat → Nat → Option (W64 × Nat × Nat)
  | 0, table =>
    let at_ := table + fld va 12 9 * 8
    match s.pteAt at_ with
    | some e => if pteV e && ptePs e < 2 then some (e, if ptePs e = 0 then 12 else 16, at_) else none
    | none => none
  | n + 1, table =>
    let at_ := table + fld va (12 + 9 * (n + 1)) (if n = 2 then 18 else 9) * 8
    match s.pteAt at_ with
    | some e =>
      if !pteV e then none
      else if (n = 1 && ptePs e = 3) || (n = 0 && ptePs e = 2) then some (e, 12 + 9 * (n + 1), at_)
      else s.walkFrom va n (ptePfn e * 4096)
    | none => none

/-- The entry of a 64 KiB page that applies: its own, or any of the 16 where they differ, by a free pick (R87). -/
def State.pick64 (s : State) (va : Nat) (e : W64) (at_ pick : Nat) : W64 :=
  let i := fld va 12 4
  let base := at_ - i * 8
  let es := (List.range 16).map (fun j => (s.pteAt (base + j * 8)).getD 0)
  let norm := fun (j : Nat) (x : W64) => x - BitVec.ofNat 64 (j * 2 ^ 24)
  let e0 := norm i e
  if es.zipIdx.all (fun p => norm p.2 p.1 = e0) then e
  else
    let j := pick % 16
    norm j (es.getD j 0) + BitVec.ofNat 64 (i * 2 ^ 24)

/-- Kinds of access (R93, R97). -/
inductive XKind where
  | read | write | atomic | fetch
  deriving DecidableEq, Repr

/-- A translated access: its DPA as the entry forms it, the key, whether the page is race-checked and may migrate,
the tier, where the entry lies, the entry, and the log2 of the page's size. -/
structure Trans where
  dpa : Nat
  key : Nat
  chk : Bool
  mig : Bool
  tier : Nat
  pteAt : Nat
  pte : W64
  size : Nat
  deriving DecidableEq, Repr

/-- Permission of a kind of access by a page entry (R93). -/
def pteAllows (e : W64) (x : XKind) (priv : Bool) : Bool :=
  pteV e && (priv || pteU e) &&
    (match x with
     | .read => pteR e
     | .write => pteW e
     | .atomic => pteR e && pteW e
     | .fetch => pteX e)

/-- The home die that PLACE selects (R91). -/
def homeDie (steer : W64) (va : Nat) (e : W64) : Option Nat :=
  let x4 := fun o => Nat.xor (Nat.xor (fld va o 4) (fld va (o + 4) 4)) (Nat.xor (fld va (o + 8) 4) (fld va (o + 12) 4))
  match ptePlace e with
  | 0 => some (getF steer (4 * x4 12) 4)
  | 1 => some (pteHome e)
  | 2 => some (getF steer (4 * x4 21) 4)
  | _ => none

/-- The DPA of an access through a leaf entry (R89 to R91). -/
def State.formDpa (s : State) (ctx va : Nat) (e : W64) (size : Nat) : Option Nat :=
  let cx := s.ctxs.toArray.getD ctx .init
  let off := if size = 16 then fld va 0 12 else va % 2 ^ size
  let frame := ptePfn e + off / 4096
  match pteTier e with
  | 0 =>
    match homeDie cx.steer va e with
    | some d => if frame < 2 ^ 26 && s.liveDie d && cx.dies.contains d
        then some (d * 0x4000000000 + ptePfn e * 4096 + off) else none
    | none => none
  | 1 => if frame < 2 ^ 29 then some (0x80000000000 + ptePfn e * 4096 + off) else none
  | 2 => if frame < 2 ^ 26 then some (0xC0000000000 + ptePfn e * 4096 + off) else none
  | _ => none

/-- A leaf entry applied to an access: the translation, or a translation fault (R93). -/
def State.apply (s : State) (ctx va : Nat) (l : W64 × Nat × Nat) (pick : Nat) (x : XKind) (priv : Bool) : Option Trans :=
  let e := if l.2.1 = 16 then s.pick64 va l.1 l.2.2 pick else l.1
  if !pteAllows e x priv then none
  else match s.formDpa ctx va e l.2.1 with
    | some a => match s.dpa a with
      | some _ => some ⟨a, pteKey e, pteChk e, pteMig e, pteTier e, l.2.2, e, l.2.1⟩
      | none => none
    | none => none

/-- Translation of an access of a partition context (R93). -/
def State.translate (s : State) (ctx va : Nat) (x : XKind) (priv : Bool) (pick : Nat) : Option Trans :=
  if fld va 57 7 ≠ 0 then none
  else match s.walkFrom va 3 (s.ctxs.toArray.getD ctx .init).ptbase.toNat with
    | some l => s.apply ctx va l pick x priv
    | none => none

/-! ### Access tables (R97) -/

/-- The entry of a master in a target's table. -/
def State.tableEntry (s : State) (target master : Nat) : BitVec 128 :=
  (AMap.get? ((AMap.get? s.targets target).getD ⟨[], []⟩).table master).getD 0

/-- Whether a target's table lets a master make an access of a kind. -/
def State.grantsKind (s : State) (target master : Nat) (x : XKind) : Bool :=
  let e := s.tableEntry target master
  master < 0x11D && (match x with
    | .read | .fetch => getB e 64
    | .write => getB e 65
    | .atomic => getB e 66)

/-- Whether a target's table lets a master make an access to a page of a key, whose slot holds one. -/
def State.grants (s : State) (target master : Nat) (x : XKind) (key : Nat) : Bool :=
  s.grantsKind target master x && getB (s.tableEntry target master) key && (AMap.get? s.pkg.keys key).isSome

/-- A denied access in the target's log of 16 entries, the oldest dropped. -/
def State.logDenial (s : State) (target master va : Nat) (x : XKind) : State :=
  let t := (AMap.get? s.targets target).getD ⟨[], []⟩
  let n := match x with | .read | .fetch => 0 | .write => 1 | .atomic => 2
  let l := t.log ++ [(master, va, n)]
  { s with targets := AMap.put s.targets target { t with log := l.drop (l.length - 16) } }

/-- The context of a core's launch, and the master id of its accesses (R97). -/
def State.ctxOf (s : State) (c : Nat) : Nat :=
  match s.launchOf c with
  | some (_, l) => l.ctx
  | none => 0
def State.masterOf (s : State) (c : Nat) : Nat :=
  match s.launchOf c with
  | some (_, l) => l.ctx * 32 + l.queue % 32
  | none => 0x11D

/-! ### Translation caches (R94) -/

/-- A core with its engines changed. -/
def Core.withEng (k : Core) (f : Engines → Engines) : Core := { k with eng := f k.eng }
def State.modEng (s : State) (c : Nat) (f : Engines → Engines) : State := s.modCore c (fun k => k.withEng f)

/-- A cached translation: context, first VA, log2 of the page size, leaf entry. -/
abbrev TlbEnt := Nat × Nat × Nat × W64

/-- The leaf entry of an address within a cached page: a 64 KiB page has consecutive frames (R87). -/
def leafAt (e : W64) (size va : Nat) : W64 := if size = 16 then e + BitVec.ofNat 64 (fld va 12 4 * 2 ^ 24) else e

/-- What is cached of the leaf entry of an address. -/
def leafBase (e : W64) (size va : Nat) : W64 := if size = 16 then e - BitVec.ofNat 64 (fld va 12 4 * 2 ^ 24) else e

/-- A cached page that holds an address. -/
def tlbFind (l : List TlbEnt) (ctx va : Nat) : Option TlbEnt :=
  l.find? (fun t => t.1 = ctx && t.2.1 = va / 2 ^ t.2.2.1 * 2 ^ t.2.2.1)

/-- A cache of n entries with one more; which goes when it is full no rule says: the oldest (log 40). -/
def tlbPut (n : Nat) (t : TlbEnt) (l : List TlbEnt) : List TlbEnt := (t :: l).take n

/-- A die. -/
def State.die (s : State) (d : Nat) : Die := (AMap.get? s.dies d).getD Die.init
def State.modDie (s : State) (d : Nat) (f : Die → Die) : State := { s with dies := AMap.put s.dies d (f (s.die d)) }

/-- A leaf entry put into the caches of a core and of its die. -/
def State.tlbFill (s : State) (c : Nat) (t : TlbEnt) : State :=
  (s.modEng c (fun e => { e with tlb := tlbPut 64 t e.tlb })).modDie (coreDie c) (fun d => { d with tlb := tlbPut 16384 t d.tlb })

/-- The cached leaf of an address, as the caches of a core and of its die hold it. -/
def State.tlbLook (s : State) (c va : Nat) : Option TlbEnt :=
  match tlbFind (s.core c).eng.tlb (s.ctxOf c) va with
  | some t => some t
  | none => tlbFind (s.die (coreDie c)).tlb (s.ctxOf c) va

/-- An access through a cached leaf: the translation, or a fault (R93). -/
def State.through (s : State) (ctx va : Nat) (t : TlbEnt) (x : XKind) (priv : Bool) : Option Trans :=
  let e := leafAt t.2.2.2 t.2.2.1 va
  if fld va 57 7 ≠ 0 || !pteAllows e x priv then none
  else match s.formDpa ctx va e t.2.2.1 with
    | some a => match s.dpa a with
      | some _ => some ⟨a, pteKey e, pteChk e, pteMig e, pteTier e, 0, e, t.2.2.1⟩
      | none => none
    | none => none

/-- The walk of an address (R87), and the entry to cache. -/
def State.walk (s : State) (ctx va : Nat) : Option TlbEnt :=
  if fld va 57 7 ≠ 0 then none
  else match s.walkFrom va 3 (s.ctxs.toArray.getD ctx .init).ptbase.toNat with
    | some l =>
      let e := if l.2.1 = 16 then s.pick64 va l.1 l.2.2 s.free else l.1
      some (ctx, va / 2 ^ l.2.1 * 2 ^ l.2.1, l.2.1, leafBase e l.2.1 va)
    | none => none

/-! ### Pages in migration (R96) -/

/-- Whether a page in migration holds an address, by its old place or by its new one. -/
def Migr.hasOld (m : Migr) (a : Nat) : Bool := m.old ≤ a && a < m.old + 2 ^ m.size
def Migr.hasNew (m : Migr) (a : Nat) : Bool := m.new ≤ a && a < m.new + 2 ^ m.size

/-- A canonical DPA in the view in which pages lie: LPDDR-G6 interleaved over the I/O dies (R90). -/
def flatDpa (a : Nat) : Nat :=
  if 0x40000000000 ≤ a && a < 0x60000000000 then
    let io := (a - 0x40000000000) / 0x8000000000
    let off := (a - 0x40000000000) % 0x8000000000
    0x80000000000 + (off / 4096 * 4 + io) * 4096 + off % 4096
  else a

/-- The migration that concerns a canonical DPA: the die whose engine moves the page, its place in the list, and the record. -/
def State.migrOf (s : State) (a : Nat) (old : Bool) : Option (Nat × Nat × Migr) :=
  s.dies.findSome? (fun p =>
    match p.2.migr.findIdx? (fun m => if old then m.hasOld (flatDpa a) else m.hasNew (flatDpa a)) with
    | some i => (p.2.migr[i]?).map (fun m => (p.1, i, m))
    | none => none)

/-- Where a request to a page that has been moved is forwarded: the target and its canonical DPA. -/
def State.forwardTo (s : State) (m : Migr) (a : Nat) : Nat × Nat :=
  (s.dpa (m.new + (flatDpa a - m.old))).getD (0, a)

/-- Where a byte of memory lies for an access by DPA that is no request of its own: at its page's new place once that has been moved. -/
def State.moved (s : State) (a : Nat) : Nat :=
  match s.dpa a with
  | some q =>
    match s.migrOf q.2 true with
    | some (_, _, m) => if m.st = 2 then m.new + (flatDpa q.2 - m.old) else a
    | none => a
  | none => a

/-! ### Requests to a page that is being moved (R96) -/

/-- A migration changed. -/
def State.modMigr (s : State) (d i : Nat) (f : Migr → Migr) : State :=
  s.modDie d (fun x => { x with migr := x.migr.zipIdx.map (fun p => if p.2 = i then f p.1 else p.1) })

/-- An access counted for migration: the accesses of every die to a 64 KiB block, and in place 9 those of agents on no compute die (R96). -/
def countBlock (m : AMap (List Nat)) (a d : Nat) : AMap (List Nat) :=
  let f := flatDpa a / 65536
  let l := (AMap.get? m f).getD (List.replicate 10 0)
  AMap.put m f (l.zipIdx.map (fun p => if p.2 = d then p.1 + 1 else p.1))

/-- A request counted at its home (R99), and for migration: at its home, or, where no compute die is its home, at the die that makes
it. -/
def State.countReq (s : State) (c target a : Nat) : State :=
  let d := coreDie c
  if target < 9 then
    s.modDie target (fun y => { y with
      reqcnt := y.reqcnt.setIfInBounds d (y.reqcnt.toArray.getD d 0 + 1)
      counts := countBlock y.counts a d })
  else s.modDie d (fun y => { y with counts := countBlock y.counts a d })

/-- An access of an agent to a page that is locked waits there, and one that comes to the new place of a page whose requests are still
forwarded waits there (R96): the row that makes it comes again. -/
def State.heldRow (s : State) (a n : Nat) (retry : Instr) : Option State :=
  (List.range (cdiv (a % 4096 + n) 4096)).findSome? (fun j =>
    match s.dpa (a / 4096 * 4096 + 4096 * j) with
    | some q =>
      match s.migrOf q.2 true, s.migrOf q.2 false with
      | some (d, i, m), _ => if m.st = 1 then some (s.modMigr d i (fun m => { m with held := m.held ++ [retry] })) else none
      | none, some (d, i, m) => if m.st = 2 then some (s.modMigr d i (fun m => { m with direct := m.direct ++ [retry] })) else none
      | none, none => none
    | none => none)

end Sys2Proof.Machine
end

