-- ==== Sys2Proof/Machine/Fetch.lean ====
section
/-! DEFINITION. Fetching an issue group (R86, R141 to R148): its bytes, its bundles, its slots, what is wrong with them, and what the fetch
leaves in the caches. -/

namespace Sys2Proof.Machine

open Sys2Proof

/-- A byte of pinned text (R86). -/
def Core.pinned (k : Core) (a : Nat) : Option Byte :=
  match k.prog.text.find? (fun b => b.1 ≤ a && a < b.1 + b.2.length) with
  | some b => some (b.2.getD (a - b.1) 0)
  | none => none

/-- The leaf by which a core fetches untimed code at an address: cached, or walked (R94). -/
def State.textLeaf (s : State) (c a : Nat) : Option TlbEnt :=
  match s.tlbLook c a with
  | some t => some t
  | none => s.walk (s.ctxOf c) a

/-- A fetch of untimed code translated (R86, R93). -/
def State.textTrans (s : State) (c : Nat) (priv : Bool) (a : Nat) : Option Trans :=
  (s.textLeaf c a).bind (fun t => s.through (s.ctxOf c) a t .fetch priv)

/-- Whether the target of a fetch grants it (R97). -/
def State.fetchOk (s : State) (c : Nat) (t : Trans) : Bool :=
  match s.dpa (s.moved t.dpa) with
  | some (g, _) => s.grants g (s.masterOf c) .fetch t.key
  | none => false

/-- A line of the instruction cache that holds an address (R86). -/
def Core.cachedLine (k : Core) (a : Nat) : Option (List Byte) := (k.prog.icache.find? (fun l => l.1 = a / 64)).map (·.2)

/-- A byte of text: pinned in a timed task; else through translation, from the instruction cache or from memory, where an access that the
target's table denies is not fetchable either (R86, R147, R351). -/
def State.textByte (s : State) (c : Nat) (timed priv : Bool) (a : Nat) : Option Byte :=
  if timed then (s.core c).pinned a
  else match s.textTrans c priv a, (s.core c).cachedLine a with
    | some _, some l => some (l.getD (a % 64) 0)
    | some t, none => if s.fetchOk c t then some ((s.memRead t.key (s.moved t.dpa) 1).headD 0) else none
    | none, _ => none

/-- Lines of the instruction cache that pinned text leaves free (R86). -/
def Core.freeLines (k : Core) : Nat :=
  1024 - (once (k.prog.text.flatMap (fun b => (List.range (cdiv (b.1 % 64 + b.2.length) 64)).map (fun i => b.1 / 64 + i)))).length

/-- The line of an address that a fetch of untimed code has touched: its leaf is cached, and the line itself, the line that came first
giving way to it (log 40); the read is counted at its home and logged where that forwards it, with the address of its group (R96), and
one that the target denies enters its log (R86, R94, R97). -/
def State.fetchLine (s : State) (c : Nat) (priv : Bool) (pc : W64) (a : Nat) : State :=
  match s.textLeaf c a, s.textTrans c priv a with
  | some e, some t =>
    let s1 := if (s.tlbLook c a).isSome then s else s.drawn.tlbFill c e
    if ((s.core c).cachedLine a).isSome then s1
    else
      let p := (s.dpa t.dpa).getD (0, t.dpa)
      let s2 := s1.countReq c p.1 p.2
      let s3 := if (s.migrOf p.2 true).any (fun q => q.2.2.st = 2) then s2.logDcr c 0x0C pc.toNat 1 else s2
      if s.fetchOk c t then
        let l := (a / 64, s.memRead t.key (s.moved t.dpa / 64 * 64) 64)
        s3.modCore c (fun k => { k with prog := { k.prog with icache := (l :: k.prog.icache).take k.freeLines } })
      else match s.dpa (s.moved t.dpa) with
        | some (g, _) => s3.logDenial g (s.masterOf c) a .fetch
        | none => s3
  | _, _ => s

/-- n bytes of text, or the address of the lowest that cannot be fetched. -/
def State.textBytes (s : State) (c : Nat) (timed priv : Bool) (a : Nat) : Nat → Except Nat (List Byte)
  | 0 => .ok []
  | n + 1 =>
    match s.textByte c timed priv a with
    | none => .error a
    | some b =>
      match s.textBytes c timed priv (a + 1) n with
      | .ok r => .ok (b :: r)
      | .error e => .error e

/-- A fetched bundle: where it begins, its header, the bytes of its slots. -/
structure Bundle where
  addr : Nat
  hdr : Nat
  body : List Byte
  deriving DecidableEq, Repr

def hdrMask (h : Nat) : Nat := fld h 0 8
def hdrStop (h : Nat) : Bool := bit h 8
def hdrGap (h : Nat) : Nat := fld h 9 3

/-- Bytes of the slots that a mask names (R141). -/
def maskBytes (m : Nat) : Nat :=
  (List.range 8).foldl (fun n i => if bit m i then n + (if i = 5 || i = 6 then 8 else 4) else n) 0

/-- A header at which fetch ends (R147): cases 1 and 2 of R143. -/
def hdrBreaks (h : Nat) : Bool := fld h 12 4 ≠ 0 || (hdrMask h = 0 && !hdrStop h)

/-- The bundles of a group from an address on; an error is the lowest unfetchable byte and the first byte of the
bundle that holds it (R147). The fuel bounds the length. -/
def State.bundles (s : State) (c : Nat) (timed priv : Bool) : Nat → Nat → Except (Nat × Nat) (List Bundle)
  | 0, _ => .ok []
  | f + 1, a =>
    match s.textBytes c timed priv a 2 with
    | .error e => .error (e, a)
    | .ok hb =>
      let h := ofLe hb
      if hdrBreaks h then .ok [⟨a, h, []⟩]
      else match s.textBytes c timed priv (a + 2) (maskBytes (hdrMask h)) with
        | .error e => .error (e, a)
        | .ok body =>
          if hdrStop h then .ok [⟨a, h, body⟩]
          else match s.bundles c timed priv f (a + 2 + body.length) with
            | .ok r => .ok (⟨a, h, body⟩ :: r)
            | .error e => .error e

/-- More bundles than the addresses of R87 can hold: before they are spent, fetch has come to a STOP, to a header that breaks R143, or
to a byte that cannot be fetched. -/
def fetchFuel : Nat := 2 ^ 57

/-- The slots of a bundle in mask order. -/
def Bundle.slots (b : Bundle) : List SlotWord :=
  ((List.range 8).foldl (fun (r : List Byte × List SlotWord) i =>
    if bit (hdrMask b.hdr) i then
      let n := if i = 5 || i = 6 then 8 else 4
      (r.1.drop n, r.2 ++ [⟨i, ofLe (r.1.take n), BitVec.ofNat 64 b.addr⟩])
    else r) (b.body, [])).2

/-- The stamp of an M or E slot. -/
def SlotWord.stamp (w : SlotWord) : Option Nat :=
  if w.kind = 5 || w.kind = 6 then (if fld w.word 36 20 = 0xFFFFF then none else some (fld w.word 36 20)) else none

/-- The stamps of a bundle's slots. -/
def Bundle.stamps (b : Bundle) : List Nat := b.slots.filterMap SlotWord.stamp

/-- Whether a bundle breaks R143, given the bundles before it in its group. -/
def bundleBad (before : List Bundle) (b : Bundle) : Bool :=
  let first := before.isEmpty
  let mask := hdrMask b.hdr
  let earlier := before.foldl (fun m x => Nat.lor m (hdrMask x.hdr)) 0
  let stamps := (before.map Bundle.stamps).flatten ++ b.stamps
  hdrBreaks b.hdr || (mask = 0 && !first) || (!first && hdrGap b.hdr ≠ 0) || Nat.land mask earlier ≠ 0
    || stamps.any (fun x => x ≠ stamps.headD 0)

/-- The first bundle of a group that breaks R143. -/
def firstBad : List Bundle → List Bundle → Option Bundle
  | _, [] => none
  | pre, b :: r => if bundleBad pre b then some b else firstBad (pre ++ [b]) r

/-- What the fetch of a group gives. -/
inductive Fetched where
  | fault (faddr : W64) (straddle : Bool)
  | illegal (faddr : W64)
  | group (slots : List SlotWord) (next : W64) (stamp : Option Nat)
  deriving DecidableEq, Repr

/-- The group at an address (R147, R148 steps 1 and 2). STRADDLE is judged by the 4 KiB units of the addresses, in pinned text, which lies on
no page, and in larger pages too, and a bundle that began in any earlier unit counts as one that began on the preceding page (DEDUCED,
log 21). -/
def State.fetch (s : State) (c : Nat) (pc : W64) : Fetched :=
  let a := pc.toNat
  if a % 2 = 1 then .fault pc false
  else match s.bundles c (s.core c).timed (s.core c).priv fetchFuel a with
    | .error (e, b) => .fault (BitVec.ofNat 64 e) (b / 4096 ≠ e / 4096 || a / 4096 ≠ e / 4096)
    | .ok bs =>
      match firstBad [] bs with
      | some b => .illegal (BitVec.ofNat 64 b.addr)
      | none =>
        let slots := (bs.map Bundle.slots).flatten
        let last := bs.getLastD ⟨a, 0, []⟩
        let ordered := (List.range 8).flatMap (fun i => slots.filter (fun w => w.kind = i))
        .group ordered (BitVec.ofNat 64 (last.addr + 2 + last.body.length)) (slots.filterMap SlotWord.stamp).head?

/-- An address in each line that the fetch of a group touches: none where its text is pinned. -/
def State.fetchAddrs (s : State) (c : Nat) (pc : W64) : List Nat :=
  if (s.core c).timed || pc.toNat % 2 = 1 then []
  else
    let last := match s.fetch c pc with
      | .fault e _ => e.toNat
      | .illegal b => b.toNat + 1
      | .group _ next _ => next.toNat - 1
    (List.range (last / 64 + 1 - pc.toNat / 64)).map (fun i => Nat.max pc.toNat ((pc.toNat / 64 + i) * 64))

/-- What the fetch of a group leaves in the caches of its core. -/
def State.fetched (s : State) (c : Nat) (pc : W64) : State :=
  (s.fetchAddrs c pc).foldl (fun s a => s.fetchLine c (s.core c).priv pc a) s

/-- A fetch that waits at a home, where a page of its text is being moved (R96): the group is reached when that lets it go. -/
def State.fetchHeld (s : State) (c : Nat) (pc : W64) : Option State :=
  (s.fetchAddrs c pc).findSome? (fun a =>
    match s.textTrans c (s.core c).priv a, (s.core c).cachedLine a with
    | some t, none => s.heldRow t.dpa 1 (.groupReach c)
    | _, _ => none)

/-- SLOTMAP (R178): the masks of the group at EPC, fetched as its task fetches it; where it cannot be fetched the spec states no
mask, and a free value is read. -/
def State.slotmap (s : State) (c : Nat) : Byte :=
  let k := s.core c
  let timed := match k.prog.cur with
    | some t => t.timed
    | none => false
  match s.bundles c timed false fetchFuel k.tr.epc.toNat with
  | .ok bs => BitVec.ofNat 8 (bs.foldl (fun m x => Nat.lor m (hdrMask x.hdr)) 0)
  | .error _ => BitVec.ofNat 8 s.free

end Sys2Proof.Machine
end

