-- ==== Sys2Proof/Machine/Gangs.lean ====
section
/-! DEFINITION. Halting a gang and starting it again (R65 to R68, R296, R297, R300, R305), and resuming from a trap. -/

namespace Sys2Proof.Machine

open Sys2Proof

/-! ### A core stops and starts with what hangs on it -/

/-- A core stops before its cycle in progress: its batch windows close (R252), its macro tile holds. -/
def State.stopCore (s : State) (c : Nat) (st : CSt) : State :=
  let s1 := s.closeAll c
  (s1.modCore c Core.holdTile).haltAt c st (s.cyc c)

/-- Lateness in ticks, rounded up, of an instant behind a tick. -/
def lateness (t : Nat) (x : W64) : Nat := cdiv (t - x.toNat * tick) tick

/-- Whether the launch of a core has LATEFAULT set (R51). -/
def State.latefault (s : State) (c : Nat) : Bool :=
  match s.launchOf c with
  | some (_, l) => l.img.latefault
  | none => false

/-- TICK_LATE logged, or under LATEFAULT a LATE_START left for the next group (R68, R244). -/
def State.tickLate (s : State) (c : Nat) (pc : W64) (x : W64) (n : Nat) : State :=
  if s.latefault c then s.modCore c (fun k => { k with seq := { k.seq with late := some (x, true) } })
  else s.logDcr c 0x06 pc.toNat n

/-- A TWAIT interrupted by a stop resumes its idling at cycle r with the same tick; a tick that has passed by then is late,
and under LATEFAULT the TWAIT raises LATE_START in its slot (R244). -/
def State.resumeTwait (s : State) (c r : Nat) : State :=
  let k := s.core c
  match k.seq.twLeave with
  | some (x, _) =>
    if x.toNat * tick < s.inst c r && s.latefault c then
      let s1 := s.modCore c (fun k => { k with seq := { k.seq with
        late := some (x, false), pc := k.seq.twBase, reenter := some 6, target := some k.seq.pc, twLeave := none, kind := .stamp } })
      s1.setReach c r
    else
      let r2 := Nat.max r (s.first c (x.toNat * tick))
      let s1 := if x.toNat * tick < s.inst c r then
          (s.logDcr c 0x06 k.seq.twPc.toNat (lateness (s.inst c r) x)).modCore c (fun k => { k with seq := { k.seq with
            twLate := lateness (s.inst c r) x } })
        else s
      (s1.setReach c r2).postEv (s1.inst c r2) 1 (.twaitLeave c)
  | none => s

/-- The next task of a core begins no earlier than cycle r; in a sample-locked region a frame start begins it (R55). -/
def State.postTask (s : State) (c r : Nat) : State :=
  if (s.lockedRegion (s.core c)).isSome then s
  else match (s.core c).prog.tasks with
  | t :: _ => s.postEv (Nat.max (s.inst c r) (s.inst c (s.first c t.start))) 9 (.taskStart c)
  | [] => s

/-- A launch whose core has no task left begins to retire. -/
def State.retireTry (s : State) (c : Nat) : State :=
  match (s.core c).seq.launch with
  | some l => s.postEv s.now 13 (.launchRetire l)
  | none => s

/-- The slot from which a group is re-entered: none where SLOTRES reads 15, the group then being reached afresh (R296). -/
def Core.slotres (k : Core) : Option Nat := if getF k.tr.status 0 4 = 15 then none else some (getF k.tr.status 0 4)

/-- A core that has stopped at a breakpoint goes on from EPC, at slot SLOTRES (R309). -/
def Core.unbreak (k : Core) : Core :=
  if k.seq.brk then
    { k with seq := { k.seq with
      brk := false, armed := true, idle := 0, pc := k.tr.epc, reenter := k.slotres, target := none
      kind := if k.slotres.isNone then .none else .stamp } }
  else k

/-- What a debugger's step has held goes on from cycle r, with what was under way as much later (R306). -/
def State.unhold (s : State) (c r : Nat) : State :=
  match (s.core c).seq.heldAt with
  | some h =>
    let s1 := s.modCore c (fun k => { k.delay (r - h) with seq := { k.seq with heldAt := none } })
    let at_ := s.inst c r
    ((s1.postEv at_ 4 (.cubeStepRetire c)).postEv at_ 4 (.drainCommit c)).postEv at_ 10 (.followOnStart c)
  | none => s

/-- A stopped core counts and issues again from cycle r on. -/
def State.wakeCore (s : State) (c r : Nat) : State :=
  let s1 := (((s.unhold c r).modCore c Core.unbreak).startCore c r).resumeTwait c r
  if (s1.core c).prog.cur.isNone then s1.postTask c r else s1

/-- The return from an exception at cycle r (R176, R296): PRIV clears, TIMED is the task's flag, STEP is PSTEP, NGP is TNGP,
frozen writes count again, the exchange phase returns (R261), and EPC is re-entered at slot SLOTRES. -/
def Core.resumeTrap (k : Core) (r : Nat) : Core :=
  let timed := match k.prog.cur with
    | some t => t.timed
    | none => false
  let st := setB (setB (setB k.tr.status 4 false) 5 timed) 8 (getB k.tr.cause 9)
  let keepNgp := k.tr.tngp = BitVec.allOnes 64 || k.slotres.isNone
  let k1 := (k.thaw r).openUi r
  let n := r - k.seq.handlerFrom
  let x : Xchg := { k1.x with on := k1.x.saved, cmds := k1.x.savedCmds, saved := false, savedCmds := [] }
  { k1 with
    tr := { k1.tr with status := st, ngp := if keepNgp then k1.tr.ngp else k1.tr.tngp }
    x := x.shift k.seq.handlerFrom n
    seq := { k1.seq with
      st := .run, pc := k.tr.epc, idle := 0, reenter := k.slotres
      target := if keepNgp then none else some k.tr.tngp
      kind := if k.slotres.isNone then .none else .stamp
      counting := true, ref := r, epoch := k.seq.epoch + 1 } }

/-- What a core has to do again, posted after it counts from cycle r on. -/
def State.repost (s : State) (c r : Nat) : State :=
  let s1 := (s.rearm c).postFrame c
  let s2 := (s1.core c).x.cmds.foldl (fun s m => s.postEv (s.inst c m.at_) 5 (.exchangeRow c)) s1
  match (s2.core c).ui.win with
  | some w => (s2.postEv (s2.inst c r) 12 (.userInterrupt c)).postEv (s2.inst c (w + 1)) 8 (.uiwinClose c)
  | none => s2

/-- A core returns from its handler at cycle r. -/
def State.returnFrom (s : State) (c r : Nat) : State :=
  (((s.unhold c r).modCore c (fun k => k.resumeTrap r)).setReach c r).repost c r

/-- A halted core wakes at cycle r: a trapped one returns to its group, or, where its handler has ended its task, waits for its next one;
the others go on, one that had stopped at its S before the halt and one within its handler among them. -/
def State.wakeMember (s : State) (x : Gang) (c r : Nat) : State :=
  if x.retts.any (fun p => p.1 = c) && (s.core c).priv then s.returnFrom c r
  else if x.ended.contains c then
    let s1 := ((s.unhold c r).modCore c (fun k => k.thaw r)).startCore c r
    if (s1.core c).prog.tasks.isEmpty then s1.retireTry c
    else if (s1.core c).seq.late.isSome then s1.postEv (s1.inst c r) 9 (.taskStart c) else s1.postTask c r
  else s.wakeCore c r

/-! ### The halt of a gang (R67) -/

/-- Whether a core takes part in a halt: it issues, idles or waits between tasks, and is in no handler of a timed task. -/
def Core.halts (k : Core) : Bool :=
  match k.seq.st with
  | .run | .wait | .trap => true
  | .idle => k.seq.counting
  | _ => false

/-- Whether a member has still to stop in a halt: a trapped one goes on in its handler, except that a debugger's step ends for it too
(R67, R306). -/
def State.toHalt (s : State) (x : Gang) (c : Nat) : Bool := (s.core c).halts && (x.step ≠ 0 || !x.trapped.contains c)

/-- Whether a member of a gang is in a handler, or its debugger is attached: such a gang is not saved (R303). -/
def State.unsavable (s : State) (x : Gang) : Bool :=
  x.cores.any (fun c => (s.core c).priv || (s.core c).seq.st = .trap || (s.core c).dbg.attach)

/-- A member stops at its first cycle at or after the halt instant; one that a step has started stops one cycle later, is held, and
keeps its lead over the others (R297, R306). -/
def State.haltMember (s : State) (g : Nat) (x : Gang) (c : Nat) : State :=
  if x.step = 0 then
    let r := s.first c x.haltT
    if !s.toHalt x c then s
    else if s.now < s.inst c r then s.postEv (s.inst c r) 8 (.gangHalt g)
    else (s.stopCore c .halt).modCore c (fun k => { k with seq := { k.seq with frozenAt := x.haltT } })
  else
    let r := s.first c x.restartT + 1
    if s.now < s.inst c r then s.postEv (s.inst c r) 8 (.gangHalt g)
    else
      let s1 := if s.toHalt x c then s.stopCore c .halt else s
      s1.modCore c (fun k => { k with seq := { k.seq with heldAt := some (k.seq.heldAt.getD r) } })

/-- The cores that a HALT finds in their handlers stop at their first cycle at or after its instant (R305). -/
def State.handlerHalt (s : State) (g : Nat) : State :=
  match AMap.get? s.gangs g with
  | some x =>
    if x.byDebug && x.dbgT ≤ s.now then
      (x.trapped.filter (fun c => (s.core c).seq.st = .trap)).foldl (fun s c =>
        let at_ := s.inst c (s.first c x.dbgT)
        if s.now < at_ then s.postMi at_ 8 (.handlerHalt g) else s.stopCore c .halt) s
    else s
  | none => s

/-- The groups that the cores of a gang have issued (R306). -/
def State.issued (s : State) (x : Gang) : Nat := x.cores.foldl (fun n c => n + (s.core c).fl.groups) 0

/-- Every core that the halt of a gang holds begins one cycle, the first of its own at or after now; a core whose handler has ended its
task waits for the restart (R306). -/
def State.stepGang (s : State) (g : Nat) (x : Gang) (n : Nat) : State :=
  let x2 : Gang := { x with st := .halting, step := n, stepSum := s.issued x, restartT := s.now }
  let s1 : State := { s with gangs := AMap.put s.gangs g x2 }
  (x.cores.foldl (fun s c =>
    if (s.core c).seq.st = .halt && !x.ended.contains c then s.wakeMember x c (s.first c s.now) else s) s1).postEv s.now 8 (.gangHalt g)

/-- A gang whose trapped cores have all returned or ended. -/
def Gang.ready (x : Gang) : Bool :=
  !x.byDebug && x.trapped.all (fun c => x.ended.contains c || x.retts.any (fun r => r.1 = c))

/-- A gang restarts when every trapped core has returned or ended: at the largest tick named, but not before the halt
instant or the cycle after the last RETT; with no RETT the launch is aborted (R68, R172). -/
def State.tryRestart (s : State) (g : Nat) : State :=
  match AMap.get? s.gangs g with
  | some x =>
    if x.st = .halted && x.ready && !x.df then
      if x.retts.isEmpty then (if x.ended.isEmpty then s else s.abort x.launch .aborted)
      else
        let t := x.retts.foldl (fun m r => Nat.max m r.2) 0
        let bound := Nat.max x.haltT x.lastRettT
        let at_ := Nat.max (t * tick) bound
        let x2 : Gang := { x with restartT := at_ }
        let s1 : State := { s with gangs := AMap.put s.gangs g x2 }
        let s2 := if t * tick < bound then
            s1.tickLate x.lastRett (s1.core x.lastRett).seq.pc (BitVec.ofNat 64 t) (lateness bound (BitVec.ofNat 64 t))
          else s1
        s2.postEv at_ 8 (.gangRestart g)
    else s
  | none => s

/-- GANG_HALT: the other cores of the gang stop as at S, with nothing saved (R67); a STEPG in which no core has issued a group
steps again (R306). -/
def execGangHalt (g : Nat) (s : State) : Out :=
  match AMap.get? s.gangs g with
  | some x =>
    if x.st = .halting && x.haltT ≤ s.now then
      let s1 := x.cores.foldl (fun s c => s.haltMember g x c) s
      if x.cores.all (fun c => !s1.toHalt x c) then
        let x2 : Gang := { x with st := .halted, step := 0 }
        let s2 : State := { s1 with gangs := AMap.put s1.gangs g x2 }
        .next (if x.step = 2 && s2.issued x = x.stepSum then s2.stepGang g x2 2 else s2.tryRestart g)
      else .next s1
    else .next s
  | none => .next s

/-! ### The restart of a gang (R68, R297) -/

/-- How long before the halt instant a core was frozen (R297). -/
def Gang.lead (x : Gang) (k : Core) : Nat := x.haltT - k.seq.frozenAt

/-- A halted core wakes at the restart, later by what others were frozen before it (R297). -/
def State.restartMember (s : State) (x : Gang) (most c : Nat) : State :=
  let k := s.core c
  if k.seq.st ≠ .halt && k.seq.st ≠ .suspend then s
  else
    let r := s.first c (x.restartT + (most - x.lead k))
    s.wakeMember x c r

/-- The cores of an aborted launch stop as at S, whatever they were doing; a handler stopped in this way never completes, saved
contexts are dropped, and no gang of it restarts (R300). -/
def State.stopLaunch (s : State) (l : Nat) : State :=
  let cs := (s.cores.filter (fun p => p.2.seq.launch = some l)).map (·.1)
  let s1 := cs.foldl (fun s c =>
    let s2 := if (s.core c).halts then s.stopCore c .halt else s
    s2.modCore c (fun k => { k with seq := { k.seq with
      armed := false, st := if k.seq.st = .haltedDf then .haltedDf else .halt } })) s
  let dead : Gang → Gang := fun x => { x with
    st := .halted, step := 0, trapped := [], retts := [], ended := [], saved := [], wantBy := none }
  let s2 : State := { s1 with gangs := s1.gangs.map (fun p => if p.2.launch = l then (p.1, dead p.2) else p) }
  s2.postEv s2.now 13 (.launchRetire l)

end Sys2Proof.Machine
end

