-- ==== Sys2Proof/Machine/Sequence.lean ====
section
/-! DEFINITION. The sequencer of a core (R58, R69, R70, R142 to R148, R171, R172, R176, R244, R307): reaching a group,
issuing its slots, completing it, ending a task, and what the core idles for. -/

namespace Sys2Proof.Machine

open Sys2Proof

/-! ### The end of a task (R55, R172) -/

/-- A timed task whose start tick has passed when the task before it ends will raise LATE_START (R55). -/
def State.noteLate (s : State) (c : Nat) : State :=
  match (s.core c).prog.tasks with
  | t :: _ => s.modCore c (fun k => { k with seq := { k.seq with
      late := if t.timed && t.start < s.now then some (BitVec.ofNat 64 (t.start / tick), false) else k.seq.late } })
  | [] => s

/-- The next task of a core scheduled after a task ended in cycle r: at its start tick, or, when that has passed, in the next
cycle (R55). A launch with no task left begins to retire. -/
def State.nextTask (s : State) (c r : Nat) : State :=
  match (s.core c).prog.tasks with
  | t :: _ => if t.start < s.now then s.postEv (s.inst c (r + 1)) 9 (.taskStart c) else s.postTask c (r + 1)
  | [] => s.retireTry c

/-- Whether a core has trapped in a timed task and its gang has not restarted since. -/
def State.trappedIn (s : State) (c : Nat) : Bool :=
  match s.gangOf c with
  | some (_, x) => x.trapped.contains c
  | none => false

/-- A task ends at the end of END's group; END by a handler ends the faulting task (R172), whose frozen writes count again, in a timed
task from the gang's restart on: until then the core stays frozen (R297). -/
def State.taskEnd (s : State) (c : Nat) (pc : W64) : State :=
  let r := s.cyc c
  let k := s.core c
  let waits := k.priv && s.trappedIn c
  let s1 := s.traceCore c 0x04 pc
  let s2 := s1.modCore c (fun k =>
    let k1 := if k.priv && !waits then k.thaw (r + 1) else k
    { k1 with
      tr := { k1.tr with status := setB (setB k1.tr.status 4 false) 5 false }
      x := { k1.x with on := false, cmds := [], saved := false, savedCmds := [] }
      prog := { k1.prog with cur := none }
      seq := { k1.seq with
        st := if waits then .halt else .idle, armed := false, reenter := none, target := none
        idle := if k.priv then 0 else k1.seq.idle
        counting := if k.priv then !waits else k1.seq.counting
        ref := if k.priv && !waits then r + 1 else k1.seq.ref } })
  let s3 := s2.noteLate c
  if waits then
    match s3.gangOf c with
    | some (g, x) =>
      let x2 : Gang := { x with ended := c :: x.ended }
      ({ s3 with gangs := AMap.put s3.gangs g x2 } : State).tryRestart g
    | none => s3
  else (if k.priv then (s3.rearm c).postFrame c else s3).nextTask c r

/-! ### The return from a handler (R68, R176) -/

/-- RETT at the end of its group: an untimed task resumes at its first cycle at or after the tick; a core of a timed task
waits for its gang. -/
def State.return (s : State) (c : Nat) (x pc : W64) : State :=
  let r := s.cyc c
  let k := s.core c
  let timed := match k.prog.cur with
    | some t => t.timed
    | none => false
  match s.gangOf c, timed with
  | some (g, y), true =>
    let s1 := s.modCore c (fun k => { k with seq := { k.seq with st := .halt, armed := false, pc := pc } })
    let y2 : Gang := { y with retts := (c, x.toNat) :: y.retts, lastRett := c, lastRettT := s.inst c (r + 1) }
    ({ s1 with gangs := AMap.put s1.gangs g y2 } : State).tryRestart g
  | _, _ => s.returnFrom c (Nat.max (r + 1) (s.first c (x.toNat * tick)))

/-! ### Completing a group (R145, R171, R307) -/

/-- Where fetch continues after a group, with the loop back-edge of R171, which no transfer of control has displaced. -/
def Core.follow (k : Core) (g : Issue) : W64 × Core :=
  match g.target with
  | some t => (t, k)
  | none =>
    if g.next = k.sc.le && k.sc.lc ≠ 0 then
      if (1#64).ult k.sc.lc then
        (k.sc.ls, { k with sc := { k.sc with lc := k.sc.lc - 1 }, tr := { k.tr with ngp := k.sc.ls } })
      else (k.sc.le, { k with sc := { k.sc with lc := 0 }, tr := { k.tr with ngp := k.sc.le } })
    else (g.next, k)

/-- The sequencer idles before cycle r for a reason of its own. -/
def State.idleFor (s : State) (c r : Nat) (kind : IdleKind) : State :=
  (s.modCore c (fun k =>
    let k1 := k.idleBegin (s.cyc c + 1)
    { k1 with seq := { k1.seq with kind := kind, st := if k1.seq.st = .run then .wait else k1.seq.st } })).setReach c r

/-- The step trap of R307: EPC is the group reached next. -/
def State.stepTrap (s : State) (c : Nat) : State := s.takeTrap c ⟨cBkpt, 0x4000, 15, false, none⟩ (s.core c).seq.pc

/-- Where the sequencer goes after a group that neither ends its task nor returns from a handler. A stepped core takes its step trap
now, or, where TWAIT or a window makes it idle first, when that idle is over (R307, log 36). -/
def State.goOn (s : State) (c : Nat) (g : Issue) : State :=
  let r := s.cyc c
  let p := (s.core c).follow g
  let stepped := (s.core c).stepBit && !(s.core c).priv
  let s1 := s.setCore c { p.2 with seq := { p.2.seq with pc := p.1, stepDue := stepped } }
  let k := s1.core c
  if g.uiret then
    -- the core goes on in the window, whose next group is reached at its end whatever its GAP (R69, R174)
    let s2 := s1.modCore c (fun k => k.withStatus (fun x => setB x 7 false))
    match k.ui.win with
    | some w => (s2.idleFor c (Nat.max (w + 1) (r + 1)) .uiwin).postEv (s2.inst c (r + 1)) 12 (.userInterrupt c)
    | none => if stepped then s2.stepTrap c else s2.idleFor c (r + 1) .uiwin
  else if stepped && g.uiwin.isNone && g.twait.isNone then s1.stepTrap c
  else match g.uiwin, g.twait with
    | some n, _ =>
      (s1.modCore c (fun k => { k with ui := { k.ui with ret := p.1 } })).idleFor c (r + n + 1) .uiwin
    | none, some q => s1.idleFor c q .twait
    | none, none =>
      (s1.modCore c (fun k => { k with seq := { k.seq with kind := .none } })).setReach c (r + 1)

/-- The group that issued completes: RETT returns, END ends the task, else fetch goes on (R145). -/
def State.finishGroup (s : State) : State :=
  let g := s.issue
  let s1 := s.dropIssue
  match g.back with
  | some (x, pc) => s1.return g.core x pc
  | none => if g.ends then s1.taskEnd g.core g.s0pc else s1.goOn g.core g

/-! ### Reaching and issuing a group -/

/-- GAP of the group at an address; one that cannot be fetched is met at once (R142). -/
def State.headGap (s : State) (c : Nat) (pc : W64) : Nat :=
  if pc.toNat % 2 = 1 then 0
  else match s.textBytes c (s.core c).timed (s.core c).priv pc.toNat 2 with
    | .ok hb => hdrGap (ofLe hb)
    | .error _ => 0

/-- The group being reached, before its slots are known: what a fault taken now reports of it. -/
def State.reaching (s : State) (c : Nat) : State :=
  let k := s.core c
  let re := k.seq.reenter.isSome
  { s with issue := { Issue.none with
      active := true, core := c, base := k.seq.pc, next := k.seq.pc, s0pc := k.seq.pc
      target := if re then k.seq.target else none
      ends := re && k.seq.dir = 1, uiret := re && k.seq.dir = 2
      uiwin := if re && k.seq.dir = 3 then (match k.ui.win with | some w => some (w - s.cyc c) | none => some 0) else none
      twait := if re && k.seq.dir = 4 then
          (k.seq.twBack.map (fun p => Nat.max (s.cyc c + 1) (s.first c (p.1.toNat * tick)))) else none } }

/-- A fault of the group that is reached, as a whole (R144). -/
def State.groupFault (s : State) (c code : Nat) (faddr : W64) (slotres : Nat) (straddle : Bool) : State :=
  (s.reaching c).takeTrap c ⟨code, faddr, slotres, straddle, none⟩ (s.core c).seq.pc

/-- The held faults that a group reached in cycle r0 and issued in cycle r raises: a race of cycle c where it issues in c or has been
reached since (R277), a LATE_START where it is reached at or after its instant (R287), a macro tile's fault at once (R224). At
supervisor privilege a race waits, and the others are double faults (R299). -/
def Core.heldNow (k : Core) (r0 r : Nat) : List (Nat × W64 × Nat) :=
  k.seq.held.filter (fun b =>
    if b.1 = cMmRace then !k.priv && (b.2.2 ≤ r0 || b.2.2 = r) else if b.1 = cLateStart then b.2.2 ≤ r0 else true)

/-- The fault held for the next group: of the earliest cycle, and of races of one cycle the one with the lowest source
(R277); the races held are raised together. -/
def heldPick (l : List (Nat × W64 × Nat)) : Option ((Nat × W64) × List (Nat × W64 × Nat)) :=
  match l with
  | [] => none
  | a :: r =>
    if a.1 ≠ cMmRace then some ((a.1, a.2.1), r)
    else
      let same := l.filter (fun b => b.1 = cMmRace && b.2.2 = a.2.2)
      let low := same.foldl (fun m b => if getF b.2.1 0 12 < getF m.2.1 0 12 then b else m) a
      some ((low.1, low.2.1), l.filter (fun b => b.1 ≠ cMmRace))

/-- Whether the group begins with RETT, which waits until the handler's writes have landed (R161, R176). -/
def startsRett (slots : List SlotWord) : Bool :=
  match slots with
  | w :: _ => w.kind = 0 && fld w.word 24 8 = 0x60
  | [] => false

/-- Whether old values of the handler's own AMO and SC operations have still to land: pending writes of the handler (R161, R239, R241). -/
def Core.oldsOut (k : Core) : Bool := (k.eng.amos ++ k.eng.scs).any (fun x => x.priv && !x.landed && !x.isStore)

/-- The latest cycle in which a pending write lands. -/
def Core.lastLand (k : Core) : Nat := k.fl.regs.foldl (fun m p => Nat.max m p.due) 0

/-- The slots of a group begin to issue in this cycle. -/
def State.issueGroup (s : State) (c : Nat) (slots : List SlotWord) (next : W64) : State :=
  let k := s.core c
  let from_ := k.seq.reenter.getD 0
  let s1 := s.reaching c
  let s2 : State := { s1 with issue := { s1.issue with
    next := next, slots := slots.filter (fun w => from_ ≤ w.kind) } }
  let s3 := s2.modCore c (fun k => { k with
    fl := { k.fl with seq := if slots.isEmpty then k.fl.seq else k.fl.seq + 1, groups := k.fl.groups + 1 }
    tr := { k.tr with ngp := (if k.seq.reenter.isSome then k.seq.target else none).getD next }
    seq := { k.seq with
      st := if k.seq.st = .wait then .run else k.seq.st
      armed := false, kind := .none, reenter := none, target := none, dir := 0 } })
  match s1.issue.twait, k.seq.twBack with
  | some q, some p =>
    (s3.modCore c (fun k => { k with seq := { k.seq with
      twLeave := some (p.1, p.2.1), twPc := p.2.2, twBase := k.seq.pc } })).postEv (s3.inst c q) 1 (.twaitLeave c)
  | _, _ => s3

/-- A group whose GAP has passed: fetched whole, checked, held for its stamp, issued (R148). A LATE_START that is left for it is raised
before it is fetched, and a fetch may wait at a page's home (R96); faults held for it (MM_RACE, those of a macro tile, an entry's RW_OVERLAP) after step 3, the stamp's (DESIGN CHOICE,
log 21: R148 lists neither). -/
def State.reached (s : State) (c : Nat) : State :=
  let k := s.core c
  let r := s.cyc c
  match k.seq.late with
  | some x =>
    (s.modCore c (fun k => { k with seq := { k.seq with late := none } })).groupFault c cLateStart x.1
      (k.seq.reenter.getD (if x.2 then getF k.tr.status 0 4 else 0)) false
  | none =>
    let f := s.fetch c k.seq.pc
    let held := s.fetchHeld c k.seq.pc
    let s := s.fetched c k.seq.pc
    match held, f with
    | some h, _ => h.modCore c (fun k => { k with seq := { k.seq with
        kind := if k.seq.kind = .none || k.seq.kind = .twait then .gap else k.seq.kind } })
    | none, .fault a b => s.groupFault c cFetchFault a 0 b
    | none, .illegal a => s.groupFault c cIllegalBundle a 0 false
    | none, .group slots next stamp =>
      let st := stamp.getD 0xFFFFF
      let stampFaddr := BitVec.ofNat 64 (st + (k.cifAt r).toNat * 2 ^ 20)
      if k.ui.overrun && k.inui && !k.priv then
        (s.modCore c (fun k => { k with ui := { k.ui with overrun := false } })).groupFault c cStampOverrun stampFaddr 0 false
      else
        let d := (st + 2 ^ 20 - (k.cifAt r).toNat % 2 ^ 20) % 2 ^ 20
        let stamped := stamp.isSome && k.timed && !k.inui && k.seq.kind ≠ .stamp
        if stamped && 2 ^ 19 ≤ d then s.groupFault c cStampOverrun stampFaddr 0 false
        else if stamped && d ≠ 0 then
          (s.modCore c (fun k =>
            let k1 := k.idleBegin r
            { k1 with seq := { k1.seq with kind := .stamp, reachedAt := r, st := if k1.seq.st = .run then .wait else k1.seq.st } })).setReach
              c (r + d)
        else if k.priv && startsRett slots && (!k.fl.regs.isEmpty || k.oldsOut) then
          (s.modCore c (fun k => { k with seq := { k.seq with kind := .gap } })).setReach c (Nat.max (r + 1) k.lastLand)
        else match heldPick (k.heldNow (if k.seq.kind = .stamp && k.seq.reenter.isNone then k.seq.reachedAt else r) r) with
          | some (f, rest) =>
            let left := k.seq.held.filter (fun b => !(k.heldNow (if k.seq.kind = .stamp && k.seq.reenter.isNone then k.seq.reachedAt else r) r).contains b)
            (s.modCore c (fun k => { k with seq := { k.seq with held := left ++ rest } })).groupFault c f.1 f.2 0 false
          | none => s.issueGroup c slots next

/-- GROUP_REACH: the sequencer comes to its next group, idles for its GAP, and reaches it (R58, R142, R148). -/
def execGroupReach (c : Nat) (s : State) : Out :=
  let k := s.core c
  let r := s.cyc c
  let runs := (k.seq.st = .run || k.seq.st = .wait || k.seq.st = .trap) && (k.seq.counting || k.priv)
  if !k.seq.armed || r < k.seq.reach || !runs then .next s
  else
    let s1 := s.modCore c (fun k => k.idleEnd r)
    if k.seq.stepDue && !k.priv then .next (s1.stepTrap c)
    else if k.seq.kind = .none || k.seq.kind = .twait then
      let gap := s.headGap c k.seq.pc
      if gap ≠ 0 && k.seq.late.isNone then
        .next ((s1.modCore c (fun k =>
          let k1 := k.idleBegin r
          { k1 with seq := { k1.seq with kind := .gap } })).setReach c (r + gap))
      else .next (s1.reached c)
    else .next (s1.reached c)

/-- The next slot of the group that issues taken up: it counts as issued, and as work of engine 0 in this cycle where it is an S or A slot
(R72). A divide counts in its issue cycle alone, not while it holds its divider (DESIGN CHOICE, log 31: R72 does not say whether that is
a command that executes). -/
def State.popSlot (s : State) (w : SlotWord) (rest : List SlotWord) : State :=
  let s1 : State := { s with issue := { s.issue with
    slots := rest, cur := w, s0pc := if w.kind = 0 then w.bundle else s.issue.s0pc } }
  s1.modCore s1.ic (fun k =>
    let k1 : Core := { k with fl := { k.fl with seq := k.fl.seq + 1 } }
    if w.kind < 3 then k1.busy 0 (s1.cyc s1.ic) 1 else k1)

/-- A slot kind by number (R141). -/
def kindOf (n : Nat) : Kind :=
  match n with
  | 0 => .s0 | 1 => .s1 | 2 => .a | 3 => .v0 | 4 => .v1 | 5 => .m | 6 => .e | _ => .x

/-- A slot that holds no instruction raises its cause with its image (R148 steps 4 and 5, R158). -/
def State.badSlot (s : State) (e : DecErr) : State :=
  s.takeTrap s.ic ⟨if e = .illegalOp then cIllegalOp else cIllegalField, s.image, s.issue.cur.kind, false, none⟩ s.issue.base

/-! ### What lands and what ends an idle -/

/-- PENDING_WRITE_LAND: the writes of the cycle land (R160). -/
def execPendingWriteLand (c : Nat) (s : State) : Out := .next (s.modCore c (fun k => k.landAll (s.cyc c)))

/-- TWAIT_LEAVE: G advances, and with Z the frame restarts (R244, R278). The record of it stands at the first cycle of a frame where one
begins now, with Z or as the frame before it ends (R32, R337). -/
def execTwaitLeave (c : Nat) (s : State) : Out :=
  let k := s.core c
  let r := s.cyc c
  match k.seq.twLeave with
  | some (_, z) =>
    if k.seq.kind = .twait && k.seq.reach = r && k.seq.armed && (k.seq.st = .wait || k.seq.st = .run || k.seq.st = .trap) then
      let late := BitVec.ofNat 64 k.seq.twLate
      let s1 := s.recordCore c (if z || s.frameOver k r then s.recOf { k with seq := { k.seq with fn := k.seq.fn + 1 } } c 0 0x06 late
        else s.coreRec c 0x06 late)
      let s2 := s1.modCore c (fun k =>
        let k1 : Core := { k with ct := { k.ct with g := k.ct.g + 1 }, seq := { k.seq with twLeave := none } }
        if z then { k1 with seq := { k1.seq with cif := 0, atEnd := false, ref := r, fn := k1.seq.fn + 1 } } else k1)
      .next (if z then s2.postFrame c else s2)
    else .next s
  | none => .next s

/-- The pending completion that a window takes: the earliest, the lower channel on a tie (R70). -/
def uiPick (l : List (Nat × Nat)) : Option (Nat × Nat) :=
  l.foldl (fun b p =>
    match b with
    | some q => if p.1 < q.1 || (p.1 = q.1 && p.2 < q.2) then some p else some q
    | none => some p) none

/-- USER_INTERRUPT: in an open window the core takes a pending completion and branches to UIVEC (R70). -/
def execUserInterrupt (c : Nat) (s : State) : Out :=
  let k := s.core c
  let r := s.cyc c
  match k.ui.win, uiPick k.ui.pend with
  | some w, some p =>
    if k.inui || k.priv || w < r || s.now ≤ k.ui.opened || !(k.seq.st = .run || k.seq.st = .wait) || k.seq.kind ≠ .uiwin
    then .next s
    else
      let v : W64 := BitVec.ofNat 64 (p.2 % 16 + (k.ct.cc.toArray.getD p.2 0).toNat * 16)
      let s1 := s.modCore c (fun k =>
        let k1 := (k.idleEnd r).withStatus (fun x => setB x 7 true)
        { k1 with
          sc := { k1.sc with sh := k1.sc.sh.setIfInBounds 7 v }
          ui := { k1.ui with pend := k1.ui.pend.erase p }
          seq := { k1.seq with pc := k1.sc.uivec, kind := .none, st := .run } })
      .next (s1.setReach c (r + 1))
  | _, _ => .next s

/-- UIWIN_CLOSE: completions of the window that were not taken are logged, and a handler still running will fault (R69,
R70). -/
def execUiwinClose (c : Nat) (s : State) : Out :=
  let k := s.core c
  match k.ui.win with
  | some w =>
    if s.cyc c ≤ w then .next s
    else
      let late := k.ui.pend.filter (fun p => k.ui.opened < p.1)
      let s1 := late.foldl (fun s _ => s.logDcr c 0x0D k.ui.pc.toNat 1) s
      .next (s1.modCore c (fun k => { k with ui := { k.ui with win := none, overrun := k.inui } }))
  | none => .next s

/-! ### Phases (R64) -/

/-- A phase takes effect: the Tilth row and the cube's timing mode follow it. -/
def State.loadPhase (s : State) (c d : Nat) : State :=
  match AMap.get? (s.core c).prog.descs d with
  | some p =>
    (s.modCore c (fun k => k.withPhase d p (s.cyc c))).kickFollow c
  | none => s

/-- The batch windows of a publisher close in the last cycle of a frame (R252). -/
def State.frameLast (s : State) (c : Nat) : State :=
  let k := s.core c
  let l := s.frameLen k
  if k.seq.counting && l ≠ 0 && (k.cifAt (s.cyc c)).toNat + 1 = l then s.closeAll c else s

/-! ### The step's own parts -/

/-- Time goes on to what is due next. -/
def State.arrive (s : State) (t : Nat) (rest : List Due) : State :=
  { s with now := if s.now < t then t else s.now, agenda := rest }

/-- Time goes on by one reference edge, 10 ticks (R27). -/
def State.edge (s : State) : State := { s with now := s.now + 10 * tick }

/-- A slot placed as the one slot of the group that issues on core 0, in a timed task (log 10). -/
def State.loadSlot (s : State) (w : SlotWord) (len : Nat) : State :=
  let k := s.core 0
  let k2 : Core := { k with
    tr := { k.tr with status := setB k.tr.status 5 true }
    prog := { k.prog with cur := some ⟨0, 0, true, 0, false⟩ }
    seq := { k.seq with st := .run, counting := true } }
  let s1 := s.setCore 0 k2
  { s1 with issue := { Issue.none with active := true, core := 0, next := BitVec.ofNat 64 len, slots := [w] } }

end Sys2Proof.Machine
end

