-- ==== Sys2Proof/Machine/Engines.lean ====
section
/-! DEFINITION. What the engines of a core share: command numbers, fences (R242, R284), the rendezvous check (R287), requests arriving at their target with the access table, the migration of pages and the race detector
(R93, R96, R97, R99, R279, R280). -/

namespace Sys2Proof.Machine

open Sys2Proof

/-! ### Commands and fences -/

/-- The fences in flight, for which a new engine access waits. -/
def Core.waits (k : Core) : List Nat := k.eng.fences.map (·.id)

/-- The number of the next command. -/
def State.nextId (s : State) (c : Nat) : Nat := (s.core c).eng.nextId

/-- A command number used. -/
def State.useId (s : State) (c : Nat) : State := s.modEng c (fun e => { e with nextId := e.nextId + 1 })

/-- Engine work held by nothing any more is started. -/
def State.kick (s : State) (c : Nat) : State := s.postMi s.now 10 (.kick c)

/-- Commands and sends in flight. -/
def Core.inFlight (k : Core) : List Nat :=
  k.eng.chans.toList.flatten.map (·.id) ++ k.eng.amos.map (·.id) ++ k.eng.scs.map (·.id)
    ++ k.eng.colls.toList.flatten.map (·.id) ++ (k.eng.misc.filter (fun m => !m.hw)).map (·.id) ++ k.eng.slips.map (·.id)

/-- The fences and the commands for which a COLL waits that are still there (R242, R289). -/
def Core.heldIds (k : Core) (w : List Nat) : List Nat :=
  w.filter (fun i => k.eng.fences.any (fun f => f.id = i) || k.inFlight.contains i)

/-- Whether an AMO or SC operation has met a fence's scope: under C once its engine has it, under D once it has left the die
or is performed, under P and F once it is performed (R284). -/
def AmoCmd.met (x : AmoCmd) (q : Scope) : Bool :=
  match q with
  | .c => x.issued
  | .d => x.performed || (x.issued && x.offDie)
  | _ => x.performed

/-- Whether a copy writes its local view with what comes from device memory or the input engine: its last accesses are those of the
tile store. -/
def CopyCmd.brings (x : CopyCmd) : Bool :=
  match x.op with
  | .inn | .huff _ | .input _ => true
  | _ => false

/-- The same for a command in flight by number; one that is gone is performed, and acknowledged where it has sent something to another
device. Under C a copy into the tile store has met its fence when its bank ports have taken all that it writes; under D, as its request to
a target off the die stands, when the die-edge interface has that (R284, R285). -/
def Core.metBy (k : Core) (q : Scope) (id : Nat) : Bool :=
  let near := q = .c || q = .d
  (k.eng.chans.toList.flatten.all (fun x =>
    x.id ≠ id || x.perf || (q = .c && x.acc && !x.brings) || (q = .d && x.acc && x.offDie)))
    && (q ≠ .f || !k.eng.acks.contains id)
    && (k.eng.amos ++ k.eng.scs).all (fun x => x.id ≠ id || x.met q)
    && k.eng.colls.toList.flatten.all (fun x => x.id ≠ id || (near && (k.heldIds x.waits).isEmpty))
    && k.eng.misc.all (fun x => x.id ≠ id || (near && x.at_.isSome))
    && k.eng.slips.all (fun x => x.id ≠ id || (near && x.sent))

/-- Every fence in flight, and every COLL that waits for earlier accesses, looked at again, now. -/
def State.fenceKick (s : State) (c : Nat) : State :=
  let e := (s.core c).eng
  let s1 := e.fences.foldl (fun s f => s.postEv s.now 6 (.fenceComplete c f.id)) s
  if e.colls.toList.flatten.any (fun x => !x.sent) then s1.kick c else s1

/-- An access of a core is performed now: its fences are looked at again. -/
def State.performed (s : State) (c : Nat) : State := (s.modEng c (fun e => { e with lastPerf := s.now })).fenceKick c

/-- A fence released: commands that waited for it wait no longer. -/
def Engines.release (e : Engines) (id : Nat) : Engines :=
  let drop := fun (l : List Nat) => l.filter (fun i => i ≠ id)
  { e with
    fences := e.fences.filter (fun f => f.id ≠ id)
    chans := e.chans.map (fun l => l.map (fun x => { x with waits := drop x.waits }))
    amos := e.amos.map (fun x => { x with waits := drop x.waits })
    scs := e.scs.map (fun x => { x with waits := drop x.waits })
    colls := e.colls.map (fun l => l.map (fun x => { x with waits := drop x.waits }))
    misc := e.misc.map (fun x => { x with waits := drop x.waits })
    slips := e.slips.map (fun x => { x with waits := drop x.waits }) }

/-- The rendezvous judged when both its fence has completed and its TWAIT has issued (R287): late when the last access was
performed after the tick. -/
def State.judge (s : State) (c : Nat) (p : Nat) (x pc : W64) : State :=
  if x.toNat * tick < p then
    let s1 := s.logDcr c 0x06 pc.toNat (lateness p x)
    if s.latefault c then s1.modCore c (fun k => { k with seq := { k.seq with
      held := k.seq.held ++ [(cLateStart, BitVec.ofNat 64 (p / tick), s.first c p)] } })
    else s1
  else s

/-- FENCE_COMPLETE: every covered access has met its scope's condition (R284). -/
def execFenceComplete (c : Nat) (id : Nat) (s : State) : Out :=
  let k := s.core c
  match k.eng.fences.find? (fun f => f.id = id) with
  | some f =>
    if f.covers.all (fun i => k.metBy f.scope i) then
      let s1 := s.modEng c (fun e => e.release id)
      let s2 := match k.eng.rendez.find? (fun r => r.fence = id) with
        | some r =>
          match r.tick with
          | some x =>
            (s1.modEng c (fun e => { e with rendez := e.rendez.filter (fun q => q.fence ≠ id) })).judge c k.eng.lastPerf x r.pc
          | none => s1.modEng c (fun e => { e with
              rendez := mapIf (fun q => q.fence = id) (fun q => { q with done := some k.eng.lastPerf }) e.rendez })
        | none => s1
      .next (s2.kick c)
    else .next s
  | none => .next s

/-- FENCE: later engine accesses wait until the earlier ones are performed (R242). -/
def execFence (_st : BitVec 20) (q : Scope) (s : State) : Out :=
  let c := s.ic
  let id := s.nextId c
  let k := s.ik
  let s1 := (s.useId c).modEng c (fun e => { e with
    fences := e.fences ++ [⟨id, q, k.inFlight ++ k.eng.acks, s.issue.cur.bundle⟩]
    rendez := if q = .p || q = .f then e.rendez.filter (fun r => r.tick.isSome) ++ [⟨id, none, none, s.issue.cur.bundle⟩]
      else e.rendez })
  .next (s1.postEv s.now 10 (.fenceComplete c id))

/-! ### The race detector (R279, R280) -/

/-- Records that a detector holds. -/
def raceMax : Nat := 1048576

/-- Whether an access is a race with a record of its generation. -/
def RaceRec.races (r : RaceRec) (c : Nat) (x : XKind) : Bool :=
  let other := fun (l : List Nat) (many : Bool) => many || l.any (fun d => d ≠ c)
  let w := match r.writer with
    | some d => d ≠ c
    | none => false
  match x with
  | .write => w || other r.readers r.manyR || other r.atomics r.manyA
  | _ => w

/-- A core added to a set of four with its MANY bit. -/
def addMany (l : List Nat) (many : Bool) (c : Nat) : List Nat × Bool :=
  if l.contains c then (l, many) else if l.length < 4 then (l ++ [c], many) else (l, true)

/-- A record with an access entered. -/
def RaceRec.enter (r : RaceRec) (c : Nat) (x : XKind) : RaceRec :=
  match x with
  | .write => { r with writer := some c }
  | .atomic => let p := addMany r.atomics r.manyA c; { r with atomics := p.1, manyA := p.2 }
  | _ => let p := addMany r.readers r.manyR c; { r with readers := p.1, manyR := p.2 }

/-- An empty record of a generation. -/
def RaceRec.new (g : Nat) : RaceRec := ⟨g, none, [], false, [], false⟩

/-- A detector saturated at a generation, logged once for it. -/
def State.saturate (s : State) (d c g : Nat) (pc : W64) : State :=
  (s.modDie d (fun x => { x with satG := some g })).logDcr c 0x0B pc.toNat 1

/-- The race check of an access to a CHK page at home die d: the state after, and whether the access is refused. -/
def State.raceCheck (s : State) (d c line g : Nat) (x : XKind) (pc : W64) : State × Bool :=
  let y := s.die d
  let off : Bool := match y.satG with
    | some q => g ≤ q
    | none => false
  if off then (s, false)
  else match AMap.get? y.race line with
    | some r =>
      if g < r.g then (s, false)
      else
        let r1 := if r.g < g then RaceRec.new g else r
        if r1.races c x then (s, true)
        else (s.modDie d (fun y => { y with race := AMap.put y.race line (r1.enter c x) }), false)
    | none =>
      if y.race.length < raceMax then
        (s.modDie d (fun y => { y with race := AMap.put y.race line ((RaceRec.new g).enter c x) }), false)
      else match y.race.find? (fun p => p.2.g < g) with
        | some p =>
          (s.modDie d (fun y => { y with race := AMap.put (AMap.del y.race p.1) line ((RaceRec.new g).enter c x) }), false)
        | none => (s.saturate d c g pc, false)

/-! ### Requests at their target -/

/-- A write at a canonical DPA marks its line, where its page has not been moved yet (R96). -/
def State.dirtied (s : State) (a : Nat) : State :=
  match s.migrOf a true with
  | some (d, i, m) => if m.st < 2 then s.modMigr d i (fun m => { m with dirty := (flatDpa a / 64) :: m.dirty }) else s
  | none => s

/-- How a request ends at its target: done at a DPA, denied, refused as a race, or held. -/
inductive Verdict where
  | done (dpa : Nat) | denied | race | held
  deriving DecidableEq, Repr

/-- The access table and then the race check of a CHK page (R93, R97, R279). -/
def State.atTarget (s : State) (c va target a b : Nat) (t : Trans) (x : XKind) (g : Nat) (pc : W64) : State × Verdict :=
  if !s.grants target (s.masterOf c) x t.key then (s.logDenial target (s.masterOf c) va x, .denied)
  else if t.chk && target < 9 then
    let p := s.raceCheck target c (a / 64) g x pc
    (p.1, if p.2 then .race else .done b)
  else (s, .done b)

/-- A request of a core that reaches its target. A page that is being moved executes it at the old home while it is copied,
holds it while it is locked, and forwards it after that (R96). One that is held comes again as `retry`. -/
def State.request (s : State) (c va : Nat) (t : Trans) (x : XKind) (g : Nat) (pc : W64) (retry : Instr) : State × Verdict :=
  let p := (s.dpa t.dpa).getD (0, t.dpa)
  let target := p.1
  let a := p.2
  match s.migrOf a true, s.migrOf a false with
  | some (d, i, m), _ =>
    if m.st = 1 then (s.modMigr d i (fun m => { m with held := m.held ++ [retry] }), .held)
    else
      let s1 := s.countReq c target a
      if m.st = 2 then
        let q := s.forwardTo m a
        (s1.logDcr c 0x0C pc.toNat 1).atTarget c va q.1 q.2 q.2 t x g pc
      else (if x = .read then s1 else s1.dirtied a).atTarget c va target a a t x g pc
  | none, some (d, i, m) =>
    if m.st = 2 then (s.modMigr d i (fun m => { m with direct := m.direct ++ [retry] }), .held)
    else (s.countReq c target a).atTarget c va target a a t x g pc
  | none, none => (s.countReq c target a).atTarget c va target a a t x g pc

/-- The earliest instant at which a request of a core can reach a target: the packet latency to another die (R350). -/
def State.soonest (s : State) (c target : Nat) : Nat :=
  s.now + (if target < 9 then (if target = coreDie c then 0 else s.dieLat (coreDie c) target)
    else s.ioLat (coreDie c) ((target - 9) % 4)) * tbCycle

/-- The target of a translated access. -/
def State.targetOf (s : State) (t : Trans) : Nat :=
  match s.dpa t.dpa with
  | some p => p.1
  | none => 0

end Sys2Proof.Machine
end

