-- ==== Sys2Proof/Machine/Home.lean ====
section
/-! DEFINITION. What requests find at their home: what racing reads return (R281), accesses of agents that are no core (R97), and pages that
move (R95, R96). -/

namespace Sys2Proof.Machine

open Sys2Proof

/-! ### Racing reads (R281, R289) -/

/-- The line of a DPA, as its canonical number. -/
def State.lineOf (s : State) (a : Nat) : Nat := ((s.dpa a).map (·.2)).getD a / 64

/-- A word of a line of memory. -/
def State.memWord (s : State) (a : Nat) : W32 := BitVec.ofNat 32 (ofLe (s.memBytes (a / 4 * 4) 4))

/-- The history of a line as a launch's engines go on with it. -/
def State.histOf (s : State) (l line : Nat) : LineHist :=
  match AMap.get? s.hist line with
  | some h => if h.launch = l then h else ⟨l, [], []⟩
  | none => ⟨l, [], []⟩

/-- A write of n bytes of a line at a DPA by an engine for a core of a launch: what it replaces stays on record. -/
def State.noteWrite (s : State) (l c g a n : Nat) (plain : Bool) : State :=
  let h := s.histOf l (s.lineOf a)
  let ws := (List.range (cdiv (a % 4 + n) 4)).map (fun i => a / 4 * 4 + 4 * i)
  let h2 : LineHist := { h with
    writers := if plain && !h.writers.contains (g, c) then (g, c) :: h.writers else h.writers
    olds := h.olds ++ ws.map (fun w => ⟨w % 64 / 4, s.now, s.memWord w⟩) }
  { s with hist := AMap.put s.hist (s.lineOf a) h2 }

/-- Bytes written by an engine for a core under a page's key. -/
def State.homeWrite (s : State) (l c g key a : Nat) (bs : List Byte) (plain : Bool) : State :=
  ((s.underKey key a bs.length).noteWrite l c g a bs.length plain).memWrite a bs

/-- Whether a plain read of a core with generation g races with a write that has been performed (R279). -/
def State.racing (s : State) (l c g a : Nat) : Bool :=
  (s.histOf l (s.lineOf a)).writers.any (fun w => w.1 = g && w.2 ≠ c)

/-- n bytes of a line at a DPA, each aligned word of them what it holds or, freely, one of the values that `olds` gives for it. -/
def State.openBytes (s : State) (a n : Nat) (olds : Nat → List W32) : List Byte :=
  (List.range n).map (fun j =>
    let b := a + j
    let vs := s.memWord b :: olds (b % 64 / 4)
    BitVec.ofNat 8 (getF (vs.getD (Config.freeNat (s.freeCtr + b % 64 / 4) % vs.length) 0) (8 * (b % 4)) 8))

/-- As many free values drawn as a line has words. -/
def State.drawnLine (s : State) : State := { s with freeCtr := s.freeCtr + 16 }

/-- The values that writes of a launch have replaced in a word of a line since an instant. -/
def LineHist.oldOf (h : LineHist) (since w : Nat) : List W32 := (h.olds.filter (fun o => o.word = w && since ≤ o.at_)).map (·.val)

/-- A plain read of a line by a core's engine: what the line holds, and where it races, for each aligned word that or the value of an
earlier write (R281). -/
def State.homeRead (s : State) (l c g key a n : Nat) : State × List Byte :=
  let s1 := s.underKey key a n
  if s.racing l c g a then (s.drawnLine, s1.openBytes a n ((s.histOf l (s.lineOf a)).oldOf 0)) else (s, s1.memBytes a n)

/-! ### Agents that are no core (R97) -/

/-- The target of an access by DPA, and whether its table lets the agent make it: without the key of a page it is the kind alone that counts
(log 40). -/
def State.agentOk (s : State) (master a : Nat) (key : Option Nat) (x : XKind) : Bool :=
  match s.dpa (s.moved a) with
  | some p => match key with
    | some k => s.grants p.1 master x k
    | none => s.grantsKind p.1 master x
  | none => false

/-- The access denied, in the target's log. -/
def State.agentDenied (s : State) (master a : Nat) (x : XKind) : State :=
  match s.dpa (s.moved a) with
  | some p => s.logDenial p.1 master a x
  | none => s

/-- The accesses of an agent on no compute die counted at the home, line by line (R96). -/
def State.agentCount (s : State) (a n : Nat) : State :=
  (List.range (cdiv (a % 64 + n) 64)).foldl (fun s i =>
    match s.dpa (s.moved (a / 64 * 64 + 64 * i)) with
    | some p => if p.1 < 9 then s.modDie p.1 (fun y => { y with counts := countBlock y.counts p.2 9 }) else s
    | none => s) s

/-- Bytes as an agent finds them, under a key where it has one. -/
def State.agentBytes (s : State) (a n : Nat) (key : Option Nat) : List Byte :=
  let s1 := match key with
    | some k => (List.range (cdiv (a % 64 + n) 64)).foldl (fun (x : State) i => x.underKey k (s.moved (a / 64 * 64 + 64 * i)) 64) s
    | none => s
  (List.range n).map (fun j => s1.memByte (s.moved (a + j)))

/-- The lines of n bytes marked that the page in which they lie has still to copy (R96). -/
def State.dirtiedFrom (s : State) (a n : Nat) : State :=
  (List.range (cdiv (a % 64 + n) 64)).foldl (fun s i =>
    match s.dpa (a / 64 * 64 + 64 * i) with
    | some q => s.dirtied q.2
    | none => s) s

/-- Bytes written by an agent, line by line. -/
def State.agentBytesTo (s : State) (a : Nat) (key : Option Nat) (bs : List Byte) : State :=
  (List.range (cdiv (a % 64 + bs.length) 64)).foldl (fun s i =>
    let lo := Nat.max a (a / 64 * 64 + 64 * i)
    let part := (bs.drop (lo - a)).take (a / 64 * 64 + 64 * (i + 1) - lo)
    match key with
    | some k => s.memPut k (s.moved lo) part
    | none => s.memWrite (s.moved lo) part) (s.dirtiedFrom a bs.length)

/-- A read of an agent, or its denial. -/
def State.agentGet (s : State) (master a n : Nat) (key : Option Nat) : State × Option (List Byte) :=
  if s.agentOk master a key .read then (s.agentCount a n, some (s.agentBytes a n key)) else (s.agentDenied master a .read, none)

/-- A write of an agent, or its denial. -/
def State.agentPut (s : State) (master a : Nat) (key : Option Nat) (bs : List Byte) : State × Bool :=
  if s.agentOk master a key .write then ((s.agentBytesTo a key bs).agentCount a bs.length, true) else (s.agentDenied master a .write, false)

/-! ### Shootdowns, and the move of a page (R95, R96) -/

/-- A shootdown broadcast to the live dies of a context's partition. -/
def State.shootdown (s : State) (ctx lo hi : Nat) (migr : Option (Nat × Nat)) : State :=
  let ds := ((s.ctxs.toArray.getD ctx .init).dies).filter s.liveDie
  let id := s.nextKey
  let s1 : State := { s with nextKey := id + 1, shoots := s.shoots ++ [⟨id, ctx, lo, hi, ds, [], [], migr⟩] }
  ds.foldl (fun s d => if h : d < 9 then s.postFree (s.now + tbCycle) 5 (.shootdownAck ⟨d, h⟩ id) else s) s1

/-- The lines copied from a page to its new place, under the page's key. -/
def State.moveLines (s : State) (key old new : Nat) (p : Nat → Bool) : State :=
  let ls := once ((s.mem.map (fun c => flatDpa c.1 / 64)).filter p)
  ls.foldl (fun s l => s.memPut key (new + (64 * l - old)) (s.memRead key (64 * l) 64)) s

/-- The lines of a page that hold nothing but what an unlisted address reads as, written so at the new place. -/
def State.clearLines (s : State) (old new : Nat) (ls : List Nat) : State :=
  ls.foldl (fun s l => s.memWrite (new + (l * 64 - old)) (List.replicate 64 Mem.unlisted)) s

/-- A page entry that names the new home (R88, R91). -/
def movedPte (e : W64) (new : Nat) (j : Nat) : W64 :=
  if new < 0x80000000000 then
    setF (setF (setF (setF e 7 2 0) 9 2 1) 11 4 (new / 0x4000000000)) 24 40 (new % 0x4000000000 / 4096 + j)
  else setF (setF e 7 2 1) 24 40 ((new - 0x80000000000) / 4096 + j)

/-- The entry of a page, or each of the 16 of a 64 KiB page, rewritten to the new home by the engine of die d (R97). -/
def State.rewritePte (s : State) (d : Nat) (m : Migr) : State :=
  (List.range (if m.size = 16 then 16 else 1)).foldl (fun s j =>
    let at_ := m.pteAt + 8 * j
    (s.agentPut (0x111 + d) at_ none (leBytes 8 (movedPte ((s.pteAt at_).getD 0) m.new j).toNat)).1) s

/-- Requests that a home has held, sent on in their order; a group whose fetch has waited is reached in the cycle that begins next. -/
def State.sendHeld (s : State) (l : List Instr) : State :=
  l.foldl (fun s i =>
    match i with
    | .groupReach c => s.postEv (s.inst c (s.first c s.now)) 9 i
    | _ => s.postEv s.now 4 i) s

/-- A locked page forwarded: the dirty lines are copied, the page entry is rewritten, the shootdown is issued, and the requests that it has
held are sent on. -/
def State.forwardPage (s : State) (d i : Nat) (m : Migr) : State :=
  let s1 := (s.clearLines m.old m.new m.dirty).moveLines m.key m.old m.new (fun l => m.dirty.contains l)
  let s2 := (s1.rewritePte d m).modMigr d i (fun m => { m with st := 2, dirty := [], held := [] })
  (s2.sendHeld m.held).shootdown m.ctx m.va (m.va + 2 ^ m.size) (some (d, m.old))

end Sys2Proof.Machine
end

