-- ==== Sys2Proof/Machine/Copy.lean ====
section
/-! DEFINITION. Copies as they are issued (R227 to R238): the descriptor, the checks in the order of R227, ring
reservations. -/

namespace Sys2Proof.Machine

open Sys2Proof

/-! ### Descriptors (R230) -/

/-- The n-byte number at an offset of a descriptor. -/
def descNum (bs : List Byte) (o n : Nat) : Nat := ofLe ((bs.drop o).take n)

/-- The fields of a copy descriptor. -/
def copyDesc (bs : List Byte) : CDesc where
  va := BitVec.ofNat 64 (descNum bs 0 8)
  loff := descNum bs 8 4
  foff := descNum bs 12 4
  n0 := descNum bs 16 4
  n1 := descNum bs 20 2
  n2 := descNum bs 22 2
  ls1 := sxt 32 (descNum bs 24 4)
  ls2 := sxt 32 (descNum bs 28 4)
  fs1 := sxt 32 (descNum bs 32 4)
  fs2 := sxt 32 (descNum bs 36 4)
  lv := descNum bs 40 1
  fv := descNum bs 41 1
  fcore := descNum bs 42 2
  ring := bit (descNum bs 44 1) 4
  ringn := fld (descNum bs 44 1) 0 4

/-- Reserved bits and bytes that are not zero. -/
def copyReserved (bs : List Byte) : Bool := fld (descNum bs 44 1) 5 3 ≠ 0 || descNum bs 45 15 ≠ 0

/-- Whether the destination of a copy is the local view. -/
def CopyOp.inward : CopyOp → Bool
  | .inn | .huff _ | .input _ | .loc => true
  | _ => false

/-- Whether a copy goes to another core. -/
def CopyOp.remote : CopyOp → Bool
  | .x | .red _ _ => true
  | _ => false

/-- Whether a copy uses VA, the far offset and the strides of the far side. -/
def CopyOp.usesVa : CopyOp → Bool
  | .inn | .out | .huff _ => true
  | _ => false
def CopyOp.usesFoff : CopyOp → Bool
  | .x | .red _ _ | .loc => true
  | _ => false
def CopyOp.linear : CopyOp → Bool
  | .huff _ | .input _ => true
  | _ => false

/-- The tag of an op of CPYA and its element size (R234). -/
def cpyaTag : CpyaOp → Tag
  | .addF32 | .minF32 | .maxF32 => .fp32
  | .addBf16 => .bf16
  | _ => .int32

/-- Fields that a form does not use are zero, and those it uses are within their limits (R230, R231, R234, R334). -/
def copyBad (op : CopyOp) (d : CDesc) : Bool :=
  let unused :=
    (!op.usesVa && d.va ≠ 0) || (!op.usesFoff && d.foff ≠ 0)
      || (op.linear && (d.n1 ≠ 1 || d.n2 ≠ 1 || d.ls1 ≠ 0 || d.ls2 ≠ 0 || d.fs1 ≠ 0 || d.fs2 ≠ 0))
      || ((!op.remote && op ≠ .loc) && d.fv ≠ 0) || (!op.remote && d.fcore ≠ 0) || (!d.ring && d.ringn ≠ 0)
  let limits := d.n0 = 0 || 2 ^ 24 < d.n0 || d.n1 = 0 || d.n2 = 0 || 4096 ≤ d.fcore || (d.ring && !op.inward)
  let own := match op with
    | .red q _ =>
      let w : Nat := (cpyaTag q).bytes
      d.loff % w ≠ 0 || d.foff % w ≠ 0 || d.n0 % w ≠ 0 || d.ls1 % (w : Int) ≠ 0 || d.ls2 % (w : Int) ≠ 0
        || d.fs1 % (w : Int) ≠ 0 || d.fs2 % (w : Int) ≠ 0
    | .input _ => d.n0 < 64
    | _ => false
  unused || limits || own

/-- A core of the issuer's launch, other than the issuer, live or preempted (R231, R233). -/
def State.peer (s : State) (c d : Nat) : Bool :=
  d ≠ c && s.liveCore d && (match (s.core c).seq.launch with
    | some l => (s.core d).seq.launch = some l || (s.savedIn l d).isSome
    | none => false)

/-! ### Offsets (R231, R235) -/

/-- The run of byte k in transfer order: i2, i1 and i0. -/
def CDesc.idx (d : CDesc) (k : Nat) : Nat × Nat × Nat := (k / d.n0 / d.n1, k / d.n0 % d.n1, k % d.n0)

/-- Bytes that a copy moves. -/
def CDesc.total (d : CDesc) : Nat := d.n0 * d.n1 * d.n2

/-- The local offset of byte k; it is an integer, since strides are signed. -/
def CDesc.loc (d : CDesc) (k : Nat) : Int :=
  let i := d.idx k
  (d.loff : Int) + i.1 * d.ls2 + i.2.1 * d.ls1 + i.2.2

/-- The far offset of byte k. -/
def CDesc.far (d : CDesc) (from_ : Int) (k : Nat) : Int :=
  let i := d.idx k
  from_ + i.1 * d.fs2 + i.2.1 * d.fs1 + i.2.2

/-- The VA of byte k, modulo 2^64. -/
def CDesc.vaOf (d : CDesc) (k : Nat) : Nat := (d.far d.va.toNat k % (2 ^ 64 : Int)).toNat

/-- The least and the greatest offset of a strided extent. -/
def extent (n0 n1 n2 : Nat) (off s1 s2 : Int) : Int × Int :=
  let a : Int := (n1 - 1 : Nat) * s1
  let b : Int := (n2 - 1 : Nat) * s2
  (off + min a 0 + min b 0, off + max a 0 + max b 0 + (n0 - 1 : Nat))

/-- Whether a strided extent lies in an image of n bytes (R82). -/
def inImage (n0 n1 n2 : Nat) (off s1 s2 : Int) (size : Nat) : Bool :=
  let e := extent n0 n1 n2 off s1 s2
  0 ≤ e.1 && e.2 < size

/-- Bytes of codes of a ring slot, and of its scale area (R235). -/
def slotCodes (r : Ring) (e : TEntry) : Nat := r.rows * r.cols * entHalf e / 2
def slotScales (r : Ring) (e : TEntry) : Nat := if entScaled e then r.rows * cdiv r.cols 32 else 0

/-- The offset in the image of byte k of slot i of a ring. -/
def slotByte (r : Ring) (e : TEntry) (i k : Nat) : Nat :=
  if k < slotCodes r e then i * slotCodes r e + k
  else entScale0 e + i * slotScales r e + (k - slotCodes r e)

/-! ### Checks and issue -/

/-- The bank lines of a descriptor, read in bank cycle r (R227). -/
def descUse (e : TEntry) (r : Nat) : List BankUse := [⟨r, entBank e 0, entLine e 0⟩]

/-- The first n codes of a UINT8 handle. -/
def Core.codes (k : Core) (e : TEntry) (n : Nat) : List Nat := (List.range n).map (fun i => (k.imgByte e i).toNat)

/-- The code table of CPYD (R237): lengths by symbol, or none where it is not legal. -/
def tableOk (bs : List Byte) : Bool :=
  let t := bs.map (·.toNat)
  let bits := t.getD 0 0
  let n := t.getD 1 0 + 1
  let ls := (t.drop 4).take n
  (bits = 4 || bits = 8) && t.getD 2 0 = 0 && t.getD 3 0 = 0 && !(bits = 4 && 16 < n) && ls.all (fun l => l ≤ 16)
    && ls.any (fun l => l ≠ 0) && ls.foldl (fun m l => if l = 0 then m else m + 2 ^ (16 - l)) 0 ≤ 2 ^ 16

/-- Symbols of a table handle, as its element 1 gives them. -/
def Core.tableLen (k : Core) (e : TEntry) : Nat := 4 + (k.imgByte e 1).toNat + 1

/-- A slot of a ring taken by a copy (R235). -/
def Core.reserve (k : Core) (n id : Nat) : Core :=
  let r := k.ring n
  { k with cube := { k.cube with rings := k.cube.rings.setIfInBounds n { r with resv := r.resv ++ [⟨id, false⟩] } } }

/-- What an issuing copy names besides its descriptor: its code-table view. -/
structure CopyIssue where
  ch : Nat
  notify : Bool
  hd : Nat
  op : CopyOp
  fol : Option Nat
  table : Option Nat
  deriving DecidableEq, Repr

/-- What a copy reads at its issue: its descriptor in bank cycle r (R227) and the code table of a CPYD (R237), whose lines take the same bank
cycle, or, where a bank holds several of what is read, the cycles after it in ascending order (DESIGN CHOICE, log 29). -/
def Core.copyUse (k : Core) (x : CopyIssue) (r : Nat) : List BankUse :=
  let d := descUse (k.vEnt x.hd) r
  let te := k.vEnt (x.table.getD 0)
  let lines := if x.table.isSome then (footprint te r 16 (linesOf 0 (2 * k.tableLen te))).getD [] else []
  d ++ lines.map (fun u => if d.any (fun v => v.bank = u.bank && v.line ≠ u.line) then { u with cyc := u.cyc + 1 } else u)

/-- The checks of R227 for a copy, in their order. -/
def State.chkCopy (s : State) (x : CopyIssue) : Check :=
  let k := s.ik
  let de := k.vEnt x.hd
  let bs := k.descBytes de
  let d := copyDesc bs
  let le := k.vEnt d.lv
  let ring := k.ring d.ringn
  let eng := 3 + x.ch
  let full := (k.eng.chans.toArray.getD x.ch []).length
  let follows := (k.eng.chans.toList.flatten.filter (fun y => y.fol.isSome)).length + k.cube.queue.length
  let te := k.vEnt (x.table.getD 0)
  let tbl := x.table.isSome
  firstFail
    ([chkBusy (8 ≤ full || (x.fol.isSome && 16 ≤ follows)), k.chkView x.hd]
      ++ (if isDesc de then [k.chkView d.lv] else [])
      ++ (if isDesc de && x.op = .loc then [k.chkView d.fv] else [])
      ++ (match x.table with | some h => [k.chkView h] | none => [])
      ++ [chkTag (entTag de = .raw32) (entTag de), chkRange (16 ≤ entCount de) x.hd]
      ++ (match x.table with
        | some h => [chkTag (entTag te = .uint8) (entTag te), chkRange (4 ≤ entCount te && k.tableLen te ≤ entCount te) h]
        | none => [])
      ++ [s.chkField (copyReserved bs || copyBad x.op d), s.chkField (x.op.remote && !s.peer s.ic d.fcore),
        k.chkRw eng x.hd true, k.chkRw eng d.lv x.op.inward]
      ++ (if x.op = .loc then [k.chkRw eng d.fv false] else [])
      ++ (match x.table with | some h => [k.chkRw eng h false] | none => [])
      ++ [chkRange (d.ring || inImage d.n0 d.n1 d.n2 d.loff d.ls1 d.ls2 (entSize le)) d.lv]
      ++ (if x.op = .loc then
          [chkRange (inImage d.n0 d.n1 d.n2 d.foff d.fs1 d.fs2 (entSize (k.vEnt d.fv))) d.fv] else [])
      ++ [failIf (d.ring && ring.bound && ring.depth < ring.fill + ring.resv.length + 1) cRingFull (BitVec.ofNat 64 d.ringn),
        s.chkField (d.ring && (!ring.bound || ring.index ≠ k.vIdx d.lv || d.loff ≠ 0 || d.ls1 ≠ 0 || d.ls2 ≠ 0
          || d.total ≠ slotCodes ring le + slotScales ring le)),
        s.chkField (tbl && !tableOk (k.imgBytes te 0 (k.tableLen te))),
        s.chkField (match x.fol with | some f => k.cube.fol.toArray.getD f 0 = 0 | none => false),
        chkBusy (k.bankBusy (k.copyUse x (s.cyc s.ic + 1)))])

/-- A copy queued on its channel; it starts once its descriptor has been read (R227, R350). A CPYA waits for the SUBSYNCs in flight as
for a fence (R275). -/
def State.issueCopy (s : State) (x : CopyIssue) (bits : List Byte) : State :=
  let c := s.ic
  let k := s.ik
  let r := s.cyc c
  let de := k.vEnt x.hd
  let d := copyDesc (k.descBytes de)
  let ring := k.ring d.ringn
  let id := s.nextId c
  let op := match x.op, x.table with
    | .huff _, some h => .huff (k.imgBytes (k.vEnt h) 0 (k.tableLen (k.vEnt h)))
    | q, _ => q
  let cmd : CopyCmd := {
    id := id, op := op, fol := x.fol, notify := x.notify, pc := s.issue.cur.bundle, priv := k.priv, g := k.ct.g
    view := x.hd, desc := d, dindex := k.vIdx x.hd, lindex := k.vIdx d.lv, findex := k.vIdx d.fv
    slot := if d.ring && ring.depth ≠ 0 then (ring.head.toNat + ring.resv.length) % ring.depth else 0
    waits := k.waits ++ (match x.op with | .red _ _ => k.sub.syncs.map (·.id) | _ => []), started := false, startC := r, pos := 0, lset := [], code := 0, faddr := 0, buf := [], bits := bits
    rq := none, acc := false, offDie := false, perf := false, table := x.table.map (fun h => (h, k.vIdx h)), rent := none, flags := 0 }
  let s1 := (s.claim c (k.copyUse x (r + 1))).useId c
  let s2 := s1.modEng c (fun e => { e with
    chans := e.chans.setIfInBounds x.ch (e.chans.toArray.getD x.ch [] ++ [cmd]) })
  let s3 := if d.ring then s2.modCore c (fun k => k.reserve d.ringn id) else s2
  s3.postEv (s3.inst c (r + 2)) 10 (.copyCommandStart c x.ch)

/-- A copy form. -/
def State.copyForm (s : State) (x : CopyIssue) (bits : List Byte) : Out := s.checked (s.chkCopy x) (s.issueCopy x bits)

/-! ### Units of the input engine (R333) -/

/-- A number as n little-endian bytes. -/
def le (n v : Nat) : List Byte := leBytes n v

/-- The header of a unit: index, width, height, channels, tag code, valid rows, status, source, source size, crop origin,
flip, delta, tick. -/
def unitHeader (idx w h ch tagc rows st src sw sh x0 y0 flip : Nat) (delta : Int) (t : Nat) : List Byte :=
  le 4 idx ++ le 2 w ++ le 2 h ++ le 1 ch ++ le 1 tagc ++ le 2 rows ++ le 1 st ++ le 1 src ++ le 2 0
    ++ le 2 sw ++ le 2 sh ++ le 2 x0 ++ le 2 y0 ++ le 1 flip ++ le 1 0 ++ le 2 (delta % 65536).toNat ++ le 4 0
    ++ le 8 t ++ le 24 0

/-- The tag code and element size of a sample format (R326, R327, R333). -/
def sfmtTag (f : Nat) : Nat := match f with | 0 => 8 | 3 => 1 | _ => 7
def sfmtBytes (f : Nat) : Nat := if f = 0 then 2 else 4

/-- The frame of a port that a region reads, by its order (R35). -/
def Port.reading (p : Port) (o : Option Nat) : Option PortFrame :=
  match p.slots with
  | (.inUse f, .inUse g) => if o = some f.order then some f else if o = some g.order then some g else none
  | (.inUse f, _) => if o = some f.order then some f else none
  | (_, .inUse g) => if o = some g.order then some g else none
  | _ => none

/-- The mode of a port; with no channels modes 1 and 2 act as mode 0 (R326). -/
def Port.mode (p : Port) : Nat :=
  let m := getF p.spcfg 0 2
  if (m = 1 || m = 2) && getF p.spcfg 24 8 = 0 then 0 else m

/-- A port by number. -/
def State.port (s : State) (p : Nat) : Port := s.ports.toArray.getD p .init

/-- The unit that a CPYI of core c takes from a stream port at its issue (R328): empty where there is none. -/
def State.streamUnit (s : State) (c p : Nat) : List Byte :=
  let k := s.core c
  let q := s.port p
  match k.seq.region with
  | some r => match AMap.get? s.regions r with
    | some g =>
      if g.desc.src = p + 1 && (q.mode = 1 || q.mode = 2) then
        match q.reading g.reads with
        | some f => unitHeader (getF g.fn 0 32) (getF q.spcfg 24 8) f.q 1 (sfmtTag (getF q.spcfg 22 2)) f.q 0 3
            (getF q.spcfg 24 8) f.q 0 0 0 0 f.tick ++ f.bytes
        | none => []
      else []
    | none => []
  | none => []

/-! ### The forms (R231) -/

def execCpy (_st : BitVec 20) (ch : Fin 4) (n : Bool) (hd : Fin 256) (dir : Dir) (s : State) : Out :=
  s.copyForm ⟨ch.val, n, hd.val, if dir = .inn then .inn else .out, none, none⟩ []
def execCpym (_st : BitVec 20) (ch : Fin 4) (n : Bool) (hd : Fin 256) (dir : Dir) (f : Fin 8) (s : State) : Out :=
  s.copyForm ⟨ch.val, n, hd.val, if dir = .inn then .inn else .out, some f.val, none⟩ []
def execCpyx (_st : BitVec 20) (ch : Fin 4) (n : Bool) (hd : Fin 256) (s : State) : Out :=
  s.copyForm ⟨ch.val, n, hd.val, .x, none, none⟩ []
def execCpya (_st : BitVec 20) (ch : Fin 4) (n : Bool) (hd : Fin 256) (op : CpyaOp) (e : Fin 64) (s : State) : Out :=
  s.copyForm ⟨ch.val, n, hd.val, .red op e.val, none, none⟩ []
def execCpyd (_st : BitVec 20) (ch : Fin 4) (n : Bool) (hd : Fin 256) (hc : Fin 256) (s : State) : Out :=
  s.copyForm ⟨ch.val, n, hd.val, .huff [], none, some hc.val⟩ []
/-- On a stream port the frame is the one that the region reads at issue (R328). -/
def execCpyi (_st : BitVec 20) (ch : Fin 4) (n : Bool) (hd : Fin 256) (p : Fin 16) (s : State) : Out :=
  s.copyForm ⟨ch.val, n, hd.val, .input p.val, none, none⟩ (s.streamUnit s.ic p.val)
def execCpyc (_st : BitVec 20) (ch : Fin 4) (n : Bool) (hd : Fin 256) (s : State) : Out :=
  s.copyForm ⟨ch.val, n, hd.val, .loc, none, none⟩ []

end Sys2Proof.Machine
end

