-- ==== Sys2Proof/Machine/Banks.lean ====
section
/-! DEFINITION. The asynchronous requesters of a bank (R71, R85): copy channels (class 3), the subscription receiver and the link receiver
(class 4). A request takes part from the first cycle at or after it comes on; the effect of an access falls at the end of the cycle
in which its bank serves it, so that what is timed in that cycle is known. -/

namespace Sys2Proof.Machine

open Sys2Proof

/-- Whether a bank serves something in cycle r already: an access of class 1 or 2, a multicast landing, or an asynchronous access
(R85). -/
def Core.bankTaken (k : Core) (r bank : Nat) : Bool :=
  k.fl.claims.any (fun x => x.cyc = r && (k.claimUse x).any (fun u => u.1 = bank))
    || (k.cubeUses.foldl (fun l u => l ++ k.takes l u) []).contains (bank, r)

/-- The class of a request, and its requester within the class. -/
def BankReq.cls (q : BankReq) : Nat := if q.id.1 < 4 then 3 else 4
def BankReq.who (q : BankReq) : Nat := if q.id.1 < 4 then q.id.1 else if q.id.1 = 4 then 0 else 1

/-- Requesters of a class. -/
def clsSize (cls : Nat) : Nat := if cls = 3 then 4 else 2

/-- How far a request stands back in cycle r: one older than 32 cycles comes before every younger one; of equal standing are those of one
age, and those that are not so old: there class 3 comes before class 4, and each class goes round-robin (R71, R85). -/
def Core.reqRank (k : Core) (r : Nat) (q : BankReq) : Nat :=
  let n := clsSize q.cls
  let last := (AMap.get? k.fl.turns (q.bank * 8 + q.cls)).getD (n - 1)
  (if 32 < r - q.since then q.since else r) * 16 + (if q.cls = 3 then 0 else 8) + (q.who + n - 1 - last % n) % n

/-- The request that a bank serves in cycle r, of those that take part in it; of one requester the first. -/
def Core.bankWinner (k : Core) (r bank : Nat) : Option (Nat × Nat) :=
  let mine := k.fl.reqs.filter (fun q => q.bank = bank && q.ready = some r)
  (mine.foldl (fun (b : Option BankReq) q =>
    match b with
    | some p => if k.reqRank r q < k.reqRank r p then some q else some p
    | none => some q) none).map (·.id)

/-- The issue pipelines of a core changed. -/
def State.modFl (s : State) (c : Nat) (f : Flight → Flight) : State := s.modCore c (fun k => { k with fl := f k.fl })

/-- A request given up. -/
def State.unask (s : State) (c : Nat) (id : Nat × Nat) : State :=
  s.modFl c (fun x => { x with reqs := x.reqs.filter (fun q => q.id ≠ id) })

/-- A request that takes part in cycle r; one that has waited keeps its place. -/
def State.ask (s : State) (c : Nat) (id : Nat × Nat) (bank r : Nat) (got : Option (Nat × BitVec 8 × TEntry)) : State :=
  s.modFl c (fun x =>
    if x.reqs.any (fun q => q.id = id) then { x with
      reqs := mapIf (fun q => q.id = id) (fun q => { q with bank := bank, ready := some r, passed := false }) x.reqs }
    else { x with reqs := x.reqs ++ [⟨id, bank, r, some r, false, got⟩] })

/-- What a request was resolved to when it came. -/
def Core.gotOf (k : Core) (id : Nat × Nat) : Option (Nat × BitVec 8 × TEntry) := (k.fl.reqs.find? (fun q => q.id = id)).bind (·.got)

/-- Whether a request takes part in cycle r already. -/
def Core.asking (k : Core) (id : Nat × Nat) (r : Nat) : Bool := k.fl.reqs.any (fun q => q.id = id && q.ready = some r)

/-- Whether the phase sets of cycle r have let a request pass. -/
def Core.letBy (k : Core) (id : Nat × Nat) (r : Nat) : Bool := k.fl.reqs.any (fun q => q.id = id && q.ready = some r && q.passed)

/-- A request that the phase sets let pass in its cycle. -/
def State.letPass (s : State) (c : Nat) (id : Nat × Nat) : State :=
  s.modFl c (fun x => { x with reqs := mapIf (fun q => q.id = id) (fun q => { q with passed := true }) x.reqs })

/-- A core as remote writes of this cycle find its phase sets: a task that starts in it has its descriptor loaded (R64, R277). -/
def State.landCore (s : State) (c : Nat) : Core :=
  let k := s.core c
  match k.prog.tasks with
  | t :: _ =>
    if k.seq.st = .idle && k.seq.counting && k.prog.cur.isNone && t.start ≤ s.now
        && s.agenda.any (fun d => d.t ≤ s.now && d.act = .ev (.taskStart c)) then
      match AMap.get? k.prog.descs t.phase with
      | some p => if (k.overlap p (k.doneCarries (s.cyc c))).isNone then k.withPhase t.phase p (s.cyc c) else k
      | none => k
    else k
  | [] => k

/-- A remote write that the phase sets must permit: the receiving engine, the view that it names, and what a refusal does (R277). -/
structure LandCheck where
  eng : Nat
  view : Nat
  refused : State → Out

/-- Whether a bank serves a request in cycle r. -/
def Core.served (k : Core) (id : Nat × Nat) (bank r : Nat) : Bool := !k.bankTaken r bank && k.bankWinner r bank = some id

/-- A request served in cycle r: the bank is taken, and the turn passes on. -/
def State.serve (s : State) (c : Nat) (id : Nat × Nat) (bank line r : Nat) : State :=
  s.modFl c (fun x =>
    let q : BankReq := ⟨id, bank, r, none, false, none⟩
    { x with
      reqs := x.reqs.filter (fun p => p.id ≠ id)
      claims := x.claims.filter (fun y => y.cls < 3 || r ≤ y.cyc) ++ [⟨r, bank, line, 0, q.cls, none⟩]
      turns := AMap.put x.turns (bank * 8 + q.cls) q.who })

/-- An act that takes place at the beginning of a cycle, or comes again at the next one. -/
def State.onCycle (s : State) (c : Nat) (again : Instr) (f : State → Out) : Out :=
  if s.now = s.inst c (s.cyc c) then f s else .next (s.postEv (s.inst c (s.cyc c + 1)) 5 again)

/-- An access of line j of an image by an asynchronous requester: it asks at the beginning of a cycle, and is served at the rank named,
or waits for the next cycle; `wait` says what else waits with it. A remote write meets the phase sets of the cycle in which its bank would
serve it, before the group of that cycle issues, so that this group can raise the race (R277); a group that then takes the bank for the
cube defers a write that has passed. -/
def State.atBank (s : State) (c : Nat) (id : Nat × Nat) (rank : Nat) (e : TEntry) (j : Nat) (again : Instr)
    (wait : Option (State → State)) (got : Option (Nat × BitVec 8 × TEntry)) (check : Option LandCheck) (eff : State → Out) : Out :=
  s.onCycle c again (fun s =>
    let r := s.cyc c
    let k := s.core c
    let bank := entBank e j
    let serves := k.served id bank r
    if !k.asking id r then .next ((s.ask c id bank r got).postEv s.now (if check.isSome then 7 else rank) again)
    else match (if k.letBy id r then none else check) with
      | some x =>
        if serves && !(s.landCore c).permits x.eng x.view true then x.refused (s.serve c id bank (entLine e j) r)
        else .next ((s.letPass c id).postEv s.now rank again)
      | none =>
        if serves then eff (s.serve c id bank (entLine e j) r)
        else match wait with
          | some f => .next (f s)
          | none => .next (s.postEv (s.inst c (r + 1)) 5 again))

end Sys2Proof.Machine
end

