-- ==== Sys2Proof/Machine/CopyRun.lean ====
section
/-! DEFINITION. Copies as they run (R229 to R238): their lines, requests to device memory, beats at a receiver, the Huffman decoder,
and their completion. -/

namespace Sys2Proof.Machine

open Sys2Proof

/-! ### The command that a channel executes -/

/-- The command in progress on a channel. -/
def Core.running (k : Core) (ch : Nat) : Option CopyCmd :=
  match k.eng.chans.toArray.getD ch [] with
  | x :: _ => if x.started then some x else none
  | [] => none

/-- The command in progress changed. -/
def Engines.modHead (e : Engines) (ch : Nat) (f : CopyCmd → CopyCmd) : Engines :=
  match e.chans.toArray.getD ch [] with
  | x :: r => { e with chans := e.chans.setIfInBounds ch (f x :: r) }
  | [] => e

/-- The same in the state. -/
def State.modCopy (s : State) (c ch : Nat) (f : CopyCmd → CopyCmd) : State := s.modEng c (fun e => e.modHead ch f)

/-- All accesses of a command are performed; one that was performed before keeps its instant. -/
def State.copyPerf (s : State) (c ch : Nat) : State :=
  match (s.core c).running ch with
  | some x => if x.perf then s else (s.modCopy c ch (fun x => { x with perf := true })).performed c
  | none => s

/-- The command has nothing more to move. -/
def State.copyOver (s : State) (c ch : Nat) : State := (s.copyPerf c ch).postEv s.now 11 (.copyCompletion c ch)

/-- The command ends with a code and a FADDR. -/
def State.endCopy (s : State) (c ch code : Nat) (faddr : W64) : State :=
  (s.modCopy c ch (fun x => { x with code := code, faddr := faddr, rq := none })).copyOver c ch

/-- The next line of a command, no earlier than the next cycle (R229). -/
def State.nextLine (s : State) (c ch : Nat) : State := s.postEv (s.inst c (s.cyc c + 1)) 5 (.copyLine c ch)

/-- A line of the destination touched (R228). -/
def addLine (l : List Nat) (x : Nat) : List Nat := if l.contains x then l else x :: l

/-- The offset in the local image of byte k of a command. -/
def Core.localAt (k : Core) (x : CopyCmd) (i : Nat) : Nat :=
  if x.desc.ring then slotByte (k.ring x.desc.ringn) (k.ent x.lindex) x.slot i else (x.desc.loc i).toNat

/-- Bytes moved by the next line: to the end of the run, of the far line, of the line of the tile store (R229), and of the codes of a
ring slot. -/
def Core.piece (k : Core) (x : CopyCmd) : Nat :=
  let d := x.desc
  let i := x.pos
  let left := d.n0 - i % d.n0
  let far := match x.op with
    | .inn | .out => 64 - d.vaOf i % 64
    | .x | .red _ _ | .loc => 64 - (d.far d.foff i % 64).toNat
    | _ => 64
  let codes := slotCodes (k.ring d.ringn) (k.ent x.lindex)
  let n := Nat.min left (Nat.min far (64 - k.localAt x i % 64))
  if d.ring && i < codes then Nat.min n (codes - i) else n

/-- A byte that a copy reads of a handle's image: padding is not read, and the spec states no value for it (R84, log 37). -/
def Core.srcByte (k : Core) (e : TEntry) (b free j : Nat) : Byte :=
  if entPad e b then BitVec.ofNat 8 (free / 256 ^ j) else k.imgByte e b

/-- The source bytes of the next line in the tile store. -/
def Core.source (k : Core) (x : CopyCmd) (n free : Nat) : List Byte :=
  (List.range n).map (fun j => k.srcByte (k.ent x.lindex) (k.localAt x (x.pos + j)) free j)

/-- Bytes landed in the local view from byte pos of the transfer on; `pos` advances with them. -/
def State.landLocal (s : State) (c ch : Nat) (x : CopyCmd) (bs : List Byte) : State :=
  let k := s.core c
  let e := k.ent x.lindex
  let ms : List MByte := bs.zipIdx.map (fun p => ⟨k.localAt x (x.pos + p.2), p.1, 0xFF⟩)
  let s1 := s.commit c x.lindex e ms x.pc
  s1.modCopy c ch (fun x => { x with
    pos := x.pos + bs.length, buf := []
    lset := ms.foldl (fun l m => addLine l (m.off / 64)) x.lset })

/-! ### The Huffman decoder (R237) -/

/-- The canonical codes of a table: symbol, length, code. -/
def huffCodes (ls : List Nat) : List (Nat × Nat × Nat) :=
  ((List.range 16).foldl (fun (p : Nat × List (Nat × Nat × Nat)) l =>
    let q := ls.zipIdx.foldl (fun (p : Nat × List (Nat × Nat × Nat)) y =>
      if y.1 = l + 1 then (p.1 + 1, p.2 ++ [(y.2, l + 1, p.1)]) else p) p
    (q.1 * 2, q.2)) (0, [])).2

/-- Bit i of a stream, bit 7 of each byte first. -/
def streamBit (bs : List Byte) (i : Nat) : Nat := b2n ((bs.getD (i / 8) 0).getLsbD (7 - i % 8))

/-- A code word matched at bit i, with at most `left` bits there: the symbol and its length. -/
def huffMatch (cs : List (Nat × Nat × Nat)) (bs : List Byte) (i left : Nat) : Option (Nat × Nat) :=
  (cs.find? (fun c => c.2.1 ≤ left &&
    (List.range c.2.1).all (fun j => streamBit bs (i + j) = c.2.2 / 2 ^ (c.2.1 - 1 - j) % 2))).map (fun c => (c.1, c.2.1))

/-- How far a decode has come: symbols, whether more bytes are needed, or the bit at which no code matches. -/
inductive HuffEnd where
  | all | more | bad (at_ : Nat)
  deriving DecidableEq, Repr

/-- Symbols decoded from the payload bits that have come; `nb` is the payload length in bits, `have` what has come of it. -/
def huffRun (cs : List (Nat × Nat × Nat)) (bs : List Byte) (nb got : Nat) : Nat → Nat → List Nat → List Nat × HuffEnd
  | 0, _, out => (out, .all)
  | n + 1, i, out =>
    match huffMatch cs bs i (got - i) with
    | some (sy, l) => huffRun cs bs nb got n (i + l) (out ++ [sy])
    | none => if got < nb && got < i + 16 then (out, .more) else (out, .bad i)

/-- Output bytes of symbols: one each of 8 bits, or two of 4 bits to a byte, low nibble first. -/
def huffOut (bits : Nat) (last : Bool) : List Nat → List Byte
  | [] => []
  | [a] => if bits = 8 then [BitVec.ofNat 8 a] else if last then [BitVec.ofNat 8 a] else []
  | a :: b :: r =>
    if bits = 8 then BitVec.ofNat 8 a :: huffOut bits last (b :: r) else BitVec.ofNat 8 (a + 16 * b) :: huffOut bits last r

/-- A stream decoded as far as it has come: the output bytes, whether more bytes are needed, and the VA offset of a
failure. -/
def huffStep (table stream : List Byte) (n0 : Nat) : List Byte × HuffEnd :=
  let t := table.map (·.toNat)
  let bits := t.getD 0 8
  if stream.length < 8 then ([], .more)
  else
    let ns := descNum stream 0 4
    let nb := descNum stream 4 4
    if cdiv (ns * bits) 8 ≠ n0 then ([], .bad 0)
    else
      let body := (stream.drop 8).take nb
      let r := huffRun (huffCodes ((t.drop 4).take (t.getD 1 0 + 1))) body (8 * nb) (8 * body.length) ns 0 []
      match r.2 with
      | .all => (huffOut bits true r.1, .all)
      | .more => (huffOut bits false r.1, .more)
      | .bad i => (huffOut bits false r.1, .bad (8 + i / 8))

/-! ### Requests to device memory -/

/-- The VA and the length of the next request of a command: a line of the run, or the next line of a coded stream. -/
def Core.nextReq (k : Core) (x : CopyCmd) : Nat × Nat :=
  match x.op with
  | .huff _ =>
    let a := (x.desc.va.toNat + x.bits.length) % 2 ^ 64
    let total := if x.bits.length < 8 then 8 else 8 + descNum x.bits 4 4
    (a, Nat.max 1 (Nat.min (64 - a % 64) (total - x.bits.length)))
  | _ => (x.desc.vaOf x.pos, k.piece x)

/-- The kind of a copy's accesses to device memory. -/
def CopyOp.kind : CopyOp → XKind
  | .out => .write
  | _ => .read

/-- The next request of a command: translated by the caches, or by a walk, and sent to its target (R94, R350). -/
def State.sendReq (s : State) (c ch : Nat) (x : CopyCmd) : State :=
  let k := s.core c
  let q := k.nextReq x
  let line : W64 := BitVec.ofNat 64 (q.1 / 64 * 64)
  if fld q.1 57 7 ≠ 0 then s.endCopy c ch 1 line
  else match s.tlbLook c q.1 with
    | none => s.postFree s.now 5 (.translationWalk c (.copy ch))
    | some t =>
      match s.through (s.ctxOf c) q.1 t x.op.kind x.priv with
      | none => s.endCopy c ch 1 line
      | some tr =>
        let target := s.targetOf tr
        let last := match x.op with
          | .huff _ => 8 ≤ x.bits.length && x.bits.length + q.2 = 8 + descNum x.bits 4 4
          | _ => x.pos + q.2 = x.desc.total
        let s1 := s.modCopy c ch (fun x => { x with
          rq := some ⟨q.1, tr.dpa, tr.pte, tr.size⟩, acc := x.acc || last, offDie := target ≠ coreDie c })
        (s1.postFree (s1.soonest c target) 4 (.memoryAccessPerform c ch)).fenceKick c

/-- COPY_COMMAND_START: the next command of a channel starts when the one before it has completed and no fence holds it
(R229, R242); one that is not started at a preemption waits for the resume (R65). -/
def execCopyCommandStart (c : Nat) (ch : Nat) (s : State) : Out :=
  let k := s.core c
  match k.eng.chans.toArray.getD ch [] with
  | x :: _ =>
    if x.started || !x.waits.isEmpty || k.seq.st = .suspend then .next s
    else if k.held then .next (s.postEv (s.inst c (s.cyc c + 1)) 10 (.copyCommandStart c ch))
    else
      let s1 := s.modCopy c ch (fun x => { x with started := true, startC := s.cyc c })
      match x.op with
      | .input p =>
        -- the request to the input engine is accepted: its access lies off the die (R285)
        let s1 := (s1.modCopy c ch (fun x => { x with acc := true, offDie := true })).fenceKick c
        let q := s.port p
        if q.mode = 3 then
          match q.units with
          | u :: rest =>
            if x.desc.n0 < u.bytes.length then .next (s1.endCopy c ch 13 0)
            else
              let q2 : Port := { q with units := rest, taken := q.taken + 1 }
              let s2 := s1.modCopy c ch (fun x => { x with bits := u.bytes })
              .next (({ s2 with ports := s2.ports.setIfInBounds p q2 } : State).postFree s.now 5 (.copyLine c ch))
          | [] => .next (s1.endCopy c ch 8 0)
        else if x.bits.isEmpty then .next (s1.endCopy c ch 8 0)
        else if x.desc.n0 < x.bits.length then .next (s1.endCopy c ch 13 0)
        else .next (s1.postFree s.now 5 (.copyLine c ch))
      | _ => .next (s1.postFree s.now 5 (.copyLine c ch))
  | [] => .next s

/-- The next line of the tile store for a copy, once its bank serves it as class 3 (R229). -/
def State.copyBeat (s : State) (c ch index off : Nat) (eff : State → Out) : Out :=
  s.atBank c (ch, 0) 12 ((s.core c).ent index) (off / 64) (.copyLine c ch) none none none eff

/-- What has been decoded of a coded stream lands line by line; when all of it has, the command ends, fails, or asks for more (R237). -/
def State.huffLine (s : State) (c ch : Nat) (x : CopyCmd) (table : List Byte) : Out :=
  let r := huffStep table x.bits x.desc.n0
  let fresh := r.1.drop x.pos
  let k := s.core c
  if !fresh.isEmpty then
    s.copyBeat c ch x.lindex (k.localAt x x.pos) (fun s => .next ((s.landLocal c ch x (fresh.take (k.piece x))).nextLine c ch))
  else match r.2 with
    | .all => .next (s.copyOver c ch)
    | .bad i => .next (s.endCopy c ch 7 (x.desc.va + BitVec.ofNat 64 i))
    | .more => .next (s.sendReq c ch x)

/-- A local copy of one line, byte by byte in transfer order (R231). -/
def Core.moveBytes (k : Core) (x : CopyCmd) (free : Nat) : Nat → Nat → List MByte → Core × List MByte
  | 0, _, ms => (k, ms)
  | n + 1, i, ms =>
    let b := k.srcByte (k.ent x.findex) (x.desc.far x.desc.foff i).toNat free n
    let e := k.ent x.lindex
    let m : MByte := ⟨k.localAt x i, b, 0xFF⟩
    (if entPad e m.off then k else k.store e [m]).moveBytes x free n (i + 1) (ms ++ [m])

/-- COPY_LINE: the next line of the command in progress on a channel (R231). Each beat of the tile store waits for its bank (R229);
a local copy reads a line in one beat and writes it in another. Between a debugger's steps the channel issues nothing, while lines that
come from device memory land (R306). -/
def execCopyLine (c : Nat) (ch : Nat) (s : State) : Out :=
  let k := s.core c
  match k.running ch with
  | none => .next s
  | some x =>
    let n := k.piece x
    let here := k.localAt x x.pos
    let later := fun (s : State) => s.postEv (s.inst c (s.cyc c + 1)) 5 (.copyLine c ch)
    if k.held && (x.op ≠ .inn || x.buf.isEmpty) then .next (later s) else
    match x.op with
    | .huff table => s.huffLine c ch x table
    | .inn =>
      let after := fun (s : State) =>
        if k.held then later s else
        let y := ((s.core c).running ch).getD x
        if y.pos = y.desc.total then s.copyOver c ch else s.sendReq c ch y
      if x.buf.isEmpty then .next (after s)
      else s.copyBeat c ch x.lindex here (fun s => .next (after (s.landLocal c ch x x.buf)))
    | .out =>
      if x.pos = x.desc.total then .next (s.copyOver c ch)
      else s.copyBeat c ch x.lindex here (fun s =>
        .next ((s.drawn.modCopy c ch (fun x => { x with buf := k.source x n s.free })).sendReq c ch x))
    | .x | .red _ _ =>
      if x.pos = x.desc.total || x.code ≠ 0 then .next (s.copyOver c ch)
      else s.copyBeat c ch x.lindex here (fun s =>
        let off := x.desc.far x.desc.foff x.pos
        let q := match x.op with | .red q _ => some q | _ => none
        let beat : Beat := ⟨c, ch, x.id, x.desc.fv, if off < 0 then 2 ^ 40 else off.toNat,
          (k.source x n s.free).zipIdx.map (fun p => (p.2, p.1)), q⟩
        let s1 := s.drawn.modCopy c ch (fun x => { x with
          acc := x.acc || x.pos + n = x.desc.total, offDie := coreDie x.desc.fcore ≠ coreDie c })
        .next ((s1.postFree (s1.now + s1.latT c x.desc.fcore) 4 (.remoteBeatArrival x.desc.fcore beat)).fenceKick c))
    | .loc =>
      if x.pos = x.desc.total then .next (s.copyOver c ch)
      else if x.buf.isEmpty then
        s.copyBeat c ch x.findex (x.desc.far x.desc.foff x.pos).toNat (fun s =>
          .next ((s.modCopy c ch (fun x => { x with buf := List.replicate n 0 })).nextLine c ch))
      else s.copyBeat c ch x.lindex here (fun s =>
        let p := (s.core c).moveBytes x s.free n x.pos []
        let s1 := (s.drawn.setCore c p.1).commit c x.lindex (k.ent x.lindex) p.2 x.pc
        let s2 := s1.modCopy c ch (fun x => { x with
          pos := x.pos + n, buf := [], lset := p.2.foldl (fun l m => addLine l (m.off / 64)) x.lset
          acc := x.acc || x.pos + n = x.desc.total })
        .next ((s2.nextLine c ch).fenceKick c))
    | .input _ =>
      if x.pos = x.bits.length then .next (s.copyOver c ch)
      else s.copyBeat c ch x.lindex here (fun s =>
        .next ((s.landLocal c ch x ((x.bits.drop x.pos).take n)).nextLine c ch))

/-- MEMORY_ACCESS_PERFORM: a copy's request reaches its target, is checked and performed (R283). -/
def execMemoryAccessPerform (c : Nat) (ch : Nat) (s : State) : Out :=
  let k := s.core c
  match k.running ch with
  | none => .next s
  | some x =>
    match x.rq with
    | none => .next s
    | some q =>
      let t : Trans := ⟨q.dpa, pteKey q.pte, pteChk q.pte, pteMig q.pte, pteTier q.pte, 0, q.pte, q.size⟩
      let p := s.request c q.va t x.op.kind x.g x.pc (.memoryAccessPerform c ch)
      let line : W64 := BitVec.ofNat 64 (q.va / 64 * 64)
      match p.2 with
      | .held => .next p.1
      | .denied => .next (p.1.endCopy c ch 3 line)
      | .race => .next (p.1.endCopy c ch 2 line)
      | .done a =>
        match x.op with
        | .out =>
          let s1 := (p.1.homeWrite (s.launchNo c) c x.g t.key a x.buf true).modCopy c ch (fun x => { x with
            pos := x.pos + x.buf.length, buf := [], rq := none, lset := addLine x.lset (q.va / 64) })
          .next ((if x.pos + x.buf.length = x.desc.total then s1.copyPerf c ch else s1).nextLine c ch)
        | .huff _ =>
          let r := p.1.homeRead (s.launchNo c) c x.g t.key a (k.nextReq x).2
          let s1 := r.1.modCopy c ch (fun x => { x with bits := x.bits ++ r.2, rq := none })
          .next (s1.postFree (s1.inst c (s1.cyc c + 1)) 5 (.copyLine c ch))
        | _ =>
          let r := p.1.homeRead (s.launchNo c) c x.g t.key a (k.piece x)
          let s1 := r.1.modCopy c ch (fun x => { x with buf := r.2, rq := none })
          .next (s1.postFree (s1.inst c (s1.cyc c + 1)) 5 (.copyLine c ch))

/-! ### Beats at a receiver (R83, R233, R234, R277) -/

/-- One element combined (R234). -/
def cpyaElem (q : CpyaOp) (t x : Nat) : Nat × Flags :=
  match q with
  | .addF32 => fmt32.add .rne 0 t x
  | .addBf16 => fmtBf16.add .rne 0 t x
  | .addI32 => ((t + x) % 2 ^ 32, 0)
  | .minF32 => fmt32.minmax false t x
  | .maxF32 => fmt32.minmax true t x
  | .minI32 => (if sxt 32 x < sxt 32 t then x else t, 0)
  | .maxI32 => (if sxt 32 t < sxt 32 x then x else t, 0)

/-- A line combined with what the target holds: the bytes to write and the flags. -/
def Core.combine (k : Core) (e : TEntry) (off : Nat) (q : CpyaOp) (bs : List Byte) : List Byte × Flags :=
  let w := (cpyaTag q).bytes
  (List.range (bs.length / w)).foldl (fun (p : List Byte × Flags) i =>
    let r := cpyaElem q (k.imgNum e (off + i * w) w) (ofLe ((bs.drop (i * w)).take w))
    (p.1 ++ leBytes w r.1, p.2 ||| r.2)) ([], 0)

/-- The answer of a beat to its sender: the code, or the bytes landed. -/
def State.answer (s : State) (src ch code n line : Nat) (rent : Option (Nat × BitVec 8)) (f : Flags) (dst : Nat) : State :=
  let s1 := s.modCopy src ch (fun x => { x with
    code := code, rent := rent, flags := x.flags ||| f
    pos := if code = 0 then x.pos + n else x.pos
    lset := if code = 0 then addLine x.lset line else x.lset })
  s1.postFree (s1.now + s1.latT dst src) 5 (.copyLine src ch)

/-- REMOTE_BEAT_ARRIVAL: in the cycle in which it comes a beat's view, extent and tag are checked, and the entry found is its own from then
on (R83, R233, R234); the running state is looked at until it lands, and the phase sets are those of the cycle in which its bank serves it
as class 4, when the line lands or is combined (R277). -/
def execRemoteBeatArrival (c : Nat) (b : Beat) (s0 : State) : Out :=
  let id := (5, b.src * 4 + b.ch)
  match (s0.core b.src).running b.ch with
  | none => .next (s0.unask c id)
  | some x =>
    if x.id ≠ b.cmd then .next (s0.unask c id)
    else s0.onCycle c (.remoteBeatArrival c b) (fun s =>
      let k := s.core c
      let n := b.bytes.length
      let fail := fun (s : State) code => Host.Outcome.next ((s.unask c id).answer b.src b.ch code 0 0 x.rent 0 c)
      let now : Option (Nat × BitVec 8) := match x.rent with
        | some p => if entV (k.ent p.1) && entGen (k.ent p.1) = p.2.toNat then some p else none
        | none => if k.viewOk b.view then some (k.vIdx b.view, (k.view b.view).gen) else none
      let found : Option (Nat × BitVec 8 × TEntry) := match k.gotOf id with
        | some p => some p
        | none => now.map (fun p => (p.1, p.2, k.ent p.1))
      if !s.receives c || k.seq.launch ≠ (s.core b.src).seq.launch then fail s 5
      else match found with
        | none => fail s 4
        | some p =>
          let e := p.2.2
          if entSize e < b.off + n then fail s 12
          else if b.op.any (fun q => entTag e ≠ cpyaTag q) then fail s 11
          else s.atBank c id 12 e (b.off / 64) (.remoteBeatArrival c b) none (some p)
            (some ⟨8, b.view, fun s => fail (s.refuse c 8 b.view b.src) 6⟩) (fun s =>
              let src := b.bytes.map (·.2)
              let r := match b.op with
                | some q => (s.core c).combine e b.off q src
                | none => (src, 0)
              let s1 := (s.modCore c (fun k => k.busy 8 (s.cyc c) 1)).commit c p.1 e (wholeBytes b.off r.1) x.pc
              let last := x.pos + n = x.desc.total
              let s2 := match x.op with
                | .red _ q => if last then s1.postMi s1.now 12 (.semInc c q 1) else s1
                | _ => s1
              let s3 := if last then s2.copyPerf b.src b.ch else s2
              .next (s3.answer b.src b.ch 0 n (b.off / 64) (some (p.1, p.2.1)) r.2 c)))

/-! ### Completion (R228, R229, R235, R236) -/

/-- Ring slots added to head by copies that completed in order. -/
def Ring.settle (r : Ring) : List RingResv → Ring
  | [] => { r with resv := [] }
  | q :: rest => if q.done then ({ r with head := r.head + 1 } : Ring).settle rest else { r with resv := q :: rest }

/-- The end of a ring copy: with OK its slot is added to head in turn; else it and every later reservation is released. -/
def Ring.finish (r : Ring) (id : Nat) (ok : Bool) : Ring :=
  if !r.resv.any (fun q => q.cmd = id) then r
  else if ok then r.settle (mapIf (fun q => q.cmd = id) (fun q => { q with done := true }) r.resv)
  else { r with resv := r.resv.takeWhile (fun q => q.cmd ≠ id) }

/-- The status word of R228. -/
def statusWord (lines code : Nat) : Nat := (if lines < 2 ^ 24 then lines else 2 ^ 24 - 1) * 256 + code % 256

/-- The code with which a command completes; a unit brings its own (R333). -/
def CopyCmd.final (x : CopyCmd) : Nat :=
  match x.op with
  | .input _ => if x.code ≠ 0 then x.code else (x.bits.getD 12 0).toNat
  | _ => x.code

/-- COPY_COMPLETION: the status word is written once its bank serves it, and in that cycle the completion counted, the ring and the
follow-on queue served, and the next command may start. -/
def execCopyCompletion (c : Nat) (ch : Nat) (s : State) : Out :=
  let k := s.core c
  match k.running ch with
  | none => .next s
  | some x => s.atBank c (ch, 0) 12 (k.ent x.dindex) 0 (.copyCompletion c ch) none none none (fun s =>
    let code := x.final
    let s1 := s.commit c x.dindex (k.ent x.dindex) (wholeBytes 60 (leBytes 4 (statusWord x.lset.length code))) x.pc
    let s2 := s1.modCore c (fun k =>
      let k1 := if x.desc.ring then
          { k with cube := { k.cube with
              rings := k.cube.rings.setIfInBounds x.desc.ringn ((k.ring x.desc.ringn).finish x.id (code = 0)) } }
        else k
      let k2 : Core := match x.fol with
        | some f =>
          let q : FollowCmd := ⟨k1.cube.fol.toArray.getD f 0, x.pc⟩
          if code = 0 then { k1 with cube := { k1.cube with queue := k1.cube.queue ++ [q] } } else k1
        | none => k1
      let r := s.cyc c
      let k3 := k2.withEng (fun e => { e with chans := e.chans.setIfInBounds ch (e.chans.toArray.getD ch []).tail })
      k3.busy (3 + ch) x.startC (r + 1 - x.startC))
    let s3 := if code = 4 then s2.logDcr c 0x0E x.pc.toNat 1 else s2
    let s4 := (s3.count c ch (codeFault code x.faddr) x.notify x.flags).kickFollow c
    .next ((s4.fenceKick c).postEv s4.now 10 (.copyCommandStart c ch)))

end Sys2Proof.Machine
end

