-- ==== Sys2Proof/Machine/Sync.lean ====
section
/-! DEFINITION. Semaphores (R243), ticks (R244, R245), REALIGN (R49, R246), user trace records (R257) and the trace writer
(R339, R340). -/

namespace Sys2Proof.Machine

open Sys2Proof

/-! ### Semaphores -/

/-- The operand of a semaphore form: s[sa][31:0], or imm19 as the form extends it. -/
def State.semOp (s : State) (x : SemSrc) (sext : Bool) : W32 :=
  match x with
  | .reg a => (s.gs a).truncate 32
  | .imm v => if sext then v.signExtend 32 else v.zeroExtend 32

def execSeminc (_st : BitVec 20) (e : Fin 64) (x : SemSrc) (s : State) : Out :=
  .next (s.pend s.ic 1 (.e e.val) (.semInc (s.semOp x true)))
def execSemset (_st : BitVec 20) (e : Fin 64) (x : SemSrc) (s : State) : Out :=
  .next (s.pend s.ic 1 (.e e.val) (.semSet (s.semOp x false)))
/-- An increase that a CPYA brings: one that comes in the issue cycle of a SEMSET of its semaphore adds after that, and lands or is frozen
with it (R161, R243). -/
def State.semArrive (s : State) (c e : Nat) (x : W32) : State :=
  let k := s.core c
  let r := s.cyc c
  let sets := fun (due : Nat) (l : List PWrite) => l.any (fun p => p.due = due && p.dest = .e e && p.class_ = 1)
  let p : PWrite := ⟨r + 1, k.fl.seq, 6, 0, .e e, .semInc x⟩
  if sets (r + 1) k.fl.regs then
    (s.modFl c (fun f => { f with regs := insertPW p f.regs })).postEv (s.inst c (r + 1)) 3 (.pendingWriteLand c)
  else if k.priv && k.seq.handlerFrom = r + 1 && sets 0 k.fl.frozen then
    s.modFl c (fun f => { f with frozen := f.frozen ++ [{ p with due := 0 }] })
  else s.modCore c (fun k => k.land p)

/-- SEMCHK never waits. -/
def execSemchk (_st : BitVec 20) (e : Fin 64) (x : SemSrc) (s : State) : Out :=
  let v := s.ik.ct.sem[e]
  s.checked (failIf (v.ult (s.semOp x false)) cSemFail (BitVec.ofNat 64 (e.val + v.toNat * 2 ^ 32))) s

/-! ### Ticks -/

/-- The fence of the rendezvous pattern judged, or its TWAIT noted until the fence completes (R287). -/
def State.rendezvous (s : State) (c : Nat) (x pc : W64) : State :=
  match (s.core c).eng.rendez.find? (fun r => r.tick.isNone) with
  | some r =>
    match r.done with
    | some p => (s.modEng c (fun e => { e with rendez := e.rendez.filter (fun q => q.tick.isSome) })).judge c p x pc
    | none => s.modEng c (fun e => { e with
        rendez := mapIf (fun q => q.tick.isNone) (fun q => { q with tick := some x, pc := pc }) e.rendez })
  | none => s

/-- TWAIT (R244): the next group is reached from the first cycle at or after the tick on. -/
def execTwait (_st : BitVec 20) (sa : Fin 32) (z : Bool) (s : State) : Out :=
  let c := s.ic
  let x := s.gs sa
  let pc := s.issue.cur.bundle
  let r := s.cyc c
  let q := Nat.max (r + 1) (s.first c (x.toNat * tick))
  let late := x.toNat * tick < s.inst c r
  let s1 := if late then s.logDcr c 0x06 pc.toNat (lateness (s.inst c r) x) else s
  let s2 := (s1.traceCore c 0x05 x).modCore c (fun k => { k with seq := { k.seq with
    twLeave := some (x, z), twLate := lateness (s.inst c r) x, twPc := pc, twBase := s.issue.base } })
  let s3 := (s2.rendezvous c x pc).postEv (s.inst c q) 1 (.twaitLeave c)
  s.checked (firstFail [s.chkField (s.lockedRegion s.ik).isSome, failIf (late && s.latefault c) cLateStart x])
    { s3 with issue := { s3.issue with twait := some q } }

/-- TSTAMP (R245): in a sample-locked region the reading is taken within one cycle of the issue. -/
def execTstamp (_st : BitVec 20) (sd : Fin 32) (s : State) : Out :=
  match s.lockedRegion s.ik with
  | none => .next (s.wrS sd 2 (BitVec.ofNat 64 s.ptc))
  | some _ => .next (s.drawn.wrS sd 2 (BitVec.ofNat 64 ((s.now + s.free % (2 * s.cycLen s.ic + 1) - s.cycLen s.ic) / tick)))

/-- Whether a core is in a timebase region. -/
def State.timebase (s : State) (c : Nat) : Bool := (s.lockedRegion (s.core c)).isNone

/-- REALIGN (R49): all members, or none. -/
def execRealign (_st : BitVec 20) (g : Fin 256) (sa : Fin 32) (s : State) : Out :=
  let c := s.ic
  let ms := s.groupOf c g.val
  let t := (s.gs sa).toNat
  let l := s.launchNo c
  let bad := !ms.contains c || ms.any (fun m => (s.lockedRegion (s.coreIn l m)).isSome)
  let dead : Nat := s.now + 788 * tick - t * tick
  s.checked (s.chkField bad)
    (if dead ≠ 0 then s.logDcr c 0x06 s.issue.cur.bundle.toNat (cdiv dead tick)
     else ms.foldl (fun s m =>
       let i : Instr := .realignTick m t
       let s1 := s.modCoreIn l m (fun k => { k with seq := { k.seq with realign := if k.seq.realign.contains t then k.seq.realign else t :: k.seq.realign } })
       if s.agenda.any (fun d => d.act = .ev i) then s1 else s1.postEv (instOf none (firstCycle none (t * tick))) 0 i) s)

/-- A member's frame restarts in cycle r at a tick of its REALIGNs; one that counts no cycles finds CIF 0 when it counts again. -/
def Core.realigned (k : Core) (t r : Nat) : Core :=
  if !k.seq.realign.contains t then k
  else { k with seq := { k.seq with
    cif := 0, atEnd := false, fn := k.seq.fn + 1, realign := k.seq.realign.filter (fun x => x ≠ t), ref := if k.seq.counting then r else k.seq.ref } }

/-- REALIGN_TICK: the member's frame restarts, in a saved context too. -/
def execRealignTick (c : Nat) (t : Nat) (s : State) : Out :=
  let hit := (s.core c).seq.realign.contains t
  let s1 := s.modCore c (fun k => k.realigned t (s.cyc c))
  let s2 : State := { s1 with gangs := s1.gangs.map (fun g =>
    (g.1, { g.2 with saved := g.2.saved.map (fun p => if p.1 = c then (p.1, p.2.realigned t 0) else p) })) }
  .next (if hit then s2.postFrame c else s2)

/-! ### Trace -/

/-- A send of a core that nothing holds leaves: a trace record behind those before it, a producer sample once its elements
are read (R256, R291). -/
def State.sendMisc (s : State) (c : Nat) (m : MiscSend) : State :=
  if !m.waits.isEmpty || m.at_.isSome then s
  else
    let leave := fun (s : State) (t : Nat) => s.modEng c (fun e => { e with
      misc := mapIf (fun q => q.id = m.id) (fun q => { q with at_ := some t }) e.misc })
    match m.record, m.vals with
    | some rec, _ =>
      let before := ((s.core c).eng.misc.takeWhile (fun q => q.id ≠ m.id)).filter (fun q => q.record.isSome)
      let last := before.foldl (fun a q => Nat.max a (q.at_.getD 0)) 0
      let t := Nat.max last (if m.hw then s.now else s.now + s.free)
      if before.any (fun q => q.at_.isNone) then s
      else if h : coreDie c < 9 then (leave s.drawn t).postEv t 13 (.traceRecord ⟨coreDie c, h⟩ rec) else s
    | none, some vs =>
      let lx := s.ioLat (coreDie c) (m.x / 16) * tbCycle
      let t := if s.now ≤ m.t0 + s.cycLen c then m.t0 + lx else s.now + lx
      if h : m.x < 64 then (leave s t).postEv t 1 (.producerSampleArrival ⟨m.x, h⟩ vs) else s
    | none, none => s

/-- TRACE (R257): a user record of the issue cycle. -/
def execTrace (_st : BitVec 20) (ty : BitVec 8) (sa : Fin 32) (s : State) : Out :=
  let c := s.ic
  let m : MiscSend := {
    id := s.nextId c, waits := s.ik.waits, record := some (s.coreRec c ty (s.gs sa)), x := 0, src := none, vals := none, t0 := s.now
    at_ := none, hw := false }
  s.checked (s.chkField (ty.toNat < 0x80))
    (((s.useId c).modEng c (fun e => { e with misc := e.misc ++ [m] })).kick c)

/-- Trace registers of a die changed. -/
def State.modTr (s : State) (d : Nat) (f : TraceSt → TraceSt) : State := s.modDie d (fun y => { y with tr := f y.tr })

/-- N of R339: records that the buffer holds. -/
def TraceSt.n (t : TraceSt) : Nat := 2 ^ (getF t.ctl 1 5 - 5)

/-- A record accepted (R340): it takes index TRHEAD; one that it replaces is counted, and a reader overtaken is moved on. -/
def TraceSt.accept (t : TraceSt) (now : Nat) (rec : TraceRec) : TraceSt :=
  let i := t.head.toNat
  let past := t.n ≤ i && t.rd.toNat ≤ i - t.n
  { t with
    head := t.head + 1
    dropped := if t.n ≤ i then t.dropped + 1 else t.dropped
    overrun := t.overrun || past
    rd := if past then BitVec.ofNat 63 (i - t.n + 1) else t.rd
    queue := t.queue ++ [(i, rec)]
    snap := if past then now else t.snap }

/-- The core whose record it is has sent it. -/
def State.traceSent (s : State) (rec : TraceRec) : State :=
  let c := rec.src.toNat
  if c < 0x900 && (s.core c).eng.misc.any (fun m => m.record = some rec) then
    match (s.core c).eng.misc.find? (fun m => m.record = some rec && m.at_.isSome) with
    | some m =>
      let s1 := s.modEng c (fun e => { e with misc := e.misc.filter (fun q => q.id ≠ m.id) })
      if m.hw then s1.fenceKick c else s1.performed c
    | none => s.fenceKick c
  else s

/-- TRACE_RECORD: the writer takes a record while it is enabled (R339, R340). A user record is performed, and its sender's
fences go on, once it is in the buffer. -/
def execTraceRecord (die : Fin 9) (rec : TraceRec) (s : State) : Out :=
  let t := (s.die die.val).tr
  if getB t.ctl 0 then
    .next ((s.modTr die.val (fun t => t.accept s.now rec)).postFree s.now 13 (.traceRecordPerformed die))
  else .next (s.traceSent rec)

/-- The 32 bytes of a record (R337). -/
def recordBytes (r : TraceRec) : List Byte :=
  le 8 r.ptc ++ [r.ty] ++ le 3 r.cif.toNat ++ le 2 r.src.toNat ++ le 2 r.launch.toNat ++ le 4 r.fn.toNat ++ le 4 0
    ++ le 8 r.payload.toNat

/-- The place of record i in the buffer (R339, R341). -/
def TraceSt.place (t : TraceSt) (i : Nat) : Nat := getF t.ctl 12 52 * 4096 + 32 * (i % t.n)

/-- A record written to the buffer under the writer's master id, and counted by TRDONE (R340, R341). -/
def State.writeRecord (s : State) (d i : Nat) (rec : TraceRec) : State :=
  let t := (s.die d).tr
  let p := s.agentPut (0x108 + d) (t.place i) (some (getF t.ctl 6 6)) (recordBytes rec)
  (p.1.modTr d (fun t => { t with queue := t.queue.tail, done := if p.2 then t.done + 1 else t.done })).traceSent rec

/-- TRACE_RECORD_PERFORMED: the oldest record accepted is performed. -/
def execTraceRecordPerformed (die : Fin 9) (s : State) : Out :=
  match (s.die die.val).tr.queue with
  | (i, rec) :: _ =>
    .next ((s.heldRow ((s.die die.val).tr.place i) 32 (.traceRecordPerformed die)).getD (s.writeRecord die.val i rec))
  | [] => .next s

end Sys2Proof.Machine
end

