-- ==== Sys2Proof/Machine/Atomics.lean ====
section
/-! DEFINITION. Atomics (R239), the SC wheel (R240, R241, R276), and the table walks of copies and atomics (R94). -/

namespace Sys2Proof.Machine

open Sys2Proof

/-! ### What an atomic does -/

/-- Bytes that an operation accesses. -/
def amoWidth (isLoad isStore : Bool) (op : AmoOp) : Nat :=
  if isLoad || isStore then 8
  else match op with
    | .addI32 | .addF32 => 4
    | _ => 8

/-- The value written, the old value as s[sc] receives it, and the flags, from the memory value (R239). -/
def amoApply (op : AmoOp) (m : Nat) (x cmp : W64) : Nat × W64 × Flags :=
  let mw : W64 := BitVec.ofNat 64 m
  match op with
  | .addI32 => ((m + getF x 0 32) % 2 ^ 32, ofI 64 (sxt 32 m), 0)
  | .addI64 => ((mw + x).toNat, mw, 0)
  | .addF32 => let r := fmt32.add .rne 0 m (getF x 0 32); (r.1, mw, r.2)
  | .min => ((if x.slt mw then x else mw).toNat, mw, 0)
  | .max => ((if mw.slt x then x else mw).toNat, mw, 0)
  | .and => ((mw &&& x).toNat, mw, 0)
  | .or => ((mw ||| x).toNat, mw, 0)
  | .xor => ((mw ^^^ x).toNat, mw, 0)
  | .xchg => (x.toNat, mw, 0)
  | .cas => ((if mw = cmp then x else mw).toNat, mw, 0)

/-- The operation of a command on a memory value: a load writes nothing, a store writes its operand (R241). -/
def AmoCmd.apply (x : AmoCmd) (m : Nat) : Option Nat × W64 × Flags :=
  if x.isLoad then (none, BitVec.ofNat 64 m, 0)
  else if x.isStore then (some x.opnd.toNat, BitVec.ofNat 64 m, 0)
  else let r := amoApply x.op m x.opnd x.cmp; (some r.1, r.2.1, r.2.2)

/-- The lowest VA of the line of a command: the FADDR of its failure (R232). -/
def AmoCmd.line (x : AmoCmd) : W64 := BitVec.ofNat 64 (x.addr.toNat / 64 * 64)

/-- The width of a command. -/
def AmoCmd.width (x : AmoCmd) : Nat := amoWidth x.isLoad x.isStore x.op

/-- A command changed, by number. -/
def State.modAmo (s : State) (c id : Nat) (f : AmoCmd → AmoCmd) : State :=
  s.modEng c (fun e => { e with amos := mapIf (fun x => x.id = id) f e.amos, scs := mapIf (fun x => x.id = id) f e.scs })

/-- A command performed at its home at a DPA, under the key of its page; it is single-copy atomic (R281). -/
def State.perform (s : State) (c : Nat) (x : AmoCmd) (key a : Nat) : State :=
  let m := ofLe (s.memRead key a x.width)
  let r := x.apply m
  let s1 := match r.1 with
    | some v => s.homeWrite (s.launchNo c) c x.g key a (leBytes x.width v) false
    | none => s
  (s1.modAmo c x.id (fun y => { y with performed := true, issued := true, old := r.2.1, flags := r.2.2 })).performed c

/-- A command that fails leaves memory unchanged. -/
def State.amoFails (s : State) (c : Nat) (x : AmoCmd) (code : Nat) : State :=
  (s.modAmo c x.id (fun y => { y with performed := true, issued := true, code := code, faddr := x.line })).performed c

/-- The command of the group that issues. -/
def State.amoCmd (s : State) (n : Bool) (op : AmoOp) (isLoad isStore : Bool) (sa sb sc : Fin 32) (w0 : Nat) : AmoCmd :=
  let k := s.ik
  { id := s.nextId s.ic, op := op, isLoad := isLoad, isStore := isStore
    addr := s.gs sa, opnd := s.gs sb, cmp := s.gs sc
    dest := if isStore then 0 else sc.val, shadow := k.inui && 24 ≤ sc.val
    notify := n, seq := k.fl.seq, landed := false, pc := s.issue.cur.bundle, priv := k.priv, g := k.ct.g, waits := k.waits, w0 := w0
    issued := false, offDie := false, performed := false, old := 0, code := 0, faddr := 0, flags := 0, rq := none }

/-- The old value lands in s[sc] with the pending writes of this cycle, in issue order (R160, R239). A task's operation that completes
while its core is in its handler lands then, in the handler, and is not frozen (DESIGN CHOICE, log 29: R161 freezes pending writes at
trap entry, R239 and R241 land this one with its completion). -/
def State.amoLand (s : State) (c : Nat) (x : AmoCmd) : State :=
  let s1 := s.modAmo c x.id (fun y => { y with landed := true })
  if x.code = 0 && !x.isStore then
    let p : PWrite := ⟨s.cyc c, x.seq, 6, x.pc, if x.shadow then .sh (x.dest - 24) else .s x.dest, .w x.old⟩
    (s1.modFl c (fun f => { f with regs := insertPW p f.regs })).postEv s.now 3 (.pendingWriteLand c)
  else s1

/-- The completion is counted on channel 10 with the fault it leaves (R60). -/
def State.amoDone (s : State) (c : Nat) (x : AmoCmd) : State :=
  let s1 := s.modEng c (fun e => { e with
    amos := e.amos.filter (fun y => y.id ≠ x.id), scs := e.scs.filter (fun y => y.id ≠ x.id) })
  (s1.count c 10 (codeFault x.code x.faddr) x.notify x.flags).fenceKick c

/-- The answer to an AMO comes home after a free time; it completes in the cycle that begins next. -/
def State.amoBack (s : State) (c id : Nat) : State :=
  s.drawn.postEv (s.inst c (s.first c (s.now + s.free + 1))) 2 (.amoCompletion c id)

/-! ### AMO -/

/-- AMO (R239). -/
def execAmo (_st : BitVec 20) (n : Bool) (op : AmoOp) (sa sb sc : Fin 32) (s : State) : Out :=
  let c := s.ic
  let x := s.amoCmd n op false false sa sb sc 0
  .next (((s.useId c).modEng c (fun e => { e with amos := e.amos ++ [x] })).kick c)

/-- The next AMO of a core leaves: translated by the caches, or by a walk, and sent behind those before it (R239, R283). -/
def State.amoSend (s : State) (c : Nat) (x : AmoCmd) : State :=
  let a := x.addr.toNat
  let fail := fun (s : State) => (s.amoFails c x 1).amoBack c x.id
  if a % x.width ≠ 0 || fld a 57 7 ≠ 0 then fail s
  else match s.tlbLook c a with
    | none => (s.modAmo c x.id (fun y => { y with rq := some ⟨a, 0, 0, 0⟩ })).postFree s.now 5 (.translationWalk c (.amo x.id))
    | some t =>
      match s.through (s.ctxOf c) a t .atomic x.priv with
      | none => fail s
      | some tr =>
        if tr.tier ≠ 0 then fail s
        else
          let target := s.targetOf tr
          let last := (s.core c).eng.amos.foldl (fun m y => if y.issued then Nat.max m y.w0 else m) 0
          let at_ := Nat.max last (s.soonest c target + s.free)
          let s1 := s.drawn.modAmo c x.id (fun y => { y with
            issued := true, offDie := target ≠ coreDie c, w0 := at_, rq := some ⟨a, tr.dpa, tr.pte, tr.size⟩ })
          (s1.postEv at_ 4 (.amoExecute c x.id)).fenceKick c

/-- AMOs leave in issue order; one that is held or waits for its walk holds the later ones (R283). -/
def State.amoGo (s : State) (c : Nat) : List AmoCmd → State
  | [] => s
  | x :: r =>
    if x.issued then s.amoGo c r
    else if !x.waits.isEmpty || x.rq.isSome then s
    else
      let s1 := s.amoSend c x
      if (s1.core c).eng.amos.any (fun y => y.id = x.id && y.issued) then s1.amoGo c r else s1

/-- AMO_EXECUTE: an atomic reaches its home, is checked and performed in arrival order (R93, R239, R279). -/
def execAmoExecute (c : Nat) (id : Nat) (s : State) : Out :=
  match (s.core c).eng.amos.find? (fun x => x.id = id) with
  | some x =>
    match x.rq with
    | some q =>
      if x.performed || !x.issued then .next s
      else
        let t : Trans := ⟨q.dpa, pteKey q.pte, pteChk q.pte, pteMig q.pte, pteTier q.pte, 0, q.pte, q.size⟩
        let p := s.request c q.va t .atomic x.g x.pc (.amoExecute c id)
        let back := fun (s : State) => s.amoBack c id
        match p.2 with
        | .held => .next p.1
        | .denied => .next (back (p.1.amoFails c x 3))
        | .race => .next (back (p.1.amoFails c x 2))
        | .done a => .next (back (p.1.perform c x t.key a))
    | none => .next s
  | none => .next s

/-- AMO_COMPLETION: the old value lands at the beginning of a cycle, and the completion is counted in it. -/
def execAmoCompletion (c : Nat) (id : Nat) (s : State) : Out :=
  match (s.core c).eng.amos.find? (fun x => x.id = id && x.performed) with
  | some x => if x.landed then .next (s.amoDone c x) else .next ((s.amoLand c x).postEv s.now 11 (.amoCompletion c id))
  | none => .next s

/-! ### The SC wheel -/

/-- The first position time of an owned position p at or after a wheel number. -/
def wheelNext (p w : Nat) : Nat :=
  let t := w / 16384 * 16384 + 4 * p
  if w ≤ t then t else t + 16384

/-- The first owned position time at or after a wheel number that no earlier SC instruction has taken (R240). -/
def Engines.position (e : Engines) (w : Nat) : Option Nat :=
  let w1 := Nat.max w (e.lastPos + 1)
  (e.wheel.map (fun p => wheelNext p w1)).foldl (fun b t =>
    match b with
    | some x => some (Nat.min x t)
    | none => some t) none

/-- SC operations that have taken positions and not executed. -/
def Engines.scTaken (e : Engines) : Nat := (e.scs.filter (fun x => !x.performed)).length

/-- An SC operation leaves its core at its position; one whose target lies off the die is then with the die-edge interface (R284). That it
leaves then is not stated (DEDUCED, log 30). -/
def State.scLeave (s : State) (c id : Nat) : State :=
  match (s.core c).eng.scs.find? (fun x => x.id = id) with
  | some x =>
    let leaf := match s.tlbLook c x.addr.toNat with
      | some t => some t
      | none => s.walk (s.ctxOf c) x.addr.toNat
    let off := (leaf.bind (fun t => s.through (s.ctxOf c) x.addr.toNat t .atomic x.priv)).any (fun t => s.targetOf t ≠ coreDie c)
    if x.issued && x.waits.isEmpty && s.now = x.w0 * tbCycle && off then
      (s.modAmo c id (fun y => { y with offDie := true })).fenceKick c
    else s
  | none => s

/-- The acts of an SC operation with a position: it leaves there, and executes 256 wheel cycles later (R241). -/
def State.scPost (s : State) (c id w0 : Nat) : State :=
  (s.postMi (w0 * tbCycle) 5 (.scLeave c id)).postEv ((w0 + 256) * tbCycle) 5 (.scExecute c id)

/-- An SC instruction: SLOT_BUSY for a fifth, SC_SLOT for a core with no position (R240). -/
def State.scForm (s : State) (n : Bool) (op : AmoOp) (isLoad isStore : Bool) (sa sb sc : Fin 32) : Out :=
  let c := s.ic
  match s.ik.eng.position (s.cyc c + 1) with
  | some w0 =>
    let x := s.amoCmd n op isLoad isStore sa sb sc w0
    let s1 := (s.useId c).modEng c (fun e => { e with scs := e.scs ++ [{ x with issued := true }], lastPos := w0 })
    s.checked (chkBusy (4 ≤ s.ik.eng.scTaken)) (s1.scPost c x.id w0)
  | none => s.checked (firstFail [chkBusy (4 ≤ s.ik.eng.scTaken), failIf true cScSlot 0]) s

def execScld (_st : BitVec 20) (n : Bool) (sa sc : Fin 32) (s : State) : Out := s.scForm n .xchg true false sa 0 sc
def execScst (_st : BitVec 20) (n : Bool) (sa sb : Fin 32) (s : State) : Out := s.scForm n .xchg false true sa sb 0
def execScamo (_st : BitVec 20) (n : Bool) (op : AmoOp) (sa sb sc : Fin 32) (s : State) : Out :=
  s.scForm n op false false sa sb sc

/-- SC operations that lost their positions take positions afresh (R240). -/
def State.scAfresh (s : State) (c : Nat) : List AmoCmd → State
  | [] => s
  | x :: r =>
    if x.issued || x.performed then s.scAfresh c r
    else match (s.core c).eng.position (s.cyc c + 1) with
      | some w0 =>
        let s1 := (s.modAmo c x.id (fun y => { y with issued := true, w0 := w0 })).modEng c (fun e => { e with lastPos := w0 })
        (s1.scPost c x.id w0).scAfresh c r
      | none => s.scAfresh c r

/-- The home that an SC operation reaches while its page may be moving. Its time is fixed: a page that is locked when it comes is forwarded
then, how long a page stays locked being unstated, and the operation goes behind the requests held before it. At the new home of a page
whose requests are still forwarded it waits as every request does, behind the last of them (R96, R241, R276; DESIGN CHOICE, log 17). -/
def State.requestNow (s : State) (c va : Nat) (t : Trans) (g : Nat) (pc : W64) (retry : Instr) : State × Verdict :=
  match s.migrOf ((s.dpa t.dpa).getD (0, t.dpa)).2 true with
  | some (d, i, m) => if m.st = 1 then ((s.forwardPage d i m).postEv s.now 5 retry, .held) else s.request c va t .atomic g pc retry
  | none => s.request c va t .atomic g pc retry

/-- The leaf through which an SC operation goes: cached, or walked within its 256 cycles. -/
def State.scLeaf (s : State) (c va : Nat) : State × Option TlbEnt :=
  match s.tlbLook c va with
  | some t => (s, some t)
  | none => match s.walk (s.ctxOf c) va with
    | some t => (s.drawn.tlbFill c t, some t)
    | none => (s, none)

/-- An SC operation decided at w0 + 256. -/
def State.scRun (s : State) (c : Nat) (x : AmoCmd) : State :=
  let a := x.addr.toNat
  if a % x.width ≠ 0 || fld a 57 7 ≠ 0 then s.amoFails c x 1
  else
    let l := s.scLeaf c a
    match l.2.bind (fun t => l.1.through (l.1.ctxOf c) a t .atomic x.priv) with
    | none => l.1.amoFails c x 1
    | some tr =>
      if tr.tier ≠ 0 then l.1.amoFails c x 1
      else
        let p := l.1.requestNow c a tr x.g x.pc (.scExecute c x.id)
        match p.2 with
        | .done b => p.1.perform c x tr.key b
        | .race => p.1.amoFails c x 2
        | .denied => p.1.amoFails c x 3
        | .held => p.1

/-- SC_EXECUTE: at w0 + 256, or when a home that holds it lets it go; an operation that a fence still holds takes its position afresh, and so do the later ones of the core, so
that the order stays that of their issue (R241, R242, R276). -/
def execScExecute (c : Nat) (id : Nat) (s : State) : Out :=
  match (s.core c).eng.scs.find? (fun x => x.id = id) with
  | some x =>
    if !x.issued || x.performed || s.now < (x.w0 + 256) * tbCycle then .next s
    else if !x.waits.isEmpty then
      let later := fun (y : AmoCmd) => !y.performed && id ≤ y.id
      let s1 := s.modEng c (fun e => { e with scs := mapIf later (fun y => { y with issued := false }) e.scs })
      .next (s1.scAfresh c (s1.core c).eng.scs)
    else
      let s1 := s.scRun c x
      if (s1.core c).eng.scs.any (fun y => y.id = id && y.performed) then
        .next (s1.postEv (Nat.max ((x.w0 + 512) * tbCycle) (s1.inst c (s1.first c (s1.now + 1)))) 2 (.scCompletion c id))
      else .next s1
  | none => .next s

/-- SC_COMPLETION: at w0 + 512 the old value lands, seen by the group of that cycle (R272), and the completion is counted in it. -/
def execScCompletion (c : Nat) (id : Nat) (s : State) : Out :=
  match (s.core c).eng.scs.find? (fun x => x.id = id && x.performed) with
  | some x => if x.landed then .next (s.amoDone c x) else .next ((s.amoLand c x).postEv s.now 11 (.scCompletion c id))
  | none => .next s

/-! ### Table walks -/

/-- TRANSLATION_WALK: a walk of an engine request ends in the caches, or in a translation fault (R93, R94). -/
def execTranslationWalk (c : Nat) (w : WalkFor) (s : State) : Out :=
  let k := s.core c
  match w with
  | .copy ch =>
    match k.running ch with
    | some x =>
      if x.rq.isSome || x.code ≠ 0 then .next s
      else
        let va := (k.nextReq x).1
        match s.walk (s.ctxOf c) va with
        | some t => .next ((s.drawn.tlbFill c t).sendReq c ch x)
        | none => .next (s.endCopy c ch 1 (BitVec.ofNat 64 (va / 64 * 64)))
    | none => .next s
  | .amo id =>
    match k.eng.amos.find? (fun x => x.id = id && !x.issued) with
    | some x =>
      match s.walk (s.ctxOf c) x.addr.toNat with
      | some t =>
        .next (((s.drawn.tlbFill c t).modAmo c id (fun y => { y with rq := none })).kick c)
      | none => .next (((s.amoFails c x 1).amoBack c id).kick c)
    | none => .next s

end Sys2Proof.Machine
end

