-- ==== Sys2Proof/Machine/Exchange.lean ====
section
/-! DEFINITION. The wire fabric: topologies (R313), exchange phases and their commands (R258 to R261). -/

namespace Sys2Proof.Machine

open Sys2Proof

/-! ### Topologies (R313) -/

/-- Sides and ports: 0 N, 1 E, 2 S, 3 W. The die positions from a die straight on by a side. -/
def sideLine (a side : Nat) : List Nat :=
  match side with
  | 0 => (List.range (a / 3)).map (fun i => a - 3 * (i + 1))
  | 1 => (List.range (2 - a % 3)).map (fun i => a + (i + 1))
  | 2 => (List.range (2 - a / 3)).map (fun i => a + 3 * (i + 1))
  | _ => (List.range (a % 3)).map (fun i => a - (i + 1))

/-- The side opposite. -/
def oppSide (side : Nat) : Nat := (side + 2) % 4

/-- The side by which the route of R47 leaves a die for another: along gx first. -/
def sideTo (a b : Nat) : Nat :=
  if a % 3 < b % 3 then 1 else if b % 3 < a % 3 then 3 else if a / 3 < b / 3 then 2 else 0

/-- The dies of a partition in serpentine order. -/
def serpentine (ds : List Nat) : List Nat := [0, 1, 2, 5, 4, 3, 6, 7, 8].filter (fun d => ds.contains d)

/-- The neighbour that a side of a die has straight on. -/
def meshTo (ds : List Nat) (a side : Nat) : Option Nat := (sideLine a side).find? (fun d => ds.contains d)

/-- The dies to which connections of a topology lead from a side of a die: more than one only where the topology is refused (R313). -/
def fabricDies (topo : Topology) (ds : List Nat) (a side : Nat) : List Nat :=
  let r := serpentine ds
  let n := r.length
  let i := r.findIdx (· = a)
  let facing := fun (js : List Nat) => once ((js.filterMap (fun j => r[j]?)).filter (fun b => b ≠ a && sideTo a b = side))
  if !ds.contains a then []
  else match topo with
    | .mesh => (meshTo ds a side).toList
    | .torus =>
      match meshTo ds a side with
      | some b => [b]
      | none => ((sideLine a (oppSide side)).filter (fun d => ds.contains d)).getLast?.toList
    | .ring => if n < 2 then [] else facing [(i + 1) % n, (i + n - 1) % n]
    | .tree => facing ((if i = 0 then [] else [(i - 1) / 2]) ++ [2 * i + 1, 2 * i + 2])

/-- The die that a side of a die reaches under a topology. -/
def fabricTo (topo : Topology) (ds : List Nat) (a side : Nat) : Option Nat := (fabricDies topo ds a side).head?

/-- The partition context's record. -/
def State.ctx (s : State) (x : Nat) : Ctx := s.ctxs.toArray.getD x .init

/-- The core that a port of a core reaches, with the cycles at 1.3 GHz that a row takes (R47, R48, R258, R313). -/
def State.neighbour (s : State) (c port : Nat) : Option (Nat × Nat) :=
  let d := coreDie c
  let row := coreRow c
  let col := coreCol c
  let far := fun (f : Nat → Nat) => (fabricTo (s.ctx (s.ctxOf c)).topo (s.ctx (s.ctxOf c)).dies d port).map
    (fun b => (b * 256 + f b, s.dieLat d b - 2))
  match port with
  | 0 => if row = 0 then far (fun _ => 9 * 16 + col) else some (c - 16, 1)
  | 1 => if col = 15 then far (fun _ => row * 16) else some (c + 1, 1)
  | 2 => if row = 9 then far (fun _ => col) else some (c + 16, 1)
  | _ => if col = 0 then far (fun _ => row * 16 + 15) else some (c - 1, 1)

/-! ### Commands -/

/-- An exchange port changed. -/
def State.modX (s : State) (c : Nat) (f : Xchg → Xchg) : State := s.modCore c (fun k => { k with x := f k.x })

/-- Whether a command still acts in cycle r. -/
def XCmd.active (m : XCmd) (r : Nat) : Bool := m.j < m.count || r < m.at_

/-- The cycles in which a command drives a port, as the first and the one after the last. -/
def XCmd.drives (m : XCmd) (port : Nat) : Option (Nat × Nat) :=
  match m.op with
  | 0 => if m.port = port then some (m.at_, m.at_ + (m.count - m.j)) else none
  | 2 => if m.port2 = port then some (if m.j = 0 then m.at_ + 1 else m.at_, m.at_ + 1 + (m.count - m.j)) else none
  | _ => none

/-- The cycles in which an XRX takes rows from a port. -/
def XCmd.takes (m : XCmd) (port : Nat) : Option (Nat × Nat) :=
  if m.op = 1 && m.port = port then some (m.at_, m.at_ + (m.count - m.j)) else none

/-- Whether two runs of cycles share one. -/
def meets (a b : Option (Nat × Nat)) : Bool :=
  match a, b with
  | some x, some y => x.1 < y.2 && y.1 < x.2
  | _, _ => false

/-- SLOT_BUSY of a new command against those in progress (R260). -/
def Xchg.clash (x : Xchg) (m : XCmd) : Bool :=
  x.cmds.any (fun n => (List.range 4).any (fun p => meets (n.drives p) (m.drives p) || meets (n.takes p) (m.takes p)))

/-- The command of the X slot that issues. -/
def State.xcmd (s : State) (op port port2 v row count : Nat) : XCmd :=
  ⟨op, port, port2, v, row, count, 0, s.cyc s.ic + 1, s.ik.fl.seq, s.issue.cur.bundle⟩

/-- A command taken up: its first row is in the next cycle. -/
def State.xIssue (s : State) (m : XCmd) : State :=
  let c := s.ic
  (s.modX c (fun x => { x with cmds := x.cmds.filter (fun n => n.active (s.cyc c)) ++ [m] })).postEv
    (s.inst c m.at_) 5 (.exchangeRow c)

/-- Registers that a run of rows names. -/
def rowRegs (v row count : Nat) : List Nat := (List.range ((row + count + 15) / 16)).map (fun i => v + i)

/-- FORMAT_TAG of a register that XTX drives: NONE or scaled (R259). -/
def Core.chkDriven (k : Core) (ns : List Nat) : Check :=
  firstFail (ns.map (fun n =>
    let v := k.vec.v.toArray.getD n .zero
    chkTag (!(v.tag = .none || v.sc)) v.tag))

/-- XBEGIN (R258): SLOT_BUSY while a V slot, the cube pipe or a drain is occupied. -/
def execXbegin (s : State) : Out :=
  let c := s.ic
  let k := s.ik
  let r := s.cyc c
  let occ := k.fl.units.vU.toList.any (fun t => r < t) || s.pipeBusy c || s.drainBusy c
  s.checked (firstFail [s.chkOp k.x.on, chkBusy occ]) (s.modX c (fun x => { x with on := true, cmds := [] }))

/-- XEND: SLOT_BUSY while a command is active. -/
def execXend (s : State) : Out :=
  let c := s.ic
  s.checked (firstFail [s.chkOp (!s.ik.x.on), chkBusy (s.ik.x.cmds.any (fun m => m.active (s.cyc c)))])
    (s.modX c (fun x => { x with on := false, cmds := [] }))

/-- XTX (R259). -/
def execXtx (port : Fin 16) (v : Fin 32) (row : Fin 16) (count : BitVec 11) (s : State) : Out :=
  let m := s.xcmd 0 port.val 0 v.val row.val count.toNat
  s.checked (firstFail [s.chkOp (!s.ik.x.on), s.chkField (!Wf.rows port v row count), chkBusy (s.ik.x.clash m),
    s.ik.chkDriven (rowRegs v.val row.val count.toNat)]) (s.xIssue m)

/-- XRX (R259). -/
def execXrx (port : Fin 16) (v : Fin 32) (row : Fin 16) (count : BitVec 11) (s : State) : Out :=
  let m := s.xcmd 1 port.val 0 v.val row.val count.toNat
  s.checked (firstFail [s.chkOp (!s.ik.x.on), s.chkField (!Wf.rows port v row count), chkBusy (s.ik.x.clash m)]) (s.xIssue m)

/-- XSEL (R260). -/
def execXsel (p q : Fin 16) (n : BitVec 16) (s : State) : Out :=
  let m := s.xcmd 2 p.val q.val 0 0 n.toNat
  s.checked (firstFail [s.chkOp (!s.ik.x.on), s.chkField (!(Instr.xsel p q n).wellFormed), chkBusy (s.ik.x.clash m)])
    (s.xIssue m)

/-! ### Rows -/

/-- The row that arrives at a port in a cycle. -/
def Xchg.rowAt (x : Xchg) (port r : Nat) : Option VReg := (x.arrive.find? (fun a => a.1 = port && a.2.1 = r)).map (·.2.2)

/-- A row driven on a port of core c in cycle r: it arrives at the neighbour, if that is running (R258, R259, R261). -/
def State.driveRow (s : State) (c port r : Nat) (x : VReg) : State :=
  match s.neighbour c port with
  | some (m, l) =>
    let k := s.core m
    let on := k.seq.st = .run || k.seq.st = .wait || k.seq.st = .trap
    if !on then s
    else
      let t := s.inst c (r + toRegion (s.lockedRegion (s.core c)) l)
      s.modX m (fun y => { y with arrive := y.arrive.filter (fun a => s.cyc m ≤ a.2.1) ++ [(oppSide port, s.first m t, x)] })
  | none => s

/-- Row i of a register as it is driven: 64 containers with the register's tag. -/
def VReg.rowOut (v : VReg) (i : Nat) : VReg := ⟨(v.cells.drop (i * 64)).take 64, v.tag, false, v.teo, []⟩

/-- A row received by an XRX: visible in the next cycle, with the tag that came; an undriven port gives zero bits and leaves
the tag and the scale area. -/
def State.takeRow (s : State) (c r : Nat) (m : XCmd) (x : Option VReg) : State :=
  let i := m.row + m.j
  let n := m.v + i / 16
  let at_ := i % 16 * 64
  let mask := maskOf ((List.range 1024).map (fun e => at_ ≤ e && e < at_ + 64))
  let val : PVal := match x with
    | some y => .vr ⟨List.replicate at_ 0 ++ y.data, y.tag, y.sc, y.teo, []⟩ mask
    | none => .rowZero mask
  let p : PWrite := ⟨r + 1, m.seq, 7, m.pc, .v n, val⟩
  (s.modCore c (fun k => { k with fl := { k.fl with
    regs := insertPW p k.fl.regs, vtags := noteTag k.fl.vtags (.v n) val } })).postEv (s.inst c (r + 1)) 3
    (.pendingWriteLand c)

/-- One cycle of a command. -/
def State.xAct (s : State) (c r : Nat) (m : XCmd) : State :=
  let k := s.core c
  match m.op with
  | 0 =>
    let i := m.row + m.j
    s.driveRow c m.port r ((k.vec.v.toArray.getD (m.v + i / 16) .zero).rowOut (i % 16))
  | 1 => s.takeRow c r m (k.x.rowAt m.port r)
  | _ => match k.x.rowAt m.port r with
    | some x => s.driveRow c m.port2 (r + 1) x
    | none => s

/-- Whether the halt or the stop of its gang falls, for a core, before the cycle in progress (R65, R67, R306). -/
def State.stopsNow (s : State) (c : Nat) : Bool :=
  match s.gangOf c with
  | some (_, x) =>
    match x.st with
    | .halting => s.toHalt x c && (if x.step = 0 then s.first c x.haltT else s.first c x.restartT + 1) ≤ s.cyc c
    | .stopping => s.timebase c && !s.unsavable x && x.stopT ≤ s.inst c (s.cyc c)
    | _ => false
  | none => false

/-- EXCHANGE_ROW: the rows of the cycle are driven, taken and forwarded (R259, R260); those of a core that is stopped, or stops before this
cycle, stay for its resume (R261). -/
def execExchangeRow (c : Nat) (s : State) : Out :=
  let k := s.core c
  let r := s.cyc c
  let due := k.x.cmds.filter (fun m => m.j < m.count && m.at_ = r)
  let runs := (k.seq.counting || k.priv) && (k.seq.st = .run || k.seq.st = .wait || k.seq.st = .trap) && !s.stopsNow c
  if !k.x.on || due.isEmpty || !runs then .next s
  else
    let s1 := due.foldl (fun s m => s.xAct c r m) s
    let s2 := s1.modX c (fun x => { x with
      cmds := mapIf (fun m => m.j < m.count && m.at_ = r) (fun m => { m with j := m.j + 1, at_ := r + 1 }) x.cmds })
    .next (if (s2.core c).x.cmds.any (fun m => m.j < m.count) then s2.postEv (s2.inst c (r + 1)) 5 (.exchangeRow c) else s2)

end Sys2Proof.Machine
end

