-- ==== Sys2Proof/Machine/Subs.lean ====
section
/-! DEFINITION. Subscriptions (R251 to R254) and multicast windows (R255). -/

namespace Sys2Proof.Machine

open Sys2Proof

/-! ### Whether a core runs -/

/-- Whether a core runs, in the sense of R251 and R261: it is not stopped, halted, preempted or between tasks. -/
def State.running (s : State) (c : Nat) : Bool :=
  let st := (s.core c).seq.st
  (st = .run || st = .wait || st = .trap) && s.receives c

/-- A record of a core of a launch, live or saved: a saved one stands at the CIF of its context, at the end of a frame at its last. -/
def State.recordIn (s : State) (l c ty : Nat) (payload : W64) : State :=
  if (s.core c).seq.launch = some l then s.traceCore c ty payload
  else match s.savedIn l c with
    | some (_, _, k) =>
      let rec_ := s.recOf k c (if k.seq.atEnd then k.seq.cif - 1 else k.seq.cif) (BitVec.ofNat 8 ty) payload
      if k.recWaits s.now then s.modCoreIn l c (fun k => k.queueRec s.now rec_) else s.record (coreDie c) rec_
    | none => s

/-- An event entered in the determinism cause register of a core of a launch, live or saved, with its trace record. -/
def State.logIn (s : State) (l c code pc count : Nat) : State :=
  if (s.core c).seq.launch = some l then s.logDcr c code pc count
  else (s.modCoreIn l c (fun k => { k with ct := { k.ct with dcr := dcrAdd k.ct.dcr code pc count } })).recordIn l c 0x0C
    (dcrPayload code count)

/-! ### Entries -/

/-- Subscription tables of a core changed. -/
def State.modSub (s : State) (c : Nat) (f : Subs → Subs) : State := s.modCore c (fun k => { k with sub := f k.sub })

/-- A subscriber entry for a view, of a core. -/
def Subs.byView (x : Subs) (h : Nat) : Option (Nat × SubEnt) := x.subs.find? (fun p => p.2.view = h)

/-- Whether two cores share a group of their launch. -/
def State.shareGroup (s : State) (c d : Nat) : Bool :=
  match s.launchOf c with
  | some (_, l) => l.img.groups.any (fun g => g.cores.contains c && g.cores.contains d)
  | none => false

/-- Window lengths by code (R251). -/
def winCycles (w : Fin 4) : Nat := match w with | 0 => 0 | 1 => 8 | 2 => 32 | _ => 128

/-- SUBON (R251): a PENDING entry, and a request that reaches the publisher at t + L. -/
def execSubon (_st : BitVec 20) (hl hp : Fin 256) (core : BitVec 12) (win : Fin 4) (s : State) : Out :=
  let c := s.ic
  let k := s.ik
  let p := core.toNat
  let id := s.nextKey
  let bad := !s.peer c p || !s.shareGroup c p || (k.sub.byView hl.val).isSome || 32 ≤ k.sub.subs.length
  let e : SubEnt := ⟨hl.val, k.vIdx hl.val, (k.view hl.val).gen, p, hp.val, winCycles win, .pending, s.issue.cur.bundle⟩
  let s1 := ({ s with nextKey := id + 1 } : State).modSub c (fun x => { x with subs := AMap.put x.subs id e })
  s.checked (firstFail [k.chkView hl.val, s.chkField bad])
    (s1.postEv (s.inst c (s.cyc c + s.latC c p)) 2 (.subonRequest p c id))

/-- The launch whose context of a core, live or saved, holds a subscriber entry. -/
def State.subHome (s : State) (c k : Nat) : Option Nat := s.homeOf c (fun q => (AMap.get? q.sub.subs k).isSome)

/-- A subscriber entry of a core of a launch. -/
def State.subEnt (s : State) (l c k : Nat) : Option SubEnt := AMap.get? (s.coreIn l c).sub.subs k

/-- Subscription tables of a core of a launch changed. -/
def State.modSubIn (s : State) (l c : Nat) (f : Subs → Subs) : State := s.modCoreIn l c (fun k => { k with sub := f k.sub })

/-- SUBON_REQUEST: the publisher installs a forward entry if hp passes R80, its size fits, one of its 32 entries is free and it
is running. The subscriber may be preempted by now. -/
def execSubonRequest (p : Nat) (c : Nat) (k : Nat) (s : State) : Out :=
  match s.subHome c k with
  | none => .next s
  | some l =>
    match s.subEnt l c k with
    | some e =>
      let q := s.core p
      let pe := q.vEnt e.pview
      let ok := q.seq.launch = some l && q.viewOk e.pview && entSize pe = entSize ((s.coreIn l c).ent e.index)
        && q.sub.fwds.length < 32 && s.running p
      let f : FwdEnt := ⟨c, k, e.pview, q.vIdx e.pview, (q.view e.pview).gen, e.win, none, false, 0, 0, none⟩
      let s1 := if ok then (({ s with nextKey := s.nextKey + 1 } : State).modSub p (fun x => { x with fwds := AMap.put x.fwds s.nextKey f })) else s
      .next (s1.postEv (s1.inst c (s1.cyc c + s1.latC c p)) 2 (.subonReply c k ok))
    | none => .next s

/-- SUBON_REPLY: the entry becomes ACTIVE at t + 2L, or is removed; the subscriber may be preempted by now. -/
def execSubonReply (c : Nat) (k : Nat) (ok : Bool) (s : State) : Out :=
  match s.subHome c k with
  | none => .next s
  | some l =>
    match s.subEnt l c k with
    | some e =>
      if ok then .next (s.modSubIn l c (fun x => { x with
        subs := AMap.put x.subs k { e with st := if e.st = .pending then .active else e.st } }))
      else .next ((s.modSubIn l c (fun x => { x with subs := AMap.del x.subs k })).logIn l c 0x0E e.pc.toNat 1)
    | none => .next s

/-- BATCH_WINDOW_CLOSE: the window closes at open + w (R252). -/
def execBatchWindowClose (p : Nat) (j : Nat) (s : State) : Out :=
  match AMap.get? (s.core p).sub.fwds j with
  | some f => match f.open_ with
    | some w => .next (if w.closeAt ≤ s.cyc p then s.closeWin p j else s)
    | none => .next s
  | none => .next s

/-! ### Landings -/

/-- Whether an entry of the agenda is a line of a subscription entry on its way. -/
def Due.isLine (d : Due) (c p k : Nat) : Bool :=
  match d.act with
  | .ev (.batchLineLanding c2 l) => c2 = c && l.pub = p && l.entry = k
  | _ => false

/-- A line deferred by a cycle, with every later line of its entry (R252, R273). -/
def State.deferLine (s : State) (c : Nat) (l : SubLine) : State :=
  let len := s.cycLen c
  let mine := s.agenda.filter (fun d => d.isLine c l.pub l.entry)
  let s1 : State := { s with agenda := s.agenda.filter (fun d => !d.isLine c l.pub l.entry) }
  let s2 := mine.foldl (fun s d => s.post (d.t + len) d.rank d.act) (s1.postEv (s1.inst c (s1.cyc c + 1)) 5 (.batchLineLanding c l))
  s2.modSub l.pub (fun x => { x with fwds := AMap.upd x.fwds l.fwd (fun f => { f with lineFree := f.lineFree + len }) })

/-- A SUBSYNC whose batches have all been acknowledged, or will be at known instants, completes then (R254). -/
def State.syncGo (s : State) (p : Nat) : State :=
  let x := (s.core p).sub
  x.syncs.foldl (fun s y =>
    let mine := x.inflight.filter (fun i => y.waits.contains (i.fwd, i.batch))
    if !y.waits.isEmpty && mine.all (fun i => i.ackAt.isSome) then
      let t := mine.foldl (fun m i => Nat.max m (i.ackAt.getD 0)) s.now
      s.postEv t 11 (.subsyncCompletion p y.id)
    else s) s

/-- A batch has landed or is discarded: its acknowledgement is on its way back. -/
def State.batchDone (s : State) (c : Nat) (l : SubLine) : State :=
  let t := s.now + s.latT c l.pub
  (s.modSub l.pub (fun x => { x with
    inflight := mapIf (fun i => i.fwd = l.fwd && i.batch = l.batch) (fun i => { i with ackAt := some t }) x.inflight })).syncGo l.pub

/-- Whether later lines of a batch are suppressed. -/
def Core.dropped (k : Core) (l : SubLine) : Bool := k.sub.dropRest.contains (l.entry, l.batch)

/-- The rest of a batch suppressed. -/
def State.dropRest (s : State) (c : Nat) (l : SubLine) : State :=
  if l.last then s else s.modSub c (fun x => { x with dropRest := (l.entry, l.batch) :: x.dropRest })

/-- A batch for a stopped subscriber c is discarded: its forward entry is STALE, unless its resync holds what the batch does, and the
publisher logs SUB_STALE_DROP (R253). Where the subscriber's region is RELOCKING the publisher sends the resync at once (R38). -/
def State.staleDrop (s : State) (c : Nat) (l : SubLine) : State :=
  let stale := ((AMap.get? (s.core l.pub).sub.fwds l.fwd).map (fun f => f.fresh.isNone)).getD false
  let s1 := (s.modSub l.pub (fun x => { x with fwds := AMap.upd x.fwds l.fwd (fun f => { f with stale := stale }) })).logDcr l.pub 0x0A noPc 1
  match s.lockedRegion (s.core c) with
  | some g => if stale && g.st = .relocking then s1.postEv s1.now 6 (.subscriptionResync l.pub l.fwd) else s1
  | none => s1

/-- The image of a resync lands whole and unchecked (R253). -/
def State.landResync (s : State) (c : Nat) (l : SubLine) : State :=
  match AMap.get? (s.core c).sub.subs l.entry with
  | some e =>
    (s.commit c e.index ((s.core c).ent e.index) (l.bytes.map (fun b => ⟨b.1, b.2, 0xFF⟩)) e.pc).logDcr c 0x09 noPc 1
  | none => s

/-- BATCH_LINE_LANDING (R252, R253, R277): the line meets the phase sets of the cycle in which its bank serves it, and lands after the reads
of that cycle. -/
def execBatchLineLanding (c : Nat) (l : SubLine) (s : State) : Out :=
  if l.resync then .next (s.landResync c l)
  else s.onCycle c (.batchLineLanding c l) (fun s =>
    let k := s.core c
    let fin := fun (s0 : State) =>
      let s := s0.unask c (4, l.entry)
      if l.last then (s.modSub c (fun x => { x with
        dropRest := x.dropRest.filter (fun d => d ≠ (l.entry, l.batch)) })).batchDone c l else s
    let fresh := match (AMap.get? (s.core l.pub).sub.fwds l.fwd).bind (·.fresh) with
      | some n => decide (n < l.batch)
      | none => false
    let takes := (s.receives c || fresh) && k.seq.launch = (s.core l.pub).seq.launch
    if k.dropped l then .next (fin s)
    else if !takes then .next (fin ((s.staleDrop c l).dropRest c l))
    else match AMap.get? k.sub.subs l.entry with
      | none => .next (fin s)
      | some e =>
        let ent := k.ent e.index
        let j := (l.bytes.headD (0, 0)).1 / 64
        s.atBank c (4, l.entry) 14 ent j (.batchLineLanding c l) (some (fun s => s.deferLine c l)) none
          (some ⟨7, e.view, fun s => .next (fin ((s.refuse c 7 e.view l.pub).dropRest c l))⟩) (fun s =>
            let s1 := s.modCore c (fun k => k.busy 7 (s.cyc c) 1)
            .next (fin (s1.commit c e.index ent (l.bytes.map (fun b => ⟨b.1, b.2, 0xFF⟩)) e.pc))))

/-! ### Resync (R253, R38) -/

/-- The whole image of a forward entry of a publisher of a launch. -/
def Core.fwdImage (k : Core) (f : FwdEnt) : List (Nat × Byte) :=
  let e := k.ent f.index
  (List.range (entSize e)).map (fun b => (b, k.imgByte e b))

/-- The core that publishes by forward entry j: live, or in a saved context. -/
def State.fwdHome (s : State) (p j : Nat) : Option (Nat × Core × FwdEnt) :=
  match AMap.get? (s.core p).sub.fwds j with
  | some f => some (s.launchNo p, s.core p, f)
  | none => s.gangs.findSome? (fun g =>
      match AMap.get? g.2.saved p with
      | some k => (AMap.get? k.sub.fwds j).map (fun f => (g.2.launch, k, f))
      | none => none)

/-- SUBSCRIPTION_RESYNC: the publisher sends the whole image of hp as it stands; STALE clears, and batches sent after it reach a subscriber
that does not receive yet (R253). -/
def execSubscriptionResync (p : Nat) (j : Nat) (s : State) : Out :=
  match s.fwdHome p j with
  | some (l, k, f) =>
    let t := Nat.max (s.now + s.latT p f.sub) f.lineFree
    let s1 := s.modCoreIn l p (fun k => { k with sub := { k.sub with
      fwds := AMap.put k.sub.fwds j { f with stale := false, fresh := if s.receives f.sub then none else some f.batch, lineFree := t + s.cycLen f.sub } } })
    .next (s1.postEv t 5 (.batchLineLanding f.sub ⟨p, j, f.slot, 0, k.fwdImage f, true, true⟩))
  | none => .next s

/-- Publishers' forward entries to a core of a launch, as publisher and entry, live and saved. -/
def State.fwdsTo (s : State) (l c : Nat) : List (Nat × Nat × FwdEnt) :=
  let of := fun (p : Nat) (k : Core) => (k.sub.fwds.filter (fun f => f.2.sub = c)).map (fun f => (p, f.1, f.2))
  (s.cores.filter (fun q => q.2.seq.launch = some l)).flatMap (fun q => of q.1 q.2)
    ++ (s.gangs.filter (fun g => g.2.launch = l)).flatMap (fun g => g.2.saved.flatMap (fun q => of q.1 q.2))

/-- Resyncs asked for to a core of a launch: of every entry, or of those that are STALE. -/
def State.resyncs (s : State) (l c : Nat) (all : Bool) : State :=
  (s.fwdsTo l c).foldl (fun s f => if all || f.2.2.stale then s.postEv s.now 6 (.subscriptionResync f.1 f.2.1) else s) s

/-- Whether a resync to a core is still on its way. -/
def State.resyncing (s : State) (c : Nat) : Bool :=
  s.agenda.any (fun d => match d.act with
    | .ev (.batchLineLanding c2 l) => c2 = c && l.resync
    | .ev (.subscriptionResync p j) => match s.fwdHome p j with
      | some (_, _, f) => f.sub = c
      | none => false
    | _ => false)

/-- A core that resumes receives as before: its publishers' marks are gone. -/
def State.unfresh (s : State) (l c : Nat) : State :=
  (s.fwdsTo l c).foldl (fun s f => s.modCoreIn l f.1 (fun k => { k with sub := { k.sub with
    fwds := AMap.upd k.sub.fwds f.2.1 (fun x => { x with fresh := none }) } })) s

/-! ### SUBOFF and SUBSYNC (R254) -/

/-- SUBOFF: the entry is CLOSING, and the request reaches the publisher at t + L. -/
def execSuboff (_st : BitVec 20) (hl : Fin 256) (s : State) : Out :=
  let c := s.ic
  let k := s.ik
  match k.sub.byView hl.val with
  | some (id, e) =>
    let s1 := s.modSub c (fun x => { x with subs := AMap.put x.subs id { e with st := .closing } })
    s.checked (firstFail [k.chkView hl.val, s.chkField (e.st = .closing)])
      (s1.postEv (s.inst c (s.cyc c + s.latC c e.pub)) 2 (.suboffRequest e.pub c id))
  | none => s.checked (firstFail [k.chkView hl.val, s.chkField true]) s

/-- SUBOFF_REQUEST: an open window closes, its batch is sent, and the forward entry goes; either core may be preempted by now. -/
def execSuboffRequest (p : Nat) (c : Nat) (k : Nat) (s : State) : Out :=
  let l := (s.subHome c k).getD (s.launchNo c)
  let found := (s.coreIn l p).sub.fwds.find? (fun f => f.2.sub = c && f.2.slot = k)
  let s1 := match found with
    | some (j, _) =>
      let s2 := if (s.core p).seq.launch = some l then s.closeWin p j else s
      s2.modCoreIn l p (fun q => { q with sub := { q.sub with fwds := AMap.del q.sub.fwds j } })
    | none => s
  .next (s1.postEv (s1.inst c (s1.cyc c + s1.latC c p)) 6 (.suboffAck c k))

/-- SUBOFF_ACK: the acknowledgement arrives behind the last batch and frees the entry, in a saved context too. -/
def execSuboffAck (c : Nat) (k : Nat) (s : State) : Out :=
  match s.subHome c k with
  | none => .next s
  | some l =>
    match s.subEnt l c k with
    | some e =>
      let later := (s.agenda.filter (fun d => d.isLine c e.pub k)).map (·.t)
      if e.st ≠ .closing then .next s
      else match later.getLast? with
        | some t => .next (s.postEv t 14 (.suboffAck c k))
        | none => .next (s.modSubIn l c (fun x => { x with subs := AMap.del x.subs k }))
    | none => .next s

/-- SUBSYNC: every window of hp's forward entries closes at issue; it completes when their batches are acknowledged. -/
def execSubsync (_st : BitVec 20) (hp : Fin 256) (s : State) : Out :=
  let c := s.ic
  let k := s.ik
  let js := (k.sub.fwds.filter (fun f => f.2.index = k.vIdx hp.val && f.2.gen = (k.view hp.val).gen)).map (·.1)
  let id := s.nextId c
  let s1 := js.foldl (fun s j => s.closeWin c j) (s.useId c)
  let open_ := (s1.core c).sub.inflight.filter (fun i => js.contains i.fwd && i.ackAt.all (fun t => s.now < t))
  let s2 := s1.modSub c (fun x => { x with syncs := x.syncs ++ [⟨id, open_.map (fun i => (i.fwd, i.batch)), false⟩] })
  let t := open_.foldl (fun m i => Nat.max m (i.ackAt.getD 0)) (s.inst c (s.cyc c + 1))
  s.checked (k.chkView hp.val)
    (if open_.all (fun i => i.ackAt.isSome) then s2.postEv t 11 (.subsyncCompletion c id) else s2)

/-- SUBSYNC_COMPLETION: counted on channel 9; a CPYA that waits for it goes on (R275). -/
def execSubsyncCompletion (p : Nat) (id : Nat) (s : State) : Out :=
  match (s.core p).sub.syncs.find? (fun y => y.id = id) with
  | some y =>
    let s1 := (s.modSub p (fun x => { x with syncs := x.syncs.filter (fun z => z.id ≠ id) })).modEng p (fun e => e.release id)
    .next (((s1.count p 9 none y.notify 0).fenceKick p).kick p)
  | none => .next s

/-! ### Multicast (R255) -/

/-- The lowest member of a group outside a core's region; a preempted member lies in the region of its context. -/
def State.outside (s : State) (c : Nat) (ms : List Nat) : Option Nat :=
  let k := s.core c
  ms.find? (fun m => !(m = c || (k.seq.region.isSome && (s.coreIn (s.launchNo c) m).seq.region = k.seq.region)))

/-- MCWIN. -/
def execMcwin (_st : BitVec 20) (hs ht g : Fin 256) (s : State) : Out :=
  let c := s.ic
  let k := s.ik
  let ms := s.groupOf c g.val
  let bad := !ms.contains c || k.sub.mcs.any (fun w => w.index = k.vIdx hs.val) || 8 ≤ k.sub.mcs.length
  let w : McWin := ⟨k.vIdx hs.val, (k.view hs.val).gen, g.val, ht.val, s.cyc c + 1, s.issue.cur.bundle⟩
  s.checked (firstFail [k.chkView hs.val, k.chkView ht.val, s.chkField bad,
      failIf (s.outside c ms).isSome cMcwinDomain (BitVec.ofNat 64 ((s.outside c ms).getD 0))])
    (s.modSub c (fun x => { x with mcs := x.mcs ++ [w] }))

/-- MCOFF: stores committed by now still land. -/
def execMcoff (_st : BitVec 20) (hs : Fin 256) (s : State) : Out :=
  let c := s.ic
  let k := s.ik
  s.checked (firstFail [k.chkView hs.val, s.chkField (!k.sub.mcs.any (fun w => w.index = k.vIdx hs.val))])
    (s.modSub c (fun x => { x with mcs := x.mcs.filter (fun w => w.index ≠ k.vIdx hs.val) }))

/-- A landing at this instant from a lower source, which goes first. -/
def State.lowerMc (s : State) (c src : Nat) : Bool :=
  s.agenda.any (fun d => d.t ≤ s.now && match d.act with
    | .ev (.multicastLanding c2 m) => c2 = c && m.src < src
    | _ => false)

/-- MULTICAST_LANDING: checked against the member's sets; a failed target loses it (R255, R277). Its source may have been saved since. -/
def execMulticastLanding (c : Nat) (m : McStore) (s : State) : Out :=
  let k := s.core c
  let e := k.vEnt m.view
  if s.lowerMc c m.src then .next (s.postEv s.now 2 (.multicastLanding c m))
  else if !s.receives c || k.seq.launch ≠ some m.launch || !k.viewOk m.view || entSize e ≠ m.size then
    .next (s.logIn m.launch m.src 0x0E m.pc.toNat 1)
  else if !(s.landCore c).permits 8 m.view true then .next (s.refuse c 8 m.view m.src)
  else .next ((s.modCore c (fun k => k.busy 8 (s.cyc c) 1)).commit c (k.vIdx m.view) e m.bytes m.pc)

end Sys2Proof.Machine
end

