-- ==== Sys2Proof/Machine/Slip.lean ====
section
/-! DEFINITION. Source events (R40) and slip crossings (R42 to R46, R256). -/

namespace Sys2Proof.Machine

open Sys2Proof

/-! ### Source events -/

/-- The cores of an island (R18). -/
def islandCores (i : Nat) : List Nat :=
  (List.range 20).map (fun n => i / 8 * 256 + (i % 8 / 4 * 5 + n / 4) * 16 + i % 4 * 4 + n % 4)

/-- The launch record by number. -/
def State.launchRec (s : State) (l : Nat) : Option Launch := AMap.get? s.launches l

/-- The lowest live die of a launch's partition, and its launch id (R338). -/
def State.launchDie (s : State) (l : Nat) : Nat := match s.launchRec l with | some x => s.ctxDie x.ctx | none => 0
def State.launchId (s : State) (l : Nat) : BitVec 16 := match s.launchRec l with | some x => x.img.launchId | none => 0

/-- A source event of a region: one occurrence in the register of every core of its islands, and one trace record whose source is the
lowest of them (R40, R338). A core that its launch does not name has the event too, unless another launch holds it (log 43). -/
def State.sourceEvent (s : State) (r code : Nat) (rec : Bool) : State :=
  match AMap.get? s.regions r with
  | some g =>
    let cs := (g.desc.isl.flatMap islandCores).filter s.liveCore
    let s1 := cs.foldl (fun s c =>
      if (s.core c).seq.launch.isNone && (s.savedIn g.launch c).isNone then s.logDcr c code noPc 1 else s.logIn g.launch c code noPc 1) s
    if rec then s1.traceOther (s1.launchDie g.launch) (cs.foldl Nat.min 0xFFFF) 0x0D (s1.launchId g.launch)
      (BitVec.ofNat 64 (code + g.desc.rid * 2 ^ 8))
    else s1
  | none => s

/-! ### Ends of a crossing -/

/-- The region of a launch that holds an island. -/
def State.regionOf (s : State) (l isl : Nat) : Option (Nat × Region) :=
  s.regions.find? (fun p => p.2.launch = l && p.2.desc.isl.contains isl)

/-- The sample period at an end (R42). -/
def State.period (s : State) (x : Crossing) (isl : Nat) : Nat :=
  match s.regionOf x.launch isl with
  | some (_, g) => if g.desc.src = 0 then x.desc.sdiv * 10 * tick else g.desc.nper * nperUnit
  | none => x.desc.sdiv * 10 * tick

/-- The state of an end as SLPST reports it (R46). -/
def State.endState (s : State) (x : Crossing) (isl : Nat) : Nat :=
  match s.regionOf x.launch isl with
  | some (_, g) =>
    if g.desc.src = 0 then 0
    else match g.st with | .running => 0 | .held => 1 | .stopped => 2 | .relocking => 3
  | none => 0

/-- A SLIP of a crossing: counted, logged in the consumer's region, and traced (R40, R45, R338). -/
def State.slipped (s : State) (n : Nat) (x : Crossing) (j : Int) : State :=
  let x2 : Crossing := { x with soff := x.soff - j, slip := x.slip + 1 }
  let s1 : State := { s with cross := AMap.put s.cross n x2 }
  let s2 := match s1.regionOf x.launch x.desc.cisl with
    | some (r, _) => s1.sourceEvent r 0x05 false
    | none => s1
  s2.traceOther (s2.launchDie x.launch) (0xF000 + n / 16) 0x0E (s2.launchId x.launch)
    (BitVec.ofNat 64 n ||| (ofI 64 j <<< 32))

/-- The sender of a sample that arrives now has sent it. -/
def State.sampleSent (s : State) (n : Nat) : State :=
  let mine := fun (m : MiscSend) => m.record.isNone && m.x = n && m.at_.any (fun t => t ≤ s.now)
  match s.cores.find? (fun p => p.2.eng.misc.any mine) with
  | some (c, k) =>
    let id := (k.eng.misc.find? mine).map (·.id)
    (s.modEng c (fun e => { e with misc := e.misc.filter (fun m => some m.id ≠ id) })).performed c
  | none => s

/-! ### Deliveries (R43, R44) -/

/-- A value multiplied by DF k times, each product rounded. -/
def decayed (df : Nat) : Nat → Nat → Nat
  | 0, v => v
  | k + 1, v => decayed df k (fmt32.mul .rne 0 v df).1

/-- The policy value of a channel (R44). -/
def Crossing.policy (x : Crossing) (c : Nat) : Nat :=
  let v := (((x.last.getD []).getD c 0)).toNat
  match x.desc.pol with
  | .hold => v
  | .zero => 0
  | .decay => decayed (x.desc.df.getD 0).toNat (x.run + 1) v

/-- A producer sample that the crossing keeps, by number. -/
def Crossing.sample (x : Crossing) (i : Int) : Option (List W32) := (x.xs.find? (fun p => (p.i : Int) = i)).map (·.vals)

/-- Whether a needed sample is missing. -/
def Crossing.missing (x : Crossing) (i : Int) : Bool := 0 ≤ i && (x.sample i).isNone

/-- xval(i, c). -/
def Crossing.xval (x : Crossing) (i : Int) (c : Nat) : Nat :=
  if i < 0 then 0
  else match x.sample i with
    | some vs => (vs.getD c 0).toNat
    | none => x.policy c

/-- The samples that y[n] needs, t = 0 to T - 1. -/
def Crossing.needs (x : Crossing) (n : Nat) : List Int :=
  let m : Int := ((n * x.desc.n / x.desc.d : Nat) : Int) + x.soff
  (List.range x.desc.t).map (fun t => m + t - (((x.desc.t / 2 : Nat) : Int) - 1))

/-- y[n] (R43). -/
def Crossing.output (x : Crossing) (n : Nat) : List W32 :=
  let p := n * x.desc.n % x.desc.d * x.desc.ptab / x.desc.d
  let is := x.needs n
  (List.range x.desc.ch).map (fun c =>
    BitVec.ofNat 32 (is.zipIdx.foldl (fun acc q =>
      (fmt32.fma .rne 0 ((x.desc.w.getD (p * x.desc.t + q.2) 0).toNat) (x.xval q.1 c) acc).1) 0))

/-- Consumer sample n + LAT begins at an instant: y[n] is computed and delivered (R44). -/
def Crossing.deliver (x : Crossing) (at_ n : Nat) : Crossing :=
  let stale := (x.needs n).any x.missing
  { x with
    deliv := x.deliv + 1, stale := if stale then x.stale + 1 else x.stale, run := if stale then x.run + 1 else 0
    ys := (x.ys ++ [(n, x.output n)]).drop (x.ys.length + 1 - 64), was := some ⟨at_, n, x.soff, x.stale, x.run⟩ }

/-- A sample that comes with a tick that is not behind the instant of the last delivery is available to it: y[n] is what it is with the
sample (R44, log 39). -/
def Crossing.comes (a : Nat) (x : Crossing) : Crossing :=
  match x.was with
  | some q =>
    if a ≤ q.at_ then
      let y : Crossing := { x with soff := q.soff, stale := q.stale, run := q.run, deliv := x.deliv - 1, ys := x.ys.dropLast }
      { y.deliver q.at_ q.n with soff := x.soff }
    else x
  | none => x

/-- PRODUCER_SAMPLE_ARRIVAL: the sample is recorded with its tick, a whole one (log 39), a delivery of that tick has it, and a slip is taken
when J is not 0 (R44, R45). -/
def execProducerSampleArrival (x : Fin 64) (vals : List W32) (s : State) : Out :=
  let s0 := s.sampleSent x.val
  match AMap.get? s0.cross x.val with
  | some y =>
    let i := y.recv
    let a : Nat := s0.ptc * tick
    let t0 : Int := if i = 0 then a else y.t0
    let tp := s0.period y y.desc.pisl
    let y2 := Crossing.comes a { y with
      recv := i + 1, t0 := t0, last := some vals, xs := (y.xs ++ [(⟨i, a, vals⟩ : XSample)]).drop (y.xs.length + 1 - 64) }
    let j : Int := if tp = 0 then 0 else ((a : Int) - (t0 + i * tp)).tdiv tp
    if j ≠ 0 && s0.endState y y.desc.pisl = 0 then
      .next (s0.slipped x.val { y2 with t0 := t0 + j * tp } j)
    else .next { s0 with cross := AMap.put s0.cross x.val y2 }
  | none => .next s0

/-- The consumer has left STOPPED: SOFF is set so that m + T/2 = R - 1 at this delivery, in one slip (R45). -/
def State.reanchor (s : State) (k : Nat) (x : Crossing) (n : Nat) : State :=
  if !x.reanchor then s
  else
    let m0 : Int := ((n * x.desc.n / x.desc.d : Nat) : Int)
    let soff : Int := (x.recv : Int) - 1 - ((x.desc.t / 2 : Nat) : Int) - m0
    s.slipped k { x with reanchor := false } (x.soff - soff)

/-- CONSUMER_SAMPLE_DELIVERY: consumer sample nextN begins, and y[nextN - LAT] is delivered (R42, R44). -/
def execConsumerSampleDelivery (x : Fin 64) (s : State) : Out :=
  match AMap.get? s.cross x.val with
  | some y0 =>
    let n := y0.nextN - y0.desc.lat
    let s1 := if y0.nextN < y0.desc.lat then s else s.reanchor x.val y0 n
    let y := (AMap.get? s1.cross x.val).getD y0
    let y2 : Crossing := { (if y.nextN < y.desc.lat then y else y.deliver s.now n) with nextN := y.nextN + 1 }
    let s2 : State := { s1 with cross := AMap.put s1.cross x.val y2 }
    let timebase : Bool := match s2.regionOf y.launch y.desc.cisl with
      | some (_, g) => g.desc.src = 0
      | none => true
    .next (if timebase then s2.postEv (y.inst + y2.nextN * (y.desc.sdiv * 10 * tick)) 2 (.consumerSampleDelivery x) else s2)
  | none => .next s

/-! ### The instructions (R256) -/

/-- A crossing that a core's launch has installed. -/
def State.crossingOf (s : State) (c x : Nat) : Option Crossing :=
  match AMap.get? s.cross x with
  | some y => if (s.core c).seq.launch = some y.launch then some y else none
  | none => none

/-- LXc of R256, in the issuer's cycles. -/
def State.lxc (s : State) (c x : Nat) : Nat := toRegion (s.lockedRegion (s.core c)) (s.ioLat (coreDie c) (x / 16))

/-- SLPWR: elements read in bank cycle t + 1 and sent as the next producer sample. -/
def execSlpwr (_st : BitVec 20) (x : Fin 64) (h : Fin 256) (sa : Fin 32) (s : State) : Out :=
  let c := s.ic
  let k := s.ik
  let e := k.vEnt h.val
  let y := s.crossingOf c x.val
  let n := (y.map (·.desc.ch)).getD 0
  let off := getF (s.gs sa) 0 32
  let inside := off + n ≤ entCount e
  let us := if inside then footprint e (s.cyc c + 1) 1 (linesOf (off * 8) (n * 8)) else none
  let id := s.nextId c
  let m : MiscSend := { id := id, waits := k.waits, record := none, x := x.val, src := some (h.val, s.ik.vIdx h.val), vals := none, t0 := s.now, at_ := none, hw := false }
  s.checked
    (firstFail [k.chkView h.val, chkTag (entTag e = .fp32) (entTag e), k.chkRw 0 h.val false, chkRange inside h.val,
      s.chkField (!y.any (fun q => q.desc.pisl = coreIsland c)),
      match us with | some l => chkBusy (k.bankBusy l) | none => chkBusy true])
    ((((s.claim c (us.getD [])).useId c).modEng c (fun z => { z with misc := z.misc ++ [m] })).tileOp c 1
      (.load h.val e (.slp id off n)))

/-- A read of a crossing asked for. -/
def State.slipForm (s : State) (x : Fin 64) (h : Fin 256) (t : Tag) (n off : Nat) (r : SlipRes) (ok : Crossing → Bool) : Out :=
  let c := s.ic
  let k := s.ik
  let e := k.vEnt h.val
  s.checked
    (firstFail [k.chkView h.val, chkTag (entTag e = t) (entTag e), k.chkRw 8 h.val true, chkRange (off + n ≤ entCount e) h.val,
      s.chkField (!(s.crossingOf c x.val).any ok)])
    (((s.useId c).modEng c (fun z => { z with slips := z.slips ++ [r] })).kick c)

/-- SLPRD: y[n] as held LXc after issue lands at t + 2·LXc + 4. -/
def execSlprd (_st : BitVec 20) (x : Fin 64) (h : Fin 256) (sa : Fin 32) (s : State) : Out :=
  let c := s.ic
  let off := getF (s.gs sa) 32 32
  let n := ((s.crossingOf c x.val).map (·.desc.ch)).getD 0
  s.slipForm x h .fp32 n off
    ⟨s.nextId c, s.ik.waits, h.val, s.ik.vIdx h.val, x.val, getF (s.gs sa) 0 32, off, false, false, none, none⟩
    (fun y => y.desc.cisl = coreIsland c)

/-- SLPST: the status word lands at t + 2·LXc + 4. -/
def execSlpst (_st : BitVec 20) (x : Fin 64) (h : Fin 256) (sa : Fin 32) (s : State) : Out :=
  let c := s.ic
  let off := getF (s.gs sa) 0 32
  s.slipForm x h .raw32 4 off
    ⟨s.nextId c, s.ik.waits, h.val, s.ik.vIdx h.val, x.val, 0, off, true, false, none, none⟩
    (fun y => y.desc.cisl = coreIsland c || y.desc.pisl = coreIsland c)

/-- A read that nothing holds leaves for the crossing. -/
def State.slipSend (s : State) (c : Nat) (r : SlipRes) : State :=
  if !r.waits.isEmpty || r.sent then s
  else
    let s1 := s.modEng c (fun z => { z with slips := mapIf (fun q => q.id = r.id) (fun q => { q with sent := true }) z.slips })
    (s1.postEv (s1.inst c (s1.cyc c + s1.lxc c r.x)) 3 (.slpResultLanding c r.id)).fenceKick c

/-- A count that holds at all ones of n bits. -/
def sat (n v : Nat) : Nat := if v < 2 ^ n then v else 2 ^ n - 1

/-- The status word of a crossing, as four elements (R46). -/
def State.slipStatus (s : State) (y : Crossing) : List W32 :=
  let w := s.endState y y.desc.pisl + s.endState y y.desc.cisl * 2 ^ 2 + sat 24 y.slip * 2 ^ 16 + sat 24 y.stale * 2 ^ 40
    + sat 32 y.deliv * 2 ^ 64 + y.recv % 2 ^ 32 * 2 ^ 96
  (List.range 4).map (fun i => BitVec.ofNat 32 (fld w (32 * i) 32))

/-- What a read finds at its crossing: every channel a NaN where y[n] is not among the last 64 delivered. -/
def State.slipRead (s : State) (r : SlipRes) : List W32 :=
  match AMap.get? s.cross r.x with
  | some y =>
    if r.status then s.slipStatus y
    else match y.ys.find? (fun p => p.1 = r.n) with
      | some p => p.2
      | none => List.replicate y.desc.ch 0x7FC00000
  | none => []

/-- The lines of the image where a read lands, by their place among them. -/
def SlipRes.lines (r : SlipRes) (n : Nat) : List Nat := once (linesOf (r.off * 8) (n * 8))

/-- One line of a read served or not in cycle q: its bytes land, and it is taken off the list. -/
def State.slipLine (s : State) (c q : Nat) (r : SlipRes) (vs : List W32) (i : Nat) : State :=
  let k := s.core c
  let e := k.ent r.index
  let j := (r.lines vs.length).getD i 0
  let id := (6, r.id * 16 + i)
  if !k.served id (entBank e j) q then s
  else
    let bs := (wholeBytes (r.off * 4) (vs.flatMap (fun v => leBytes 4 v.toNat))).filter (fun b => b.off / 64 = j)
    let s1 := (s.serve c id (entBank e j) (entLine e j) q).modCore c (fun k => k.busy 8 q 1)
    (s1.commit c r.index e bs 0).modEng c (fun z => { z with slips := mapIf (fun x => x.id = r.id) (fun x => { x with todo := x.todo.map (fun l => l.filter (fun n => n ≠ i)) }) z.slips })

/-- SLP_RESULT_LANDING: the crossing is read, and LXc + 4 cycles later the result lands in the entry resolved at issue, each of its lines
once its bank serves it as class 4 (R85). -/
def execSlpResultLanding (c : Nat) (id : Nat) (s : State) : Out :=
  match (s.core c).eng.slips.find? (fun r => r.id = id) with
  | none => .next s
  | some r =>
    match r.got with
    | none =>
      let vs := s.slipRead r
      let s1 := s.modEng c (fun z => { z with slips := mapIf (fun q => q.id = id) (fun q => { q with got := some vs, todo := some (List.range (r.lines vs.length).length) }) z.slips })
      .next (s1.postEv (s1.inst c (s1.cyc c + s1.lxc c r.x + 4)) 5 (.slpResultLanding c id))
    | some vs => s.onCycle c (.slpResultLanding c id) (fun s =>
      let k := s.core c
      let q := s.cyc c
      let e := k.ent r.index
      let todo := r.todo.getD []
      if todo.any (fun i => k.asking (6, id * 16 + i) q) then
        let s1 := todo.foldl (fun s i => s.slipLine c q r vs i) s
        let left := ((s1.core c).eng.slips.find? (fun x => x.id = id)).bind (·.todo)
        if (left.getD []).isEmpty then .next ((s1.modEng c (fun z => { z with slips := z.slips.filter (fun x => x.id ≠ id) })).performed c)
        else .next (s1.postEv (s1.inst c (q + 1)) 5 (.slpResultLanding c id))
      else
        let s1 := todo.foldl (fun s i => s.ask c (6, id * 16 + i) (entBank e ((r.lines vs.length).getD i 0)) q none) s
        .next (s1.postEv s1.now 12 (.slpResultLanding c id)))

end Sys2Proof.Machine
end

