-- ==== Sys2Proof/Machine/Coll.lean ====
section
/-! DEFINITION. Collectives: the COLL instruction (R247), its instances (R121, R248 to R250, R289), and what Kamrex and Ethernet carry
of them (R322, R324, R325). -/

namespace Sys2Proof.Machine

open Sys2Proof

/-! ### Combining (R121, R247) -/

/-- The combination of an op, as the receiver of a CPYA makes it. -/
def collElem : CollOp → CpyaOp
  | .sumF32 => .addF32
  | .sumI32 => .addI32
  | .minF32 => .minF32
  | .maxF32 => .maxF32
  | .minI32 => .minI32
  | .maxI32 => .maxI32

/-- Two ranks combined, the lower on the left. -/
def collPair (op : CpyaOp) (a b : List W32) : List W32 × Flags :=
  (List.range (Nat.max a.length b.length)).foldl (fun (p : List W32 × Flags) i =>
    let r := cpyaElem op ((a.getD i 0).toNat) ((b.getD i 0).toNat)
    (p.1 ++ [BitVec.ofNat 32 r.1], p.2 ||| r.2)) ([], 0)

/-- One level of the tree: pairs (0, 1), (2, 3) and so on, an unpaired last entry unchanged. -/
def collLevel (op : CpyaOp) : List (List W32) → List (List W32) × Flags
  | a :: b :: r =>
    let p := collPair op a b
    let q := collLevel op r
    (p.1 :: q.1, p.2 ||| q.2)
  | l => (l, 0)

/-- The tree of R121, level by level until one value remains. -/
def collTree (op : CpyaOp) : Nat → List (List W32) → List W32 × Flags
  | 0, l => (l.headD [], 0)
  | n + 1, l =>
    match l with
    | [] => ([], 0)
    | [a] => (a, 0)
    | _ =>
      let p := collLevel op l
      let q := collTree op n p.1
      (q.1, p.2 ||| q.2)

/-- Ranks combined (R121). -/
def collSum (op : CollOp) (l : List (List W32)) : List W32 × Flags := collTree (collElem op) l.length l

/-! ### Instances -/

/-- Whether the ranks of a kind are combined element by element. -/
def combines : CollKind → Bool
  | .ar | .rs => true
  | .ag | .bc => false

/-- The ranks of an instance. -/
def CollInst.ranks (x : CollInst) : Nat := x.m * x.devCount

/-- Elements that a participant reads from SVA, and that it writes to DVA (R248). -/
def CollInst.reads (x : CollInst) (rank : Nat) : Nat :=
  match x.kind with
  | .ar | .ag => x.count
  | .rs => x.count * x.ranks
  | .bc => if rank = x.root then x.count else 0
def CollInst.writes (x : CollInst) : Nat := if x.kind = .ag then x.count * x.ranks else x.count

/-- The contributions of the package, in rank order. -/
def CollInst.sources (x : CollInst) : List (List W32) :=
  (List.range x.m).map (fun q =>
    ((x.parts.find? (fun p => p.rank = x.devRank * x.m + q)).bind (·.data)).getD [])

/-- The elements of a rank's destination that a contribution or a partial holds. -/
def CollInst.slice (x : CollInst) (rank : Nat) (l : List W32) : List W32 :=
  if x.kind = .rs then (l.drop (rank * x.count)).take x.count else l

/-- The partial of the package: its local ranks combined first, or gathered (R325). -/
def CollInst.partial_ (x : CollInst) (l : List (List W32)) : List W32 × Flags :=
  if combines x.kind then collSum x.op l else (l.flatten, 0)

/-- The partials of the devices, in device order. -/
def CollInst.devices (x : CollInst) (rank : Nat) : List (List W32) × Flags :=
  let mine := x.partial_ (x.sources.map (x.slice rank))
  ((List.range x.devCount).map (fun d =>
    if d = x.devRank then mine.1 else x.slice rank ((AMap.get? x.remote d).getD [])), mine.2)

/-- What a rank's destination receives, with the flags of the additions that made it (R112, R248). -/
def CollInst.dest (x : CollInst) (rank : Nat) : List W32 × Flags :=
  let ds := x.devices rank
  if combines x.kind then
    let r := collSum x.op ds.1
    (r.1, ds.2 ||| r.2)
  else (ds.1.flatten, 0)

/-- An instance that has ended without a result. -/
def CollInst.over_ (x : CollInst) : Option Nat :=
  match x.st with
  | .aborted => some 9
  | .mismatch => some 10
  | _ => none

/-- An instance changed. -/
def State.modInst (s : State) (i : Nat) (f : CollInst → CollInst) : State :=
  { s with insts := AMap.upd s.insts i f }

/-! ### Commands of participants -/

/-- A participant's command of an instance. -/
def Core.collOf (k : Core) (i : Nat) : Option CollCmd := k.eng.colls.toList.flatten.find? (fun x => x.inst = i)

/-- Commands of an instance changed on a core, and taken away. -/
def Core.modColl (k : Core) (i : Nat) (f : CollCmd → CollCmd) : Core :=
  k.withEng (fun e => { e with colls := e.colls.map (fun l => mapIf (fun x => x.inst = i) f l) })
def Core.dropColl (k : Core) (i : Nat) : Core :=
  k.withEng (fun e => { e with colls := e.colls.map (fun l => l.filter (fun x => x.inst ≠ i)) })

/-- Whether a core's context is saved or being moved, so that its engines start nothing (R65, R250). -/
def State.away (s : State) (l c : Nat) : Bool :=
  (s.core c).seq.launch ≠ some l || (s.core c).seq.st = .suspend

/-- A trace record of a participant, live or saved. -/
def State.collTrace (s : State) (ty c step : Nat) (x : CollInst) (rank : Nat) : State :=
  s.recordIn x.launch c ty (BitVec.ofNat 64 (x.g + rank % 2 ^ 16 * 2 ^ 8 + step * 2 ^ 24 + x.k % 2 ^ 32 * 2 ^ 32))

/-- The records of a participant's steps: its own, and with XCID ≠ 0 that of the switch stage (R338). -/
def State.collSteps (s : State) (ty c : Nat) (x : CollInst) (rank : Nat) : State :=
  let s1 := s.collTrace ty c 0 x rank
  if x.xcid = 0 then s1 else s1.collTrace ty c 1 x rank

/-- How a participant's command ends is settled; it completes once its status word is written. -/
def State.collSettle (s : State) (i c : Nat) (x : CollInst) (code lines : Nat) (faddr : W64) (f : Flags) : State :=
  (s.modCoreIn x.launch c (fun k => k.modColl i (fun y => { y with
    code := some code, lines := lines, faddr := faddr, flags := f }))).postEv s.now 11 (.collCompletion i c)

/-- The requester that writes the status word of a core's command of an instance. -/
def collReq (i : Nat) : Nat × Nat := (7, i)

/-- A participant's command completes: the status word is written and the completion counted in one cycle (R228), live or in
the saved context (R250); its last access is performed then (R287), and with OK, G advances where the group holds every core of the
launch (R278). -/
def State.collFinish (s : State) (i c : Nat) (x : CollInst) (y : CollCmd) (code : Nat) : State :=
  let l := x.launch
  let word := wholeBytes 60 (leBytes 4 (statusWord y.lines code))
  let live := (s.core c).seq.launch = some l
  let s1 := if live then s.commit c y.dindex ((s.core c).ent y.dindex) word y.pc
    else s.modCoreIn l c (fun k => k.store (k.ent y.dindex) word)
  let s2 := s1.modCoreIn l c (fun k =>
    let k1 := (k.counted s.now (s.cyc c) (4 + y.ch) (codeFault code y.faddr) y.notify y.flags).dropColl i
    { k1 with
      ct := { k1.ct with g := if code = 0 && y.counts then k1.ct.g + 1 else k1.ct.g }
      eng := { k1.eng with lastPerf := s.now }
      fl := { k1.fl with reqs := k1.fl.reqs.filter (fun q => q.id ≠ collReq i) } })
  let rank := ((x.parts.find? (fun p => p.cmd = y.id && p.core = c)).map (·.rank)).getD 0
  let s3 := s2.collSteps 0x08 c x rank
  let s4 := if code = 9 then s3.logIn l c 0x08 y.pc.toNat 1 else s3
  if live then ((s4.wakeUi c).fenceKick c).kick c else s4

/-- An instance ends for every participant: commands that have contributed, or whose core runs, complete with the code; one that
is saved as unissued finds it at its resume (R249, R250). A command that has ended with a source fault keeps that status, and its
core logs the abort too. -/
def State.collEnd (s : State) (i : Nat) (st : CollSt) : State :=
  match AMap.get? s.insts i with
  | some x =>
    let first := x.over_.isNone
    let s1 := if first then s.modInst i (fun x => { x with st := st }) else s
    x.parts.foldl (fun s p =>
      match (s.coreIn x.launch p.core).collOf i with
      | some y =>
        let s := if first && st = .aborted && y.code.isSome then s.logIn x.launch p.core 0x08 p.pc.toNat 1 else s
        if s.away x.launch p.core && !y.sent then s else s.postEv s.now 11 (.collCompletion i p.core)
      | none => if first && st = .aborted then s.logIn x.launch p.core 0x08 p.pc.toNat 1 else s) s1
  | none => s

/-! ### COLL (R247) -/

/-- The collective context of an XCID in a core's partition; 0 stays within the package. -/
def State.xcidOf (s : State) (c xcid : Nat) (n : Nat) : Option XcidCtx :=
  if xcid = 0 then some ⟨0, 0, 1, n, []⟩
  else (s.ctxs.toArray.getD (s.ctxOf c) .init).xcids.find? (fun x => x.xcid = xcid)

/-- The instance that a COLL forms or joins: its number, the instance, and whether the COLL differs from the first arrival (R248). -/
def State.collJoin (s : State) (x : CollInst) : Nat × CollInst × Bool :=
  match s.insts.find? (fun p => p.2.launch = x.launch && p.2.g = x.g && p.2.k = x.k) with
  | some (i, y) =>
    let same := y.kind = x.kind && y.op = x.op && y.count = x.count && y.xcid = x.xcid && y.root = x.root
      && y.deadline = x.deadline && y.m = x.m
    (i, y, !same)
  | none => (s.nextKey, x, false)

/-- COLL. -/
def execColl (_st : BitVec 20) (kind : CollKind) (ch : Fin 4) (n : Bool) (g : Fin 256) (hd : Fin 256) (op : CollOp)
    (s : State) : Out :=
  let c := s.ic
  let k := s.ik
  let de := k.vEnt hd.val
  let bs := k.descBytes de
  let ms := s.groupOf c g.val
  let count := descNum bs 16 4
  let xcid := descNum bs 20 2
  let root := descNum bs 22 2
  let dead : W64 := BitVec.ofNat 64 (descNum bs 24 8)
  let cx := s.xcidOf c xcid ms.length
  let x := cx.getD ⟨0, 0, 1, ms.length, []⟩
  let num := (AMap.get? k.eng.collK g.val).getD 0 + 1
  let rank := x.rank * x.m + (ms.filter (fun d => d < c)).length
  let fresh : CollInst := {
    launch := s.launchNo c, g := g.val, k := num, kind := kind, op := op, count := count, xcid := xcid, root := root
    deadline := dead, m := x.m, devRank := x.rank, devCount := x.count, parts := [], remote := []
    st := .open_ }
  let j := s.collJoin fresh
  let id := s.nextId c
  let inst : CollInst := { j.2.1 with parts := j.2.1.parts ++ [⟨c, rank, id, s.issue.cur.bundle, none⟩] }
  let holds := match s.launchOf c with
    | some (_, l) => (imageCores l.img).all (fun d => ms.contains d)
    | none => false
  let sync := k.eng.chans.toList.flatten.map (·.id) ++ k.eng.amos.map (·.id) ++ k.eng.scs.map (·.id)
  let cmd : CollCmd := {
    id := id, ch := ch.val, inst := j.1, notify := n, pc := s.issue.cur.bundle, priv := k.priv, view := hd.val
    dindex := k.vIdx hd.val, sva := BitVec.ofNat 64 (descNum bs 0 8), dva := BitVec.ofNat 64 (descNum bs 8 8), count := count
    waits := k.waits ++ sync, t0 := s.now, g := k.ct.g, sent := false, code := none, faddr := 0, lines := 0, flags := 0, counts := holds }
  let s1 := (s.claim c (descUse de (s.cyc c + 1))).useId c
  let s2 := s1.modEng c (fun e => { e with
    collK := AMap.put e.collK g.val num
    colls := e.colls.setIfInBounds ch.val (e.colls.toArray.getD ch.val [] ++ [cmd]) })
  let isNew := j.1 = s.nextKey
  let s3 : State := { s2 with insts := AMap.put s2.insts j.1 inst, nextKey := if isNew then s2.nextKey + 1 else s2.nextKey }
  let s4 := if isNew then s3.postEv (dead.toNat * tick) 7 (.collDeadline j.1) else s3
  let wrong := j.2.2 || x.count * x.m ≤ root || x.m ≠ ms.length
  let eff := if inst.over_.isSome then s4.collEnd j.1 inst.st
    else if wrong then s4.collEnd j.1 .mismatch
    else if dead.toNat * tick < s.now then s4.collEnd j.1 .aborted
    else s4.kick c
  s.checked
    (firstFail [chkBusy (4 ≤ (k.eng.colls.toArray.getD ch.val []).length), k.chkView hd.val,
      chkTag (entTag de = .raw32) (entTag de), chkRange (16 ≤ entCount de) hd.val,
      s.chkField (count = 0 || 2 ^ 24 < count || descNum bs 32 28 ≠ 0), s.chkField cx.isNone, k.chkRw 0 hd.val true,
      s.chkField (!ms.contains c), chkBusy (k.bankBusy (descUse de (s.cyc c + 1)))]) eff

/-! ### Buffers in device memory -/

/-- The lines of a buffer in ascending order, as the VA of their first byte in it and the number of bytes. -/
def bufLines (va n : Nat) : List (Nat × Nat) :=
  if n = 0 then []
  else (List.range (cdiv (va % 64 + n) 64)).map (fun j =>
    let a := if j = 0 then va else va / 64 * 64 + 64 * j
    let b := Nat.min (va + n) (va / 64 * 64 + 64 * (j + 1))
    (a % 2 ^ 64, b - a))

/-- For whom a collective engine accesses memory: the launch and its context, the participant, its command's generation, privilege and
bundle, and the I/O die of the engine. -/
structure CollFor where
  launch : Nat
  ctx : Nat
  core : Nat
  g : Nat
  priv : Bool
  pc : W64
  io : Nat
  deriving DecidableEq, Repr

/-- An access of a collective engine for a participant: translated as the participant's launch translates, checked under
the engine's own master id (R248), and on a CHK page by the race detector as a copy of the participant is (R291). -/
def State.collAccess (s : State) (f : CollFor) (va n : Nat) (x : XKind) : State × Except Nat Trans :=
  match s.translate f.ctx va x f.priv s.free with
  | none => (s.drawn, .error 1)
  | some t =>
    let s := s.drawn
    let p := (s.dpa (s.moved t.dpa)).getD (0, t.dpa)
    if !s.grants p.1 (0x104 + f.io) x t.key then (s.logDenial p.1 (0x104 + f.io) va x, .error 3)
    else if t.chk && p.1 < 9 then
      let r := s.raceCheck p.1 f.core (p.2 / 64) f.g x f.pc
      if r.2 then (r.1, .error 2) else (r.1.agentCount t.dpa n, .ok t)
    else (s.agentCount t.dpa n, .ok t)

/-- A line of a source: where a write of its launch since the COLL was issued has changed a word, that word is freely the old value or the
new one (R289). -/
def State.collLine (s : State) (f : CollFor) (since : Nat) (t : Trans) (n : Nat) : State × List Byte :=
  let a := s.moved t.dpa
  let s1 := s.underKey t.key a n
  let h := s.histOf f.launch (s.lineOf a)
  if h.olds.any (fun o => since ≤ o.at_) then (s.drawnLine, s1.openBytes a n (h.oldOf since)) else (s, s1.memBytes a n)

/-- A source read line by line: its bytes, or the code and the line of its failure. -/
def State.collRead (s : State) (f : CollFor) (since : Nat) : List (Nat × Nat) → State × Except (Nat × Nat) (List Byte)
  | [] => (s, .ok [])
  | q :: r =>
    let p := s.collAccess f q.1 q.2 .read
    match p.2 with
    | .error e => (p.1, .error (e, q.1 / 64 * 64))
    | .ok t =>
      let b := p.1.collLine f since t q.2
      let rest := b.1.collRead f since r
      match rest.2 with
      | .error e => (rest.1, .error e)
      | .ok bs => (rest.1, .ok (b.2 ++ bs))

/-- A line of a destination as the instance leaves it: a word that a write of its launch has changed since the COLL was issued freely keeps
what that write left, or takes the collective's (R289). -/
def State.collMix (s : State) (f : CollFor) (since : Nat) (t : Trans) (bs : List Byte) : State × List Byte :=
  let a := s.moved t.dpa
  let old := (s.underKey t.key a bs.length).memBytes a bs.length
  let h := s.histOf f.launch (s.lineOf a)
  let open_ := fun (b : Nat) => h.olds.any (fun o => o.word = b % 64 / 4 && since ≤ o.at_)
  if (List.range bs.length).any (fun j => open_ (a + j)) then
    (s.drawnLine, bs.zipIdx.map (fun p =>
      if open_ (a + p.2) && Config.freeNat (s.freeCtr + (a + p.2) % 64 / 4) % 2 = 1 then old.getD p.2 0 else p.1))
  else (s, bs)

/-- A destination written line by line up to the first that fails: the lines written, the code and the failing line. -/
def State.collWrite (s : State) (f : CollFor) (since : Nat) : List (Nat × Nat) → List Byte → Nat → State × Nat × Nat × Nat
  | [], _, n => (s, n, 0, 0)
  | q :: r, bs, n =>
    let p := s.collAccess f q.1 q.2 .write
    match p.2 with
    | .error e => (p.1, n, e, q.1 / 64 * 64)
    | .ok t =>
      let m := (p.1.dirtiedFrom t.dpa q.2).collMix f since t (bs.take q.2)
      (m.1.homeWrite f.launch f.core f.g t.key (m.1.moved t.dpa) m.2 true).collWrite f since r (bs.drop q.2) (n + 1)

/-- A row of a collective engine that waits at the home of a page that is being moved (R96). -/
def State.collHeld (s : State) (f : CollFor) (x : XKind) (ls : List (Nat × Nat)) (retry : Instr) : Option State :=
  ls.findSome? (fun q => (s.translate f.ctx q.1 x f.priv s.free).bind (fun t => s.heldRow t.dpa q.2 retry))

/-- Words of bytes. -/
def wordsOf : Nat → List Byte → List W32
  | 0, _ => []
  | n + 1, bs => BitVec.ofNat 32 (ofLe (bs.take 4)) :: wordsOf n (bs.drop 4)

/-! ### Contributions and completions (R248) -/

/-- Every participant's completion comes after a time of its own. -/
def State.collMerged (s : State) (i : Nat) : State :=
  match AMap.get? s.insts i with
  | some x => x.parts.foldl (fun s p => s.postFree s.now 11 (.collCompletion i p.core)) s
  | none => s

/-- The package's ranks have all contributed: its instance is merged, or its partial goes to the switch. -/
def State.collLocal (s : State) (i : Nat) : State :=
  match AMap.get? s.insts i with
  | some x =>
    if x.parts.length < x.m || x.parts.any (fun p => p.data.isNone) then s
    else if x.devCount ≤ 1 then (s.modInst i (fun x => { x with st := .merged })).collMerged i
    else s.postFree s.now 5 (.kamrexContrib i)
  | none => s

/-- COLL_CONTRIBUTION: a participant's source is read and merged; a source that fails ends its command at once. -/
def execCollContribution (i : Nat) (c : Nat) (s : State) : Out :=
  let k := s.core c
  match AMap.get? s.insts i, k.collOf i with
  | some x, some y =>
    if y.sent || y.code.isSome || s.away x.launch c then .next s
    else match x.over_ with
      | some code => .next (s.collSettle i c x code 0 0 0)
      | none =>
        if !(k.heldIds y.waits).isEmpty then .next s
        else
          let rank := ((x.parts.find? (fun p => p.core = c)).map (·.rank)).getD 0
          let n := x.reads rank
          let f : CollFor := ⟨x.launch, s.ctxOf c, c, y.g, y.priv, y.pc, s.free % 4⟩
          let ls := bufLines y.sva.toNat (4 * n)
          let s1 := s.drawn.collSteps 0x07 c x rank
          let p := s1.collRead f y.t0 ls
          match s.collHeld f .read ls (.collContribution i c), p.2 with
          | some h, _ => .next h
          | none, .error e => .next (p.1.collSettle i c x e.1 0 (BitVec.ofNat 64 e.2) 0)
          | none, .ok bs =>
            let s2 := p.1.modCore c (fun k => k.modColl i (fun y => { y with sent := true }))
            let s3 := s2.modInst i (fun x => { x with
              parts := mapIf (fun p => p.core = c) (fun p => { p with data := some (wordsOf n bs) }) x.parts })
            .next ((s3.collLocal i).fenceKick c)
  | _, _ => .next s

/-- COLL_COMPLETION: the destination is written after every contribution has merged, or the code of the end is taken; the command then
completes in the cycle in which its bank serves its status word, which comes as class 4 does (DESIGN CHOICE, log 11: R85 names no class for
it), or at once in a saved context. -/
def execCollCompletion (i : Nat) (c : Nat) (s : State) : Out :=
  match AMap.get? s.insts i with
  | some x =>
    match (s.coreIn x.launch c).collOf i with
    | some y =>
      match y.code, x.over_ with
      | some code, _ =>
        if (s.core c).seq.launch = some x.launch then
          s.atBank c (collReq i) 12 ((s.core c).ent y.dindex) 0 (.collCompletion i c) none none none (fun s =>
            .next (s.collFinish i c x y code))
        else .next (s.collFinish i c x y code)
      | none, some code => .next (s.collSettle i c x code 0 0 0)
      | none, none =>
        if x.st ≠ .merged then .next s
        else
          let rank := ((x.parts.find? (fun p => p.core = c)).map (·.rank)).getD 0
          let d := x.dest rank
          let f : CollFor := ⟨x.launch, ((s.launchRec x.launch).map (·.ctx)).getD 0, c, y.g, y.priv, y.pc, s.free % 4⟩
          let ls := bufLines y.dva.toNat (4 * x.writes)
          let w := s.drawn.collWrite f y.t0 ls (d.1.flatMap (fun w => leBytes 4 w.toNat)) 0
          match s.collHeld f .write ls (.collCompletion i c) with
          | some h => .next h
          | none => .next (w.1.collSettle i c x w.2.2.1 w.2.1 (BitVec.ofNat 64 w.2.2.2) d.2)
    | none => .next s
  | none => .next s

/-- COLL_DEADLINE: an instance that still misses a contribution aborts (R249). -/
def execCollDeadline (i : Nat) (s : State) : Out :=
  match AMap.get? s.insts i with
  | some x => .next (if x.st = .open_ || x.st = .sent then s.collEnd i .aborted else s)
  | none => .next s

/-! ### Kamrex and Ethernet (R322, R324) -/

/-- A Kamrex or Ethernet send of a COLL is acknowledged by its peer or switch (R284). -/
def State.sendAcked (s : State) (l c id : Nat) : State :=
  let s1 := s.modCoreIn l c (fun k => k.withEng (fun e => { e with acks := e.acks.filter (fun i => i ≠ id), lastPerf := s.now }))
  if (s1.core c).seq.launch = some l then s1.fenceKick c else s1

/-- What the participants of an instance have sent is not acknowledged yet, and will be, each after a time of its own. -/
def State.sendsOut (s : State) (x : CollInst) : State :=
  x.parts.foldl (fun s p =>
    (s.modCoreIn x.launch p.core (fun k => k.withEng (fun e => { e with acks := e.acks ++ [p.cmd] }))).drawn.postMi (s.now + s.free) 6
      (.sendAcked x.launch p.core p.cmd)) s

/-- KAMREX_CONTRIB: the package's partial leaves for the switch; where every other device's has come over Ethernet, the instance is
merged. -/
def execKamrexContrib (i : Nat) (s : State) : Out :=
  match AMap.get? s.insts i with
  | some x =>
    if x.st ≠ .open_ || x.parts.length < x.m || x.parts.any (fun p => p.data.isNone) then .next s
    else
      let s1 := (s.modInst i (fun x => { x with st := .sent })).sendsOut x
      .next (if x.remote.length + 1 = x.devCount then (s1.modInst i (fun x => { x with st := .merged })).collMerged i else s1)
  | none => .next s

/-- A partial of another device taken; with the last of them, and the package's own sent, the instance is merged. -/
def State.collRemote (s : State) (i dev : Nat) (p : List W32) : State :=
  match AMap.get? s.insts i with
  | some x =>
    if dev = x.devRank || x.devCount ≤ dev || (x.st ≠ .open_ && x.st ≠ .sent) then s
    else
      let x2 : CollInst := { x with remote := AMap.put x.remote dev p }
      let s1 := s.modInst i (fun _ => x2)
      if x.st = .sent && x2.remote.length + 1 = x.devCount then
        (s1.modInst i (fun x => { x with st := .merged })).collMerged i
      else s1
  | none => s

/-- KAMREX_RESULT: the switch returns the elements; `parts` are the partials of the devices that it combined in the tree of R121,
in device order. -/
def execKamrexResult (i : Nat) (parts : List (List W32)) (s : State) : Out :=
  match AMap.get? s.insts i with
  | some x =>
    if x.st ≠ .sent || parts.length ≠ x.devCount then .next s
    else .next (parts.zipIdx.foldl (fun s p => s.collRemote i p.2 p.1) s)
  | none => .next s

/-- KAMREX_ABORT: the instance aborts at every participant (R249). -/
def execKamrexAbort (i : Nat) (s : State) : Out :=
  match AMap.get? s.insts i with
  | some x => .next (if x.st = .open_ || x.st = .sent then s.collEnd i .aborted else s)
  | none => .next s

/-- COLLECTIVE_DATAGRAM: a datagram brings another device's partial; one that comes again changes nothing. -/
def execCollectiveDatagram (i : Nat) (dev : Nat) (part : List W32) (s : State) : Out :=
  match AMap.get? s.insts i with
  | some x => .next (if (AMap.get? x.remote dev).isSome then s else s.collRemote i dev part)
  | none => .next s

/-- A package context changed. -/
def State.modCtx (s : State) (n : Nat) (f : Ctx → Ctx) : State :=
  { s with ctxs := s.ctxs.setIfInBounds n (f (s.ctxs.toArray.getD n .init)) }

/-- Whether a collective context is legal: its limits, m a power of two, and its planes up (R325). -/
def State.xcidOk (s : State) (x : XcidCtx) : Bool :=
  1 ≤ x.xcid && x.xcid < 65536 && 1 ≤ x.count && x.count ≤ 288 && x.rank < x.count
    && (List.range 11).any (fun i => x.m = 2 ^ i)
    && !x.planes.isEmpty && x.planes.all (fun p => p < 36 && !s.pkg.planesDown.getLsbD p)

/-- The answer of the partition manager or the security processor: 0 done, 1 TOPO_CONFIG, 2 KEY_BUSY. -/
def State.answered (s : State) (n : Nat) : State := { s with pkg := { s.pkg with mgmtStatus := n } }

/-- Whether a launch of a context is taken up and has not retired. -/
def State.ctxBusy (s : State) (ctx : Nat) : Bool := s.launches.any (fun l => l.2.ctx = ctx && l.2.st ≠ .retired)

/-- A collective context set up, or refused with TOPO_CONFIG: as a part of a partition's setup, while no launch of the context is
admitted (R312). -/
def State.setXcid (s : State) (ctx : Nat) (x : XcidCtx) : State :=
  if !s.ctxBusy ctx && s.xcidOk x then
    (s.modCtx ctx (fun q => { q with xcids := x :: q.xcids.filter (fun y => y.xcid ≠ x.xcid) })).answered 0
  else s.answered 1

/-- XCID_CONTEXT_SETUP; none comes where the host port answers reads alone (R348). -/
def execXcidContextSetup (ctx : Fin 8) (x : XcidCtx) (s : State) : Out := .next (if s.hostUp then s.setXcid ctx.val x else s)

/-- KAMREX_MGMT: the partition manager's setup comes as a MGMT flit. -/
def execKamrexMgmt (ctx : Fin 8) (x : XcidCtx) (s : State) : Out := .next (s.setXcid ctx.val x)

/-- Whether an instance has elements on a plane: element i travels on the i-th set plane, modulo their number. -/
def State.onPlane (s : State) (x : CollInst) (plane : Nat) : Bool :=
  match s.launchRec x.launch with
  | some l =>
    match (s.ctxs.toArray.getD l.ctx .init).xcids.find? (fun y => y.xcid = x.xcid) with
    | some y =>
      let set := (List.range 36).filter (fun p => y.planes.contains p)
      (set.take (Nat.max x.writes (x.reads x.root))).contains plane
    | none => false
  | none => false

/-- KAMREX_PLANE_DOWN: every instance with flits on the plane aborts, and the plane leaves the contexts (R324). -/
def execKamrexPlaneDown (plane : Fin 36) (s : State) : Out :=
  let hit := s.insts.filter (fun p => p.2.xcid ≠ 0 && p.2.st = .sent && s.onPlane p.2 plane.val)
  let s1 := hit.foldl (fun s p => s.collEnd p.1 .aborted) s
  let s2 := (List.range 8).foldl (fun s n => s.modCtx n (fun q => { q with
    xcids := q.xcids.map (fun x => { x with planes := x.planes.filter (fun p => p ≠ plane.val) }) })) s1
  .next { s2 with pkg := { s2.pkg with planesDown := s2.pkg.planesDown ||| BitVec.ofNat 36 (2 ^ plane.val) } }

end Sys2Proof.Machine
end

