-- ==== Sys2Proof/Machine/Links.lean ====
section
/-! DEFINITION. Die links (R310, R311), their failure (R315, R316), split authority (R317, R318), and partitions (R20, R92, R312,
R313). -/

namespace Sys2Proof.Machine

open Sys2Proof

/-! ### Links and routes -/

/-- A die to the next by a side, where there is a position. -/
def dieStep (a side : Nat) : Option Nat := (sideLine a side).head?

/-- Link number of a side of a die (R311). -/
def linkNo (a side : Nat) : Nat := 4 * a + side

/-- The side of a die that faces an adjacent one. -/
def facingSide (a b : Nat) : Nat := ((List.range 4).find? (fun q => dieStep a q = some b)).getD 0

/-- Whether the link of a side of a die is down, by either of the numbers of its two ends. -/
def linkDownAt (down : BitVec 36) (a side : Nat) : Bool :=
  down.getLsbD (linkNo a side) ||
    (match dieStep a side with
     | some b => down.getLsbD (linkNo b (oppSide side))
     | none => false)

/-- The links, as die and side, that a route from a die goes out by. -/
def routeSides (a : Nat) : List Nat → List (Nat × Nat)
  | [] => []
  | b :: r => (a, facingSide a b) :: routeSides b r

/-- Whether every link of a route is up. -/
def routeUp (down : BitVec 36) (a : Nat) (route : List Nat) : Bool :=
  (routeSides a route).all (fun q => !linkDownAt down q.1 q.2)

/-- Adjacent positions over links that are up, in ascending order. -/
def upNext (down : BitVec 36) (a : Nat) : List Nat :=
  (List.range 9).filter (fun b => (List.range 4).any (fun q => dieStep a q = some b && !linkDownAt down a q))

/-- Routes of n hops between two dies, in ascending order of the dies they pass. -/
def routesOf (down : BitVec 36) (b : Nat) : Nat → Nat → List (List Nat)
  | 0, a => if a = b then [[]] else []
  | n + 1, a => (upNext down a).flatMap (fun x => (routesOf down b n x).map (fun r => x :: r))

/-- The first route of the fewest hops. -/
def shortest (down : BitVec 36) (a b : Nat) : Option (List Nat) :=
  (List.range 9).findSome? (fun n => (routesOf down b n a).head?)

/-- The route of R315: that of R47 if its links are up, else the gy-first one, else the shortest. -/
def liveRoute (down : BitVec 36) (a b : Nat) : Option (List Nat) :=
  if routeUp down a (routeXY a b) then some (routeXY a b)
  else if routeUp down a (routeYX a b) then some (routeYX a b)
  else shortest down a b

/-- The replacement table of R315; a route that no live link provides gives 0xFF (R316). -/
def rebuiltTable (down : BitVec 36) (hdie : Nat) : List Nat :=
  (List.range 81).map (fun i =>
    let a := i / 9
    let b := i % 9
    if a = b || a = hdie || b = hdie then 0
    else match liveRoute down a b with
      | some r => routeLat hdie r
      | none => 0xFF)

/-! ### Split authority (R317) -/

/-- Positions that a die reaches in n hops. -/
def diesReached (down : BitVec 36) : Nat → List Nat → List Nat
  | 0, l => l
  | n + 1, l => diesReached down n ((List.range 9).filter (fun b => l.contains b || l.any (fun a => (upNext down a).contains b)))

/-- The group of live dies that holds a die. -/
def State.dieGroup (s : State) (a : Nat) : List Nat := (diesReached s.pkg.down 8 [a]).filter s.liveDie

/-- The live dies. -/
def State.liveDies (s : State) : List Nat := (List.range 9).filter s.liveDie

/-- Whether failed links split the live dies. -/
def State.split (s : State) : Bool := (s.dieGroup (s.liveDies.headD 0)).length < s.liveDies.length

/-- The compute dies of an I/O die, and the side on which they meet it (R15). -/
def ioDies (io : Nat) : List Nat :=
  match io with | 0 => [0, 1, 2] | 1 => [2, 5, 8] | 2 => [6, 7, 8] | _ => [0, 3, 6]

/-- The group of an I/O die: that with most of the compute dies that its working links reach, a tie to the lowest die (R317). A link
into the harvested position reaches no compute die here: what lies behind the repeater is not counted (DEDUCED, log 12). -/
def State.ioGroup (s : State) (io : Nat) : Option (List Nat) :=
  let ds := (ioDies io).filter (fun d => s.liveDie d && !linkDownAt s.pkg.down d io)
  let size := fun (d : Nat) => (ds.filter (fun e => (s.dieGroup d).contains e)).length
  let low := fun (d : Nat) => (ds.filter (fun e => (s.dieGroup d).contains e)).headD 9
  (ds.foldl (fun (b : Option Nat) d =>
    match b with
    | none => some d
    | some e => if size e < size d || (size e = size d && low d < low e) then some d else some e) none).map s.dieGroup

/-- The group with authority, and AUTH: 0 the whole package, 1 the group that holds IO0's command processor, 2 IO2's. -/
def State.authority (s : State) : List Nat × Nat :=
  if !s.split then (s.liveDies, 0)
  else match s.ioGroup 0, s.ioGroup 2 with
    | some a, some b => if a.length < b.length then (b, 2) else (a, 1)
    | some a, none => (a, 1)
    | none, some b => (b, 2)
    | none, none => ([], 0)

/-- A core in a group without authority (R318). -/
def State.coreLost (s : State) (c : Nat) : Bool := s.split && !s.authority.1.contains (coreDie c)

/-! ### What a launch's routes use -/

/-- The E words of text from its first byte on, bundle after bundle. -/
def textEs (bs : List Byte) : Nat → Nat → List Nat
  | 0, _ => []
  | f + 1, o =>
    let h := descNum bs o 2
    let m := hdrMask h
    if bs.length < o + 2 || hdrBreaks h then []
    else
      let e : List Nat := if bit m 6 then [descNum bs (o + 2 + maskBytes (m % 64)) 8] else []
      e ++ textEs bs f (o + 2 + maskBytes m)

/-- Whether an E word is a CPYI of a port. -/
def isCpyi (p w : Nat) : Bool :=
  match decodeSlot .e w with
  | .ok (.cpyi _ _ _ _ q) => q.val = p
  | _ => false

/-- Whether an E word is a COLL. -/
def isColl (w : Nat) : Bool :=
  match decodeSlot .e w with
  | .ok (.coll _ _ _ _ _ _ _) => true
  | _ => false

/-- Whether an image names a port (R326): by a region, or by a CPYI in its text. -/
def namesPort (i : Image) (p : Nat) : Bool :=
  i.regions.any (fun r => r.src = p + 1) || i.tasks.any (fun t => (textEs t.text t.text.length 0).any (isCpyi p))

/-- The entries of a page table of n frames that are not zero. -/
def State.tableEnts (s : State) (table n : Nat) : List W64 :=
  let starts := (List.range n).filterMap (fun i => (s.dpa (table + 4096 * i)).map (fun q => (q.2, table + 4096 * i)))
  let ats := s.mem.filterMap (fun c => (starts.find? (fun q => q.1 ≤ c.1 && c.1 < q.1 + 4096)).map (fun q => q.2 + (c.1 - q.1) / 8 * 8))
  (once ats).filterMap s.pteAt

/-- The valid leaf entries below a table at level n, with the log2 of their page sizes (R87). -/
def State.leaves (s : State) : Nat → Nat → List (W64 × Nat)
  | 0, table => ((s.tableEnts table 1).filter (fun e => pteV e && ptePs e < 2)).map (fun e => (e, if ptePs e = 0 then 12 else 16))
  | n + 1, table => (s.tableEnts table (if n = 2 then 512 else 1)).flatMap (fun e =>
      if !pteV e then []
      else if (n = 1 && ptePs e = 3) || (n = 0 && ptePs e = 2) then [(e, 12 + 9 * (n + 1))]
      else s.leaves n (ptePfn e * 4096))

/-- The I/O dies that the pages of a context lie on: a frame of LPDDR-G6 on its own, a larger page on all four, the window on IO0
(R89). -/
def State.pageIos (s : State) (ctx : Nat) : List Nat :=
  (s.leaves 3 (s.ctxs.toArray.getD ctx .init).ptbase.toNat).flatMap (fun e =>
    match pteTier e.1 with
    | 1 => if 16 < e.2 then [0, 1, 2, 3] else [ptePfn e.1 % 4]
    | 2 => [0]
    | _ => [])

/-- The I/O dies that a launch's packets go to: those of the pages of its context, of the ports of its CPYIs, and, where it has a COLL,
all four, any of whose engines may take it (log 41). -/
def State.launchIos (s : State) (l : Launch) : List Nat :=
  let es := l.img.tasks.flatMap (fun t => textEs t.text t.text.length 0)
  once (s.pageIos l.ctx ++ ((List.range 16).filter (fun p => es.any (isCpyi p))).map (· / 4)
    ++ (if es.any isColl then [0, 1, 2, 3] else []))

/-- The ordered pairs of dies between which a launch sends packets or rows: a die of its cores and a die of its partition. -/
def State.diePairs (s : State) (l : Launch) : List (Nat × Nat) :=
  let ds := once ((imageCores l.img).map coreDie)
  let ps := (s.ctx l.ctx).dies
  ds.flatMap (fun a => ps.flatMap (fun b => if a = b then [] else [(a, b), (b, a)]))

/-- The links from a die to an I/O die: to the edge die by the route of the current table, and out (R256, R315). -/
def ioRoute (down : BitVec 36) (d io : Nat) : List (Nat × Nat) :=
  routeSides d ((liveRoute down d (edgeDie d io)).getD []) ++ [(edgeDie d io, io)]

/-- The links by which a launch's cores reach the crossings it installs, and the I/O dies that its packets go to. -/
def State.ioLinks (s : State) (l : Launch) : List (Nat × Nat) :=
  l.img.crossings.flatMap (fun x => [x.pisl / 8, x.cisl / 8].flatMap (fun d => ioRoute s.pkg.down d (x.x / 16)))
    ++ (once ((imageCores l.img).map coreDie)).flatMap (fun d => (s.launchIos l).flatMap (fun io => ioRoute s.pkg.down d io))

/-- Whether two names of a link are one link. -/
def sameLink (p q : Nat × Nat) : Bool :=
  p = q || (dieStep p.1 p.2 = some q.1 && oppSide p.2 = q.2)

/-- Whether a launch's routes under the current table use a link (R315). -/
def State.usesLink (s : State) (l : Launch) (q : Nat × Nat) : Bool :=
  (s.diePairs l).any (fun p =>
    match liveRoute s.pkg.down p.1 p.2 with
    | some r => (routeSides p.1 r).any (fun x => sameLink x q)
    | none => false)
    || (s.ioLinks l).any (fun x => sameLink x q)

/-- A register of the package changed. -/
def State.modPkg (s : State) (f : Pkg → Pkg) : State := { s with pkg := f s.pkg }

/-- Launches aborted. -/
def State.abortAll (s : State) (p : Launch → Bool) : State :=
  (s.launches.filter (fun l => l.2.st = .running && p l.2)).foldl (fun s l => s.abort l.1 .aborted) s

/-- A launch whose command processor has no authority, or which has a core in a group without it (R318). -/
def State.launchLost (s : State) (l : Launch) : Bool :=
  (imageCores l.img).any s.coreLost || (l.ctx < 4 && s.pkg.lost0) || (4 ≤ l.ctx && s.pkg.lost2)

/-- When the frame that a core of a timebase region counts would end, were it counted to its end from cycle r on. -/
def State.frameLeft (s : State) (k : Core) (r : Nat) : Nat :=
  if s.frameOver k r then 0 else s.frameLen k - (k.cifAt r).toNat

/-- A core in its handler, in a group without authority, freezes at the frame boundary of its region (R318). -/
def State.lostFreeze (s : State) (c : Nat) : State :=
  if s.coreLost c && (s.core c).seq.st = .trap then s.haltAt c .stopped (s.cyc c) else s

/-- The cores of groups without authority freeze at their next frame boundary; those that count do so as their frames end, for the
others of timebase regions it is posted. -/
def State.freezeLost (s : State) : State :=
  (s.cores.filter (fun p => s.coreLost p.1 && (s.lockedRegion p.2).isNone)).foldl (fun s p =>
    s.postMi (s.inst p.1 (s.cyc p.1 + s.frameLeft p.2 (s.cyc p.1))) 9 (.lostFreeze p.1)) s

/-- LINK_DOWN (R315 to R318): the link's bits are set, launches routed over it abort, the table is rebuilt, and where the live dies
are split, authority is assigned anew. -/
def execLinkDown (link : Fin 36) (s : State) : Out :=
  let a := link.val / 4
  let side := link.val % 4
  if linkDownAt s.pkg.down a side then .next s
  else
    let bits := BitVec.ofNat 36 (2 ^ link.val) ||| (match dieStep a side with
      | some b => BitVec.ofNat 36 (2 ^ linkNo b (oppSide side))
      | none => 0)
    let s1 := s.abortAll (fun l => s.usesLink l (a, side))
    let s2 := s1.modPkg (fun p => { p with down := p.down ||| bits, lattab := rebuiltTable (p.down ||| bits) p.hdie })
    let auth := s2.authority
    let without := fun (io : Nat) => s2.split && (match s2.ioGroup io with
      | some g => g ≠ auth.1
      | none => true)
    let s3 := s2.modPkg (fun p => { p with
      auth := BitVec.ofNat 2 auth.2, lost0 := p.lost0 || without 0, lost2 := p.lost2 || without 2 })
    .next ((s3.abortAll s3.launchLost).freezeLost)

/-! ### Partitions (R20, R312, R313) -/

/-- STEER of a partition: entry i holds die i modulo their number (R92). -/
def steerOf (ds : List Nat) : W64 :=
  BitVec.ofNat 64 ((List.range 16).foldl (fun m i => m + ds.getD (i % Nat.max 1 ds.length) 0 * 2 ^ (4 * i)) 0)

/-- The directed links that the connections of a partition's topology need. -/
def fabricLinks (topo : Topology) (ds : List Nat) : List (Nat × Nat) :=
  ds.flatMap (fun a => (List.range 4).flatMap (fun side => (fabricDies topo ds a side).flatMap (fun b => routeSides a (routeXY a b))))

/-- No element twice. -/
def distinct : List (Nat × Nat) → Bool
  | [] => true
  | a :: r => !r.contains a && distinct r

/-- The directed links that the other contexts' topologies need. -/
def State.otherLinks (s : State) (ctx : Nat) : List (Nat × Nat) :=
  (List.range 8).flatMap (fun i => if i = ctx then [] else fabricLinks (s.ctx i).topo (s.ctx i).dies)

/-- A die set of 1, 2, 4 or 8 live dies, apart from those of the other contexts. -/
def State.diesOk (s : State) (ctx : Nat) (ds : List Nat) : Bool :=
  (ds.length = 1 || ds.length = 2 || ds.length = 4 || ds.length = 8) && ds.all s.liveDie
    && (List.range 8).all (fun i => i = ctx || (s.ctx i).dies.all (fun d => !ds.contains d))

/-- PARTITION_SETUP: while no launch of the context is admitted, or TOPO_CONFIG (R312, R313); none comes where the host port answers
reads alone (R348). -/
def execPartitionSetup (ctx : Fin 8) (dies : List Nat) (topo : Topology) (s : State) : Out :=
  if !s.hostUp then .next s
  else
  let ds := (List.range 9).filter (fun d => dies.contains d)
  let ok := !s.ctxBusy ctx.val && dies.all s.liveDie && s.diesOk ctx.val ds && distinct (fabricLinks topo ds ++ s.otherLinks ctx.val)
  .next (if ok then
      (s.modCtx ctx.val (fun c => { c with dies := ds, steer := steerOf ds, topo := topo, xcids := [] })).answered 0
    else s.answered 1)

end Sys2Proof.Machine
end

