-- ==== Sys2Proof/Machine/Regions.lean ====
section
/-! DEFINITION. Frames (R32), stream sources and sample-locked regions (R34 to R38, R40, R41, R349), samples (R327), and the stop of a
gang at S (R65). -/

namespace Sys2Proof.Machine

open Sys2Proof

/-! ### Ports and their frame slots (R35) -/

/-- A port changed. -/
def State.modPort (s : State) (p : Nat) (f : Port → Port) : State :=
  { s with ports := s.ports.setIfInBounds p (f (s.port p)) }

/-- A region changed. -/
def State.modRegion (s : State) (r : Nat) (f : Region → Region) : State := { s with regions := AMap.upd s.regions r f }

/-- The regions whose source is a port. -/
def State.ofPort (s : State) (p : Nat) : List (Nat × Region) := s.regions.filter (fun r => r.2.desc.src = p + 1)

/-- The port of a region with a stream source. -/
def Region.port (g : Region) : Nat := g.desc.src - 1

/-- The frame that a slot holds. -/
def FrameSlot.frame : FrameSlot → Option PortFrame
  | .empty => none
  | .ready f => some f
  | .inUse f => some f

/-- A slot whose frame a region takes, and one whose frame no region reads any more. -/
def FrameSlot.take (o : Nat) : FrameSlot → FrameSlot
  | .ready f => if f.order = o then .inUse f else .ready f
  | x => x
def FrameSlot.release (o : Nat) : FrameSlot → FrameSlot
  | .inUse f => if f.order = o then .empty else .inUse f
  | x => x

/-- The oldest frame of a port that a region has not taken. -/
def Port.oldest (p : Port) (last : Nat) : Option PortFrame :=
  match p.slots.1.frame, p.slots.2.frame with
  | some a, some b =>
    if a.order ≤ last then (if b.order ≤ last then none else some b)
    else if b.order ≤ last then some a else if a.order < b.order then some a else some b
  | some a, none => if a.order ≤ last then none else some a
  | none, some b => if b.order ≤ last then none else some b
  | none, none => none

/-- The end of a region frame: the slot that it reads becomes EMPTY. -/
def State.endRead (s : State) (r : Nat) : State :=
  match AMap.get? s.regions r with
  | some g =>
    match g.reads with
    | some o =>
      let s1 := s.modRegion r (fun g => { g with reads := none })
      if (s1.ofPort g.port).any (fun q => q.2.reads = some o) then s1
      else s1.modPort g.port (fun p => { p with slots := (p.slots.1.release o, p.slots.2.release o) })
    | none => s
  | none => s

/-- A frame landed (R35): in an EMPTY slot, or over the older READY one; the second says that SRC_FAST is logged. Where two regions of
the port read different frames, so that both slots are IN_USE, the frame that lands is dropped and SRC_FAST logged (DESIGN CHOICE, log
14: R35 names no such case). -/
def Port.landFrame (p : Port) (f : PortFrame) : Port × Bool :=
  match p.slots with
  | (.empty, b) => ({ p with slots := (.ready f, b) }, false)
  | (a, .empty) => ({ p with slots := (a, .ready f) }, false)
  | (.ready a, .ready b) =>
    if a.order < b.order then ({ p with slots := (.ready f, .ready b) }, true)
    else ({ p with slots := (.ready a, .ready f) }, true)
  | (.ready _, b) => ({ p with slots := (.ready f, b) }, true)
  | (a, .ready _) => ({ p with slots := (a, .ready f) }, true)
  | _ => (p, true)

/-! ### Gangs of a region -/

/-- Gangs of a region that have not ended. -/
def State.gangsOf (s : State) (g : Region) : List (Nat × Gang) :=
  s.gangs.filter (fun x => x.2.launch = g.launch && x.2.cores.any (fun c => g.desc.isl.contains (coreIsland c)))

/-- A gang that is suspended or halted as a whole. -/
def Gang.parked (x : Gang) : Bool :=
  match x.st with
  | .saving | .saved | .restoring | .halted => true
  | _ => false

/-- A region all of whose gangs are suspended or halted. -/
def State.parked (s : State) (g : Region) : Bool := !(s.gangsOf g).isEmpty && (s.gangsOf g).all (fun x => x.2.parked)

/-- Live cores of a region. -/
def State.liveIn (s : State) (r : Nat) : List Nat := (s.cores.filter (fun p => p.2.seq.region = some r)).map (·.1)

/-! ### The stop of a gang (R65) -/

/-- A member stops at S before its cycle in progress; SC operations whose position comes after it lose it (R65, R240). -/
def State.stopMember (s : State) (x : Gang) (c : Nat) : State :=
  match (s.core c).seq.st with
  | .run | .wait | .idle | .stopped =>
    let s1 := s.traceCore c 0x09 (BitVec.ofNat 64 (x.stopT / tick))
    ((s1.stopCore c .suspend).modCore c (fun k => { k with seq := { k.seq with frozenAt := s.inst c (s.cyc c) } })).modEng c (fun e => { e with
      scs := mapIf (fun y => !y.performed && s.cyc c < y.w0) (fun y => { y with issued := false }) e.scs })
  | _ => s

/-- A gang all of whose members have stopped is saved once its commands have completed. -/
def State.gangStopped (s : State) (g : Nat) : State :=
  match AMap.get? s.gangs g with
  | some x =>
    if x.st = .stopping && x.cores.all (fun c => (s.core c).seq.st = .suspend) then
      (s.modGang g (fun x => { x with st := .saving })).postFree s.now 8 (.contextSave g)
    else s
  | none => s

/-- Whether a core may stop at once: its region is no sample-locked one in the middle of a frame (R41). -/
def State.atBoundary (s : State) (c : Nat) : Bool :=
  match s.lockedRegion (s.core c) with
  | some g => g.st ≠ .running
  | none => true

/-- GANG_STOP: at S each core stops; in a sample-locked region at its first frame boundary at or after S. -/
def execGangStop (g : Nat) (s : State) : Out :=
  match AMap.get? s.gangs g with
  | some x =>
    if x.st = .stopping && x.stopT ≤ s.now then
      if s.unsavable x then .next (s.cancelStop g)
      else .next ((x.cores.foldl (fun s c => if s.atBoundary c then s.stopMember x c else s) s).gangStopped g)
    else .next s
  | none => .next s

/-- The members of a region whose gangs have passed their S stop at its frame boundary. -/
def State.boundaryStops (s : State) (r : Nat) : State :=
  match AMap.get? s.regions r with
  | some g =>
    (s.gangsOf g).foldl (fun s p =>
      if p.2.st = .stopping && p.2.stopT ≤ s.now then
        if s.unsavable p.2 then (if p.2.cores.any (fun c => (s.core c).seq.st = .suspend) then s else s.cancelStop p.1)
        else ((p.2.cores.filter (fun c => (s.core c).seq.region = some r)).foldl (fun s c => s.stopMember p.2 c) s).gangStopped p.1
      else s) s
  | none => s

/-! ### The start of a region frame -/

/-- The core whose cycle an act of the agenda belongs to, where it is an act at a cycle of that core. -/
def Act.cycleOf : Act → Option Nat
  | .ev (.pendingWriteLand c) | .ev (.groupReach c) | .ev (.cubeStepRetire c) | .ev (.drainCommit c)
  | .ev (.mtileExpansion c) | .ev (.exchangeRow c) | .ev (.batchWindowClose c _) | .ev (.batchLineLanding c _)
  | .ev (.multicastLanding c _) | .ev (.slpResultLanding c _) | .ev (.userInterrupt c) | .ev (.uiwinClose c)
  | .ev (.frameEnd (.core c)) | .mi (.tileOps c _) | .mi (.frameLast c) => some c
  | _ => none

/-- The agenda of a region's cores after its clock has been set anew: what was due at a cycle is due at that cycle. -/
def State.reclock (s : State) (r : Nat) (old new : Region) : State :=
  let mine := fun (d : Due) => match d.act.cycleOf with
    | some c => (s.core c).seq.region = some r
    | none => false
  let s1 : State := { s with agenda := s.agenda.filter (fun d => !mine d) }
  (s.agenda.filter mine).foldl (fun s d => s.post (instOf (some new) (cycleOf (some old) d.t)) d.rank d.act) s1

/-- A core of a sample-locked region begins a region frame at cycle r: a new frame of its own where it stands at a boundary, else it
goes on with the frame it is in. A core in a group without authority freezes (R318). -/
def State.frameCore (s : State) (c r : Nat) (first : Bool) : State :=
  let k := s.core c
  let new := first || s.frameOver k r
  let fresh := fun (k : Core) => if new then
      { k with seq := { k.seq with cif := 0, atEnd := false, fn := if first then 0 else k.seq.fn + 1 } } else k
  match k.seq.st with
  | .run | .wait | .idle | .stopped =>
    if s.coreLost c then s.haltAt c .stopped r
    else
      let s1 : State :=
        if k.seq.counting then
          if new then (s.modCore c (fun k => let k1 := fresh k; { k1 with seq := { k1.seq with ref := r } })).postFrame c else s
        else (s.modCore c fresh).startCore c r
      match (s1.core c).prog.cur, (s1.core c).prog.tasks with
      | none, t :: _ => if t.start ≤ s1.now then s1.postEv s1.now 9 (.taskStart c) else s1
      | _, _ => s1
  | .trap => if s.coreLost c then s.haltAt c .stopped r else s
  | .suspend =>
    match s.gangOf c with
    | some (_, x) =>
      if x.st = .running then
        let s1 := s.modCore c (fun k => { k with seq := { k.seq with cif := 0, atEnd := false, fn := k.seq.fn + 1 } })
        ((((s1.traceCore c 0x0A (BitVec.ofNat 64 (x.resumeT / tick))).startCore c r).unfresh x.launch c).fenceKick c).kick c
      else s
    | none => s
  | _ => s

/-- How long a region frame lasts. The clock is f_src × P / Q held within 0.4 and 1.3 GHz (R29, R35): a source whose edges keep their
distance, or keep the nominal one, gives its frame exactly; how the RCG follows one that changes is a free value (R34). -/
def frameDur (d : RegionDesc) (q : Port) (free : Nat) : Nat :=
  let lo := tbCycle * d.p
  let hi := 2129920 * d.p
  if q.ivl ≠ 0 && (q.ivl = q.ivl2 || q.ivl = d.nper * nperUnit) then Nat.min hi (Nat.max lo (q.ivl * d.q))
  else lo + free % (hi - lo + 1)

/-- A region frame starts with the oldest frame of its port (R35, R36). -/
def State.regionFrame (s : State) (r : Nat) : State :=
  match AMap.get? s.regions r with
  | some g =>
    match (s.port g.port).oldest g.lastOrder with
    | some f =>
      let r0 := firstCycle (some g) s.now
      let g2 : Region := { g with
        st := .running, anchorT := s.now, anchorR := r0, len := frameDur g.desc (s.port g.port) s.free, per := g.desc.p, fbase := r0
        fn := if g.started then g.fn + 1 else 0, started := true, jitter := false, gated := false
        reads := some f.order, lastOrder := f.order }
      let s1 := (s.drawn.reclock r g g2).modRegion r (fun _ => g2)
      let s1 := if g.st = .relocking then (s1.liveIn r).foldl (fun s c => s.unfresh g.launch c) s1 else s1
      let s2 := s1.modPort g.port (fun p => { p with slots := (p.slots.1.take f.order, p.slots.2.take f.order) })
      let s3 := (s2.liveIn r).foldl (fun s c => s.frameCore c r0 (!g.started)) s2
      s3.postEv (instOf (some g2) (r0 + g.desc.p)) 1 (.frameEnd (.region r))
    | none => s
  | none => s

/-- Whether a region that waits may start a frame: it is HELD, or RELOCKING with lock and with every resync landed (R38), it is
not parked, a frame is ready, and none of its cores still counts a frame. -/
def State.frameReady (s : State) (r : Nat) (g : Region) : Bool :=
  let idle := (s.liveIn r).all (fun c => !(s.core c).seq.counting)
  let ready := ((s.port g.port).oldest g.lastOrder).isSome
  match g.st with
  | .held => ready && idle && !s.parked g
  | .relocking => ready && g.locked && !s.parked g && (s.liveIn r).all (fun c => !s.resyncing c)
  | _ => false

/-- A waiting region starts its frame when it may; one that waits only for a resync looks again in the next cycle. -/
def State.regionTry (s : State) (r : Nat) : State :=
  match AMap.get? s.regions r with
  | some g =>
    if s.frameReady r g then (s.boundaryStops r).regionFrame r
    else if g.st = .relocking && g.locked && (s.liveIn r).any (fun c => s.resyncing c) then
      s.postEv (s.now + tbCycle) 8 (.rcgLock r)
    else s
  | none => s

/-! ### FRAME_END (R32, R36) -/

/-- The instant at which a HELD region stops. -/
def Region.stopTime (g : Region) : Nat := g.lastLand + g.desc.holdlim * g.desc.q * g.desc.nper * nperUnit

/-- A core whose frame is over: in a timebase region the next one begins; in a sample-locked one it waits for the region. -/
def State.coreFrameEnd (s : State) (c : Nat) : State :=
  let k := s.core c
  let r := s.cyc c
  let l := s.frameLen k
  if !k.seq.counting || l = 0 || !s.frameOver k r then s
  else if s.coreLost c then s.haltAt c .stopped r
  else match s.lockedRegion k with
    | none =>
      (s.modCore c (fun k => { k with seq := { k.seq with cif := 0, atEnd := false, ref := r, fn := k.seq.fn + 1 } })).postFrame c
    | some _ =>
      let s1 := s.haltAt c k.seq.st r
      match k.seq.region with
      | some n => s1.regionTry n
      | none => s1

/-- A region frame is over: the next one begins, or the region is HELD (R36). A region all of whose gangs are suspended or halted
waits for them. -/
def State.regionFrameEnd (s : State) (r : Nat) : State :=
  match AMap.get? s.regions r with
  | some g =>
    if g.st ≠ .running || s.now ≠ instOf (some g) (g.fbase + g.desc.p) then s
    else
      let s1 := (s.endRead r).boundaryStops r
      let parked := s1.parked g
      if !parked && ((s1.port g.port).oldest g.lastOrder).isSome then s1.regionFrame r
      else
        let s2 := s1.modRegion r (fun g => { g with st := .held })
        let s3 := (s2.liveIn r).foldl (fun s c =>
          if (s.core c).seq.counting then s.haltAt c (s.core c).seq.st (s.cyc c) else s) s2
        let s4 := if parked then s3 else s3.sourceEvent r 0x02 true
        s4.postEv g.stopTime 1 (.srcStop r)
  | none => s

/-- FRAME_END. -/
def execFrameEnd (w : FrameOf) (s : State) : Out :=
  match w with
  | .core c => .next (s.coreFrameEnd c)
  | .region r => .next (s.regionFrameEnd r)

/-! ### Sources that stop and return (R36 to R38, R349) -/

/-- The cores of a region freeze (R37). -/
def State.freezeRegion (s : State) (r : Nat) : State :=
  (s.liveIn r).foldl (fun s c =>
    match (s.core c).seq.st with
    | .run | .wait | .idle | .trap => (s.closeAll c).haltAt c .stopped (s.cyc c)
    | _ => s) s

/-- SRC_STOP: a HELD region enters STOPPED when no frame has landed for its holdover limit. -/
def execSrcStop (r : Nat) (s : State) : Out :=
  match AMap.get? s.regions r with
  | some g =>
    if g.st ≠ .held then .next s
    else if s.now < g.stopTime then .next (s.postEv g.stopTime 1 (.srcStop r))
    else
      let s1 := s.sourceEvent r 0x03 true
      let s2 := ((s1.liveIn r).foldl (fun s c => s.unfresh g.launch c) (s1.freezeRegion r)).modRegion r (fun g => { g with st := .stopped, locked := false, lockLeft := none })
      .next (s2.postFree s2.now 8 (.regionClockGate r))
  | none => .next s

/-- Whether the macro-tile sequencer has not come to its next interruptible step by cycle r (R225). -/
def Core.tileRuns (k : Core) (r : Nat) : Bool :=
  match k.cube.mtile with
  | some m =>
    let d := mtileDesc m.desc
    !(m.hold && m.next ≤ r && m.step = cdiv d.k (Nat.max 1 (k.tileKt d)) + 2)
  | none => false

/-- Whether a core has engine work or a macro tile in flight in cycle r. -/
def Core.working (k : Core) (r : Nat) : Bool :=
  !k.inFlight.isEmpty || !k.eng.fences.isEmpty || k.cube.pipe.isSome || !k.cube.drains.isEmpty
    || k.tileRuns r

/-- REGION_CLOCK_GATE: once the work of a STOPPED region's engines has ended, its clock is gated with all state kept (R37). -/
def execRegionClockGate (r : Nat) (s : State) : Out :=
  match AMap.get? s.regions r with
  | some g =>
    if g.st ≠ .stopped then .next s
    else if (s.liveIn r).any (fun c => (s.core c).working (s.cyc c)) then .next (s.postFree (s.now + tbCycle) 8 (.regionClockGate r))
    else .next (s.modRegion r (fun g => { g with gated := true }))
  | none => .next s

/-- Edges come from the source of a STOPPED region: relock begins, stale subscribers are sent their resyncs, and the crossings that
the region consumes from will be set anew (R36, R38, R45). -/
def State.relock (s : State) (r : Nat) (g : Region) : State :=
  if g.st ≠ .stopped then s
  else
    let s1 := s.drawn.modRegion r (fun g => { g with
      st := .relocking, locked := false, lockLeft := some (1 + s.free % 64), gated := false })
    let s2 := (s1.liveIn r).foldl (fun s c => s.resyncs g.launch c false) s1
    { s2 with cross := s2.cross.map (fun x =>
        if x.2.launch = g.launch && g.desc.isl.contains x.2.desc.cisl then (x.1, { x.2 with reanchor := true }) else x) }

/-- Edges arrive at a port, whatever its MODE (log 14). -/
def State.edgesBack (s : State) (p : Nat) : State :=
  (s.ofPort p).foldl (fun s q => s.relock q.1 q.2) (s.modPort p (fun q => { q with edges := true }))

/-- SOURCE_EDGES_RETURN. -/
def execSourceEdgesReturn (p : Fin 16) (s : State) : Out := .next (s.edgesBack p.val)

/-- SOURCE_EDGES_CEASE: a RELOCKING region goes back to STOPPED. -/
def execSourceEdgesCease (p : Fin 16) (s : State) : Out :=
  .next ((s.ofPort p.val).foldl (fun s q =>
      if q.2.st = .relocking then
        let s1 := (s.sourceEvent q.1 0x03 true).modRegion q.1 (fun g => { g with st := .stopped, locked := false, lockLeft := none })
        (s1.liveIn q.1).foldl (fun s c => s.unfresh q.2.launch c) s1
      else s)
    (s.modPort p.val (fun q => { q with edges := false })))

/-- The entry of an island's voltage table at 1.3 GHz, at which every timebase region runs and as which a sample-locked one is taken:
the smallest frequency at or above it (R346). -/
def State.powerEntry (s : State) (isl : Nat) : VEntry :=
  ((((AMap.get? s.pkg.fuseV isl).getD []).filter (fun e => 1300000 ≤ e.khz)).foldl (fun (b : Option VEntry) e =>
    match b with
    | some x => if e.khz < x.khz then some e else some x
    | none => some e) none).getD ⟨0, 0, 0⟩

/-- The voltage of islands set (R346). -/
def State.powerUp (s : State) (isl : List Nat) : State :=
  s.modPkg (fun p => { p with islandMv := isl.foldl (fun m i => AMap.put m i (s.powerEntry i).mv) p.islandMv })

/-- RCG_LOCK: from now on port frames made wholly of later samples can start the region, and none that landed before (R349); the voltage of its islands is set when it
locks at launch (R346). -/
def execRcgLock (r : Nat) (s : State) : Out :=
  match AMap.get? s.regions r with
  | some g =>
    if g.st ≠ .relocking then .next s
    else if g.locked then .next (s.regionTry r)
    else
      let s0 := if g.started then s else s.powerUp g.desc.isl
      let s1 := s0.modRegion r (fun g => { g with locked := true, lockLeft := none, lastOrder := (s.port g.port).order })
      .next (s1.modPort g.port (fun p => { p with taint := !p.rx.isEmpty }))
  | none => .next s

/-! ### Samples (R34, R35, R327) -/

/-- A sample's channels as the port holds them. -/
def convSample (sfmt chn : Nat) (vals : List W32) : List W32 :=
  (List.range chn).map (fun c =>
    let v := vals.getD c 0
    match sfmt with
    | 0 => v &&& 0xFFFF
    | 1 => ofI 32 (sxt 24 v.toNat)
    | _ => v)

/-- An edge that departs from its predicted instant by more than JTOL is logged once in a frame. The RCG follows its source: it
predicts the interval of the two edges before, and nothing where there are not two. -/
def State.edgeJitter (s : State) (r : Nat) (g : Region) (last ivl t : Nat) : State :=
  if g.st = .running && !g.jitter && ivl ≠ 0 && g.desc.jtol * g.desc.nper * nperUnit < 256 * dist t (last + ivl) then
    (s.modRegion r (fun g => { g with jitter := true })).sourceEvent r 0x04 true
  else s

/-- A sample of a RELOCKING region counts toward its lock. -/
def State.lockSample (s : State) (r : Nat) (g : Region) : State :=
  match g.st, g.lockLeft with
  | .relocking, some n =>
    if n ≤ 1 then s.postEv s.now 1 (.rcgLock r)
    else s.modRegion r (fun g => { g with lockLeft := some (n - 1) })
  | _, _ => s

/-- A port frame that lands while gangs are suspended or halted is counted once for each that has cores in a region of the port
(R41, R67). -/
def State.countDrops (s : State) (p : Nat) : State :=
  (once ((s.ofPort p).flatMap (fun q => ((s.gangsOf q.2).filter (fun x => x.2.parked)).map (·.1)))).foldl (fun s n =>
    s.modGang n (fun x => { x with drops := x.drops + 1 })) s

/-- PORT_FRAME_LANDING (R35): a complete port frame lands, or is discarded; a region that waits for it starts. -/
def State.landPort (s : State) (p : Nat) (f : PortFrame) : State :=
  let rs := s.ofPort p
  let s1 := rs.foldl (fun s q => s.modRegion q.1 (fun g => { g with lastLand := s.now })) (s.countDrops p)
  let takes := rs.any (fun q => !s.parked q.2 && (match q.2.st with | .running | .held => true | .relocking => q.2.locked | .stopped => false))
  if !takes then s1
  else
    let l := (s1.port p).landFrame f
    let s2 := s1.modPort p (fun _ => { l.1 with order := f.order })
    let s3 := if l.2 then rs.foldl (fun s q => s.sourceEvent q.1 0x01 true) s2 else s2
    rs.foldl (fun s q => s.regionTry q.1) s3

/-- A sample put into the frame that is being assembled; with its last sample the frame lands, unless a sample of it came before
lock. Of regions that share a port the first gives the samples of a frame, and what is being assembled at the lock of any of them is
discarded when it is whole; CHN above 64 is taken as it stands (log 14). -/
def State.takeSample (s : State) (p : Nat) (vals : List W32) (t : Nat) : State :=
  let q := s.port p
  match s.ofPort p with
  | [] => s
  | (_, g) :: _ =>
    let rx := q.rx ++ [convSample (getF q.spcfg 22 2) (getF q.spcfg 24 8) vals]
    let taint := q.taint || (g.st = .relocking && !g.locked) || g.st = .stopped
    if rx.length < g.desc.q then s.modPort p (fun q => { q with rx := rx, taint := taint })
    else
      let s1 := s.modPort p (fun q => { q with rx := [], taint := false })
      if taint then s1
      else
        let eb := sfmtBytes (getF q.spcfg 22 2)
        s1.landPort p ⟨rx.flatMap (fun v => v.flatMap (fun x => leBytes eb x.toNat)), g.desc.q, t, q.order + 1⟩

/-- Consumer samples that this sample begins (R42). -/
def State.consumers (s : State) (p : Nat) : State :=
  s.cross.foldl (fun s x =>
    match s.regionOf x.2.launch x.2.desc.cisl with
    | some (_, g) =>
      if h : x.1 < 64 then
        if g.desc.src = p + 1 then s.postEv s.now 2 (.consumerSampleDelivery ⟨x.1, h⟩) else s
      else s
    | none => s) s

/-- An edge of a port's sample clock, at an instant t that may be past: the RCGs of its regions follow it, and consumer samples begin. -/
def State.sampleEdge (s : State) (p t : Nat) : State :=
  let q := s.port p
  let s1 := (s.ofPort p).foldl (fun s r => s.edgeJitter r.1 r.2 q.lastEdge q.ivl t) s
  let s2 := (s1.edgesBack p).modPort p (fun q => { q with
    lastEdge := t, ivl := if q.lastEdge = 0 then 0 else t - q.lastEdge, ivl2 := q.ivl })
  let s3 := s2.consumers p
  (s3.ofPort p).foldl (fun s r => s.lockSample r.1 r.2) s3

/-- The presentation tick of a sample that a port takes, or none where it drops it: in MODE 1 the port takes samples of AAF PCM streams
with its stream ID and its sample format, in MODE 2 those of its pins, in MODE 0 and 3 none (R327). A sample of the pins has the tick of its
arrival (log 14). -/
def State.sampleTick (s : State) (p : Nat) (src : SampleSrc) : Option Nat :=
  let q := s.port p
  match src with
  | .avtp sid aaf fmt t => if q.mode = 1 && aaf && sid = q.spsid && fmt.val = getF q.spcfg 22 2 then some t else none
  | .pins => if q.mode = 2 then some s.ptc else none

/-- SAMPLE_ARRIVAL: a sample of a stream port. It joins the port frame being assembled, and its edge of the sample clock comes at its
presentation time, or at its word-clock edge (R327). -/
def execSampleArrival (p : Fin 16) (src : SampleSrc) (vals : List W32) (s : State) : Out :=
  match s.sampleTick p.val src, src with
  | none, _ => .next s
  | some t, .pins => .next ((s.sampleEdge p.val s.now).takeSample p.val vals t)
  | some t, .avtp _ _ _ _ =>
    let s1 := if s.now < t * tick then s.postMi (t * tick) 1 (.sampleEdge p.val) else s.sampleEdge p.val (t * tick)
    .next (s1.takeSample p.val vals t)

/-! ### The restart of a gang (R68, R297) -/

/-- The regions of cores that have begun to go on look whether a frame may start. -/
def State.tryRegions (s : State) (cs : List Nat) : State :=
  (once (cs.filterMap (fun c => (s.core c).seq.region))).foldl (fun s r => s.regionTry r) s

/-- GANG_RESTART: every core begins to count and issue without skew (R68, R297). -/
def execGangRestart (g : Nat) (s : State) : Out :=
  match AMap.get? s.gangs g with
  | some x =>
    if x.st = .halted && x.restartT ≤ s.now && x.ready && !x.retts.isEmpty then
      let most := x.cores.foldl (fun m c =>
        if (s.core c).seq.st = .halt || (s.core c).seq.st = .suspend then Nat.max m (x.lead (s.core c)) else m) 0
      let x2 : Gang := { x with st := .running, trapped := [], retts := [], ended := [], byDebug := false, drops := 0 }
      let s1 := x.cores.foldl (fun s c => s.restartMember x most c) s
      let s2 := if x.drops = 0 then s1 else x.cores.foldl (fun s c => s.logDcr c 0x0F noPc x.drops) s1
      let s3 : State := { s2 with gangs := AMap.put s2.gangs g x2 }
      let s3 := (x.cores.filter s3.receives).foldl (fun s c => s.resyncs x.launch c false) s3
      let s3 := s3.tryRegions x.cores
      .next (match x2.wantBy with
        | some _ => s3.postMi s3.now 13 (.tryPreempt g)
        | none => s3)
    else .next s
  | none => .next s


end Sys2Proof.Machine
end

