-- ==== Sys2Proof/Machine/Images.lean ====
section
/-! DEFINITION. What a command processor checks of a schedule image before admission (R19, R28 to R30, R42, R51, R56, R63, R78,
R86, R215, R240, R251, R316). -/

namespace Sys2Proof.Machine

open Sys2Proof

/-! ### Region descriptors (R28 to R30): REGION_CONFIG -/

/-- Whether a list has an element twice. -/
def twice : List Nat → Bool
  | [] => false
  | a :: r => r.contains a || twice r

/-- Whether f = f_src × P / Q at the nominal rate lies in [0.4, 1.3] GHz, where f_src = 2^16 / NPER GHz (R29). -/
def rateOk (d : RegionDesc) : Bool :=
  let f := 65536 * d.p * 10
  4 * d.nper * d.q ≤ f && f ≤ 13 * d.nper * d.q

/-- The limits of a descriptor's fields (R28, R29, R30). -/
def State.regionOk (s : State) (d : RegionDesc) : Bool :=
  d.rid < 64 && d.isl.all s.liveIsland && d.src ≤ 16 && 1 ≤ d.p && d.p ≤ 2 ^ 32 && 1 ≤ d.q && d.q ≤ 2 ^ 16
    && (if d.src = 0 then d.p = 13 && d.q = 1 && d.flen % 13 = 0 && 13 ≤ d.flen && d.flen ≤ 4294967287
      else 1 ≤ d.nper && d.nper < 2 ^ 40 && 10 ≤ d.lbw && d.lbw ≤ 10000 && 1 ≤ d.jtol && d.jtol ≤ 255
        && 1 ≤ d.holdlim && d.holdlim ≤ 255 && rateOk d)

/-- Cores that an image names anywhere. -/
def namedCores (i : Image) : List Nat :=
  imageCores i ++ i.handles.map (·.core) ++ i.rings.map (·.core) ++ i.phases.map (·.core) ++ i.tiles.map (·.core)
    ++ i.subs.flatMap (fun d => [d.core, d.pub]) ++ i.wheel.map (·.2)

/-- The region of an image that names an island, and that of a core. -/
def imageRegion (i : Image) (isl : Nat) : Option RegionDesc := i.regions.find? (fun d => d.isl.contains isl)
def coreRegion (i : Image) (c : Nat) : Option RegionDesc := if c % 256 < 160 then imageRegion i (coreIsland c) else none

/-- Whether the cores of a gang lie in regions with one SRC (R29). -/
def oneSrc (i : Image) (cs : List Nat) : Bool :=
  let srcs := cs.map (fun c => (coreRegion i c).map (·.src))
  srcs.all (fun x => x = srcs.headD none)

/-- Step 1 of R51. -/
def State.regionsOk (s : State) (i : Image) : Bool :=
  i.regions.all s.regionOk && !twice (i.regions.map (·.rid)) && !twice (i.regions.flatMap (·.isl))
    && (i.groups.all (fun g => !g.gang || oneSrc i g.cores))
    && (namedCores i).all (fun c => (coreRegion i c).isSome)
    && i.crossings.all (fun x => (imageRegion i x.pisl).isSome && (imageRegion i x.cisl).isSome)

/-! ### Handles, rings and phases -/

/-- The two words of a preallocated entry: valid, generation 0, reserved bits zero (R76, R79). -/
def handleEntry (d : HandleDesc) : TEntry :=
  ⟨setF (setF (setB d.w0 63 true) 55 8 0) 0 14 0, setF d.w1 22 42 0⟩

/-- The preallocations of a core. -/
def handlesOf (i : Image) (c : Nat) : List HandleDesc := i.handles.filter (fun d => d.core = c)

/-- Whether a core's preallocations are legal one beside the other (R78). -/
def handlesOk : List TEntry → List HandleDesc → Bool
  | _, [] => true
  | done, d :: r => d.view < 256 && d.index < 256 && entLegal done (handleEntry d) && handlesOk (done ++ [handleEntry d]) r

/-- The preallocated handle of a view of a core. -/
def handleAt (i : Image) (c view : Nat) : Option HandleDesc := i.handles.find? (fun d => d.core = c && d.view = view)

/-- A ring descriptor within the limits of NSET (R135, R215). -/
def ringOk (i : Image) (d : RingDesc) : Bool :=
  match handleAt i d.core d.view with
  | some h =>
    let e := handleEntry h
    d.ring < 16 && 2 ≤ d.depth && d.depth ≤ 16 && entLevel e = 1 && entRows e = d.depth * d.rows
      && (d.rows = 32 || d.rows = 1) && entCols e = d.cols && (d.cols = 32 || d.cols = 64 || d.cols = 128 || d.cols = 256)
  | none => false

/-- A phase descriptor: 640 bytes, with its reserved bits zero (R63). -/
def phaseOk (d : PhaseDesc) : Bool :=
  d.index < 64 && d.bytes.length = 640 && (d.bytes.headD 0).toNat < 2
    && ((d.bytes.drop 1).take 63).all (fun b => b = 0)

/-! ### Subscriptions, wheel and crossings -/

/-- A subscription installed by the image meets what SUBON asks for (R251). -/
def subOk (i : Image) (d : SubDesc) : Bool :=
  match handleAt i d.core d.view, handleAt i d.pub d.pubView with
  | some a, some b =>
    d.core ≠ d.pub && entSize (handleEntry a) = entSize (handleEntry b)
      && (d.window = 0 || d.window = 8 || d.window = 32 || d.window = 128)
      && i.groups.any (fun g => g.cores.contains d.core && g.cores.contains d.pub)
      && (i.subs.filter (fun x => x.core = d.core && x.view = d.view)).length = 1
      && (i.subs.filter (fun x => x.core = d.core)).length ≤ 32
      && (i.subs.filter (fun x => x.pub = d.pub)).length ≤ 32
  | _, _ => false

/-- A crossing within the limits of R42, with DF and SDIV as its table gives them. -/
def State.crossOk (s : State) (ctx : Nat) (i : Image) (x : CrossDesc) : Bool :=
  let home := fun (n : Nat) => s.liveIsland n && ((s.ctx ctx).dies).contains (n / 8)
  let tb := fun (n : Nat) => ((imageRegion i n).map (·.src)).getD 0 = 0
  x.x < 64 && home x.pisl && home x.cisl && 1 ≤ x.ch && x.ch ≤ 64 && (x.t = 2 || x.t = 4 || x.t = 6 || x.t = 8)
    && 1 ≤ x.ptab && x.ptab ≤ 64 && 1 ≤ x.n && x.n ≤ 65535 && 1 ≤ x.d && x.d ≤ 65535 && x.w.length = x.ptab * x.t
    && x.lat ≤ 255 && (if x.pol = .decay then x.df.isSome else x.df.getD 0 = 0)
    && (if tb x.pisl || tb x.cisl then 1 ≤ x.sdiv && x.sdiv ≤ 65535 else x.sdiv = 0)
    && (AMap.get? s.cross x.x).isNone

/-! ### The other sections -/

/-- The group rules of R56: at most four groups, and exactly one gang. -/
def groupsOk (i : Image) : Bool :=
  i.groups.all (fun g => g.num < 256) && !twice (i.groups.map (·.num))
    && (imageCores i).all (fun c =>
      let mine := i.groups.filter (fun g => g.cores.contains c)
      mine.length ≤ 4 && (mine.filter (·.gang)).length = 1)

/-- The text of all timed tasks of a core, each block once, fits its instruction cache (R86). -/
def textOk (i : Image) (c : Nat) : Bool :=
  let ts := (i.tasks.filter (fun t => t.core = c && t.timed)).map (fun t => (t.textVa, t.text.length))
  (ts.foldl (fun (l : List (Nat × Nat)) p => if l.contains p then l else p :: l) []).foldl (fun n p => n + p.2) 0 ≤ 65536

/-- A start tick of 64 bits and a phase index of 6 (R55). -/
def taskOk (t : TaskDesc) : Bool := t.start < 2 ^ 64 && t.phase < 64

/-- Step 2 of R51: every other check. -/
def State.launchOk (s : State) (ctx : Nat) (i : Image) : Bool :=
  let cs := once (namedCores i)
  let key := fun (c n : Nat) => c * 4096 + n
  i.preds.length ≤ 8 && i.preds.all (fun p => p.1 < 32) && i.topology = (s.ctx ctx).topo
    && cs.all (fun c => s.liveCore c && ((s.ctx ctx).dies).contains (coreDie c))
    && i.regions.all (fun d => d.isl.all (fun n => ((s.ctx ctx).dies).contains (n / 8)))
    && groupsOk i && i.tasks.all taskOk
    && cs.all (fun c => handlesOk [] (handlesOf i c))
    && !twice (i.handles.map (fun d => key d.core d.view)) && !twice (i.handles.map (fun d => key d.core d.index))
    && i.rings.all (ringOk i) && !twice (i.rings.map (fun d => key d.core d.ring))
    && i.phases.all phaseOk && !twice (i.phases.map (fun d => key d.core d.index))
    && i.subs.all (subOk i)
    && i.wheel.all (fun p => p.1 < 4096 && ((coreRegion i p.2).map (·.src)).getD 1 = 0) && !twice (i.wheel.map (·.1))
    && i.crossings.length ≤ 64 && i.crossings.all (s.crossOk ctx i) && !twice (i.crossings.map (·.x))
    && i.tiles.all (fun d => match handleAt i d.core d.view with
      | some h => d.bytes.all (fun b => b.1 < entSize (handleEntry h))
      | none => false)
    && cs.all (textOk i)

/-- No pair of dies of a launch needs a table entry that no live link provides (R316). -/
def State.routesOk (s : State) (l : Launch) : Bool := (s.diePairs l).all (fun p => s.dieLat p.1 p.2 ≠ 0xFF)

end Sys2Proof.Machine
end

