-- ==== Sys2Proof/Machine/Tasks.lean ====
section
/-! DEFINITION. The start of a task (R55, R64, R79, R352). -/

namespace Sys2Proof.Machine

open Sys2Proof

/-! ### What a launch brings to a core -/

/-- The groups of an image that hold a core, in ascending number. -/
def groupsHolding (i : Image) (c : Nat) : List GroupDesc :=
  (i.groups.filter (fun g => g.cores.contains c)).foldl (fun l g => insertBy (·.num) g l) []

/-- GM of a core (R57). -/
def gmOf (i : Image) (c : Nat) : W64 :=
  BitVec.ofNat 64 ((groupsHolding i c).zipIdx.foldl (fun m p =>
    m + p.1.num * 2 ^ (8 * p.2) + 2 ^ (32 + p.2) + (if p.1.gang then p.2 * 2 ^ 36 else 0)) 0)

/-- The 256 bits of a set of a phase descriptor. -/
def phaseSet (bs : List Byte) (o : Nat) : BitVec 256 := BitVec.ofNat 256 (ofLe ((bs.drop o).take 32))

/-- A phase descriptor as a core holds it (R63). -/
def phaseOf (bs : List Byte) : PDesc where
  async := ((bs.headD 0).toNat % 2 = 1 : Bool)
  rd := (List.range 9).map (fun e => phaseSet bs (0x40 + 0x40 * e))
  wr := (List.range 9).map (fun e => phaseSet bs (0x60 + 0x40 * e))

/-- The phase descriptors of a core. -/
def phasesOf (i : Image) (c : Nat) : AMap PDesc :=
  (i.phases.filter (fun d => d.core = c)).foldl (fun m d => AMap.put m d.index (phaseOf d.bytes)) []

/-- The tile table and the views with the preallocations of a core, all else at its reset value (R79); the bytes of the tile store
stay. -/
def Tile.prealloc (t : Tile) (ds : List HandleDesc) : Tile :=
  ds.foldl (fun t d => { t with
    ents := t.ents.setIfInBounds d.index (handleEntry d)
    views := t.views.setIfInBounds d.view ⟨true, 0, BitVec.ofNat 8 d.index⟩ })
    { t with ents := Tile.init.ents, views := Tile.init.views }

/-- A ring installed by the image, with head = tail = 0 (R208). -/
def Core.ringInstall (k : Core) (d : RingDesc) : Core :=
  let r : Ring := ⟨true, d.view, k.vIdx d.view, d.depth, d.rows, d.cols, 0, 0, []⟩
  { k with cube := { k.cube with rings := k.cube.rings.setIfInBounds d.ring r } }

/-- LAUNCH_INITIALISE: the first task start of a launch on a core (R57, R60, R72, R74, R79, R179, R185, R208, R243, R278, R352). -/
def Core.launchInit (k : Core) (i : Image) (x : Ctx) (c : Nat) : Core :=
  let k1 : Core := { k with
    ct := { Counters.init with gm := gmOf i c, launchid := i.launchId }
    vec := .init
    cube := .init
    tile := k.tile.prealloc (handlesOf i c)
    tr := { k.tr with svec := x.trapvec, ssp := x.trapstk &&& 0xFFFFFFFF }
    prog := { k.prog with firstDone := true } }
  let k2 := k1.withStatus (fun st => setF st 16 6 0)
  let k3 := (i.rings.filter (fun d => d.core = c)).foldl (fun k d => k.ringInstall d) k2
  (i.tiles.filter (fun d => d.core = c)).foldl (fun k d =>
    k.store (k.vEnt d.view) (d.bytes.map (fun b => ⟨b.1, b.2, 0xFF⟩))) k3

/-! ### TASK_START -/

/-- The task's initial descriptor loaded as if by PHASE: a failed check is raised at the entry bundle. FADDR for a descriptor that was
not installed is a free value: there is no slot whose image it could be. -/
def State.firstPhase (s : State) (c d : Nat) : State :=
  let k := s.core c
  let hold := fun (s : State) (code : Nat) (faddr : W64) => s.modCore c (fun k => { k with seq := { k.seq with
    held := (code, faddr, s.cyc c) :: k.seq.held } })
  match AMap.get? k.prog.descs d with
  | none => hold s.drawn cIllegalField (Config.freeWord s.freeCtr)
  | some p =>
    match k.overlap p (k.doneCarries (s.cyc c)) with
    | some f => hold s cRwOverlap f
    | none => (s.closeAll c).loadPhase c d

/-- TASK_START: CBASE is taken, TIMED follows the task, the initial phase is loaded, and the entry group is reached after its GAP
(R55, R61, R64, R142). -/
def execTaskStart (c : Nat) (s : State) : Out :=
  let k := s.core c
  match k.prog.tasks, s.launchOf c with
  | t :: rest, some (_, l) =>
    if k.seq.st ≠ .idle || !k.seq.counting || k.prog.cur.isSome || s.now < t.start then .next s
    else
      let s1 := if k.prog.firstDone then s else s.modCore c (fun k => k.launchInit l.img (s.ctx l.ctx) c)
      let s2 := s1.modCore c (fun k =>
        let k1 := k.withStatus (fun x => setB (setB x 4 false) 5 t.timed)
        { k1 with
          ct := { k1.ct with cbase := k1.ct.cc }
          eng := { k1.eng with rendez := k1.eng.rendez.filter (fun r => r.tick.isSome) }
          prog := { k1.prog with cur := some t, tasks := rest }
          seq := { k1.seq with
            st := .run, pc := t.entry, kind := .none, reenter := none, target := none, dir := 0 } })
      let s3 := (s2.traceCore c 0x03 t.entry).firstPhase c t.phase
      .next (s3.setReach c (s3.cyc c))
  | _, _ => .next s

end Sys2Proof.Machine
end

