-- ==== Sys2Proof/Machine/Launches.lean ====
section
/-! DEFINITION. Command queues (R52, R320), admission and retirement of launches (R51 to R54, R86, R300, R346, R347, R349), and when a
gang is preempted for one and resumed after it (R65, R66, R303). -/

namespace Sys2Proof.Machine

open Sys2Proof

/-! ### Queues (R320) -/

/-- A queue by number: 32 × context + queue, the context 4 × command processor + partition context. -/
def State.queue (s : State) (q : Nat) : CmdQueue := (AMap.get? s.queues q).getD ⟨0, 0, 0⟩
def State.modQueue (s : State) (q : Nat) (f : CmdQueue → CmdQueue) : State := { s with queues := AMap.put s.queues q (f (s.queue q)) }

def qBase (ctl : W64) : Nat := getF ctl 12 52 * 4096
def qErr (ctl : W64) : W64 := setB ctl 9 true
def qEn (ctl : W64) : Bool := getB ctl 8
/-- The entries of a queue, by LOG2N. Rules state it for 4 to 12; of another value the model makes as many entries (log 20). -/
def qEntries (ctl : W64) : Nat := 2 ^ getF ctl 4 4
def qPrio (ctl : W64) : Nat := getF ctl 2 2

/-- Where entry i of a queue lies. -/
def qEntry (ctl : W64) (i : Nat) : Nat := qBase ctl + 16 * (i % qEntries ctl)

/-- QCTL with a write's RW fields, and QERR cleared where the write has a 1. -/
def qctlNew (old v : W64) : W64 :=
  let rw : W64 := 0xFFFFFFFFFFFFF1FC
  let e : W64 := if getB v 9 then 0 else old &&& 0x200
  (v &&& rw) ||| e

/-- The queue heads of a context are looked at (R54): no rule gives the moments (log 13). -/
def State.admissionPass (s : State) (ctx : Nat) : State :=
  if h : ctx < 8 then s.postEv s.now 13 (.launchAdmission ⟨ctx, h⟩) else s

/-- QCTL_WRITE: while EN = 0 or HEAD = TAIL; otherwise it is ignored and QERR is set. -/
def execQctlWrite (q : Fin 256) (v : W64) (s : State) : Out :=
  let x := s.queue q.val
  if !s.hostUp then .next s
  else if !qEn x.ctl || x.head = x.tail then
    .next ((s.modQueue q.val (fun x => { x with ctl := qctlNew x.ctl v })).admissionPass (q.val / 32))
  else .next (s.modQueue q.val (fun x => { x with ctl := qErr x.ctl }))

/-- Whether a tail write is refused, given the linear view that the queue must lie in: its first byte or its last entry is outside, or
TAIL − HEAD would exceed the entries. -/
def qRefuses (ctl : W64) (head v : W32) (lo : Nat) : Bool :=
  let last := qBase ctl + 16 * (qEntries ctl - 1)
  qBase ctl < lo || lo + 0x8000000000 ≤ qBase ctl || lo + 0x8000000000 < last + 16 || qEntries ctl < (v - head).toNat

/-- QTAIL_WRITE: the host submits launches; ignored while EN = 0, refused with QERR as R320 states. -/
def execQtailWrite (q : Fin 256) (v : W32) (s : State) : Out :=
  let x := s.queue q.val
  if !s.hostUp || !qEn x.ctl then .next s
  else if qRefuses x.ctl x.head v 0x40000000000 then .next (s.modQueue q.val (fun x => { x with ctl := qErr x.ctl }))
  else .next ((s.modQueue q.val (fun x => { x with tail := v })).admissionPass (q.val / 32))

/-! ### Preemption asked for and given up (R65, R66, R303) -/

/-- Launches being admitted that wait for a gang. -/
def State.waiters (s : State) (g : Nat) : List (Nat × Launch) :=
  s.launches.filter (fun l => l.2.st = .admitting && l.2.preempted.contains g)

/-- A gang that a launch waits for is stopped: STOP is broadcast for cycle S, 512 timebase cycles ahead. While it may not be saved the
request is repeated. -/
def State.tryPreempt (s : State) (g : Nat) : State :=
  match AMap.get? s.gangs g with
  | some x =>
    if x.st ≠ .running || x.wantBy.isNone then s
    else if s.unsavable x then s.drawn.postMi (s.now + tbCycle + s.free) 13 (.tryPreempt g)
    else
      let t := (cdiv s.now tbCycle + 512) * tbCycle
      (s.modGang g (fun x => { x with st := .stopping, stopT := t })).postEv t 8 (.gangStop g)
  | none => s

/-- A gang wanted by a launch: a running one is stopped, one that is being restored is saved again. -/
def State.want (s : State) (l g : Nat) : State :=
  match AMap.get? s.gangs g with
  | some x =>
    match x.st with
    | .saved => s
    | .restoring =>
      if x.saved.isEmpty then (s.modGang g (fun x => { x with st := .saving })).postFree s.now 8 (.contextSave g)
      else s.modGang g (fun x => { x with st := .saved })
    | _ => (s.modGang g (fun x => { x with wantBy := some l })).tryPreempt g
  | none => s

/-- The launches that hold a core: with its live gang, with a saved one, or as the one that it is being admitted to. -/
def State.holders (s : State) (c : Nat) : List (Nat × Launch) :=
  s.launches.filter (fun l => l.2.st ≠ .retired &&
    ((s.core c).seq.launch = some l.1 || (l.2.st = .admitting && (imageCores l.2.img).contains c)
      || s.gangs.any (fun g => g.2.launch = l.1 && g.2.cores.contains c && (AMap.get? g.2.saved c).isSome)))

/-- A gang whose context is saved is restored once no launch of higher priority holds or is given any of its cores, with a live gang
or a saved one (R66). -/
def State.tryResume (s : State) (g : Nat) : State :=
  match AMap.get? s.gangs g with
  | some x =>
    let mine := (s.launchRec x.launch).map (·.prio)
    let taken := fun (c : Nat) => (s.core c).seq.launch.isSome || (s.holders c).any (fun l => l.2.prio < mine.getD 0)
    if x.st = .saved && x.cores.all (fun c => !taken c) && (s.launchRec x.launch).any (fun l => l.st = .running) then
      (s.modGang g (fun x => { x with st := .restoring, resumeT := 0 })).postFree s.now 8 (.contextRestore g)
    else s
  | none => s

/-- Every saved gang looked at, those of higher priority first. -/
def State.resumeAll (s : State) : State :=
  (List.range 4).foldl (fun s p =>
    (s.gangs.filter (fun g => (s.launchRec g.2.launch).any (fun l => l.prio = p))).foldl (fun s g => s.tryResume g.1) s) s

/-- Launches that wait for a gang look whether their admission is complete. -/
def State.wakeWaiters (s : State) (g : Nat) : State :=
  (s.waiters g).foldl (fun s l => s.postEv s.now 13 (.admissionComplete l.1)) s

/-! ### Completion records (R52, R320) -/

/-- The status code of a completion record. -/
def LStatus.code : LStatus → Nat
  | .ok => 0 | .lateStart => 1 | .regionConfig => 2 | .launchConfig => 3 | .doubleFault => 4 | .aborted => 5

/-- The 16 bytes of a completion record. -/
def completionRecord (id : BitVec 16) (st : LStatus) (t : Nat) : List Byte :=
  leBytes 2 id.toNat ++ leBytes 1 st.code ++ leBytes 5 0 ++ leBytes 8 t

/-- The master id of the command processor of a queue (R97). -/
def cpMaster (q : Nat) : Nat := 0x11B + q / 128

/-- The completion record written over the entry at a queue's head, before HEAD passes it, with its trace record; a record that the target
denies is not written. -/
def State.recordDone (s : State) (q : Nat) (id : BitVec 16) (st : LStatus) : State :=
  let x := s.queue q
  let s1 := (s.agentPut (cpMaster q) (qEntry x.ctl x.head.toNat) none (completionRecord id st s.ptc)).1
  let s2 := s1.modQueue q (fun x => { x with head := x.head + 1 })
  (s2.traceOther (s2.ctxDie (q / 32)) (0xF100 + q / 128) 0x02 id (BitVec.ofNat 64 st.code)).admissionPass (q / 32)

/-- A queue head rejected before admission retires at once; its record stays for those that name it as a predecessor. -/
def State.reject (s : State) (l : Nat) (x : Launch) (st : LStatus) : State :=
  let x2 : Launch := { x with st := .retired, status := st, preempted := [] }
  let s1 : State := { s with launches := AMap.put s.launches l x2 }
  let s2 := x.preempted.foldl (fun s g => s.modGang g (fun y => { y with wantBy := none })) s1
  (s2.recordDone x.queue x.img.launchId st).resumeAll

/-! ### LAUNCH_ADMISSION (R53, R54) -/

/-- Whether the command processor of a context has reported PARTITION_LOST (R318). -/
def State.cpLost (s : State) (ctx : Nat) : Bool := if ctx < 4 then s.pkg.lost0 else s.pkg.lost2

/-- An image of which nothing is known: what a queue entry that names no image is judged as. -/
def noImage : Image where
  launchId := 0
  latefault := false
  miglock := false
  preds := []
  regions := []
  topology := .mesh
  groups := []
  tasks := []
  handles := []
  rings := []
  phases := []
  subs := []
  wheel := []
  crossings := []
  tiles := []

/-- The schedule image that a queue entry names (R90), read by the queue's command processor; one that may not read the entry or the image
finds none (log 40). -/
def State.entryImage (s : State) (q i : Nat) : State × Option Image :=
  let e := s.agentGet (cpMaster q) (qEntry (s.queue q).ctl i) 16 none
  match e.2 with
  | some bs =>
    let a := ofLe (bs.take 8)
    match s.dpa a with
    | some (_, x) => let g := e.1.agentGet (cpMaster q) a 1 none; (g.1, if g.2.isSome then AMap.get? s.images x else none)
    | none => (e.1, none)
  | none => (e.1, none)

/-- Whether every core of a launch is free, or held by gangs of running launches of strictly lower priority (R53, R54). -/
def State.mayTake (s : State) (prio : Nat) (i : Image) : Bool :=
  (imageCores i).all (fun c => (s.holders c).all (fun l => l.2.st = .running && prio < l.2.prio))

/-- The gangs that hold cores of an image. -/
def State.gangsOver (s : State) (i : Image) : List Nat :=
  (s.gangs.filter (fun g => g.2.cores.any (fun c => (imageCores i).contains c))).map (·.1)

/-- A queue head examined: rejected, left at the head, or its admission begun. A launch that needs a route which no live link provides is one
of LAUNCH_CONFIG, though a core of it lies in a group without authority (R316, R318). -/
def State.tryHead (s : State) (q : Nat) : State :=
  let x := s.queue q
  let ctx := q / 32
  if !qEn x.ctl || x.head = x.tail || s.launches.any (fun l => l.2.queue = q && l.2.st ≠ .retired) then s
  else
    let prio := qPrio x.ctl
    let key := s.nextKey
    let e := s.entryImage q x.head.toNat
    let img := e.2
    let i := img.getD noImage
    let l : Launch := ⟨ctx, q, prio, i, .admitting, .ok, s.gangsOver i⟩
    let s1 : State := { e.1 with nextKey := key + 1 }
    if s.cpLost ctx || ((imageCores i).any s.coreLost && s.routesOk l) then s1.reject key { l with preempted := [] } .aborted
    else if img.isNone then s1.reject key { l with preempted := [] } .launchConfig
    else if !s.regionsOk i then s1.reject key { l with preempted := [] } .regionConfig
    else if !(s.launchOk ctx i && s.routesOk l) then s1.reject key { l with preempted := [] } .launchConfig
    else if !s.mayTake prio i then s
    else
      let s2 : State := { s1 with launches := AMap.put s1.launches key l }
      let s3 := l.preempted.foldl (fun s g => s.want key g) s2
      s3.postFree s3.now 13 (.admissionComplete key)

/-- The queues of a context in the order of an admission pass: by priority, from the rotating origin on. -/
def State.passOrder (s : State) (ctx : Nat) : List Nat :=
  (List.range 4).flatMap (fun p =>
    ((List.range 32).map (fun i => ctx * 32 + ((s.ctx ctx).origins.toArray.getD p 0 + i) % 32)).filter
      (fun q => qPrio (s.queue q).ctl = p))

/-- LAUNCH_ADMISSION: nothing is admitted before bring-up is ready (R348). -/
def execLaunchAdmission (ctx : Fin 8) (s : State) : Out :=
  if getF s.pkg.bootst 0 4 ≠ 6 then .next s
  else .next ((s.passOrder ctx.val).foldl (fun s q => s.tryHead q) s)

/-! ### ADMISSION_COMPLETE -/

/-- The most milliwatts that the islands of a launch draw, each by its own entry (R347). -/
def State.launchPower (s : State) (i : Image) : Nat :=
  (i.regions.flatMap (·.isl)).foldl (fun n x => n + (s.powerEntry x).mw) 0

/-- Whether a launch exceeds its context's cap beside those already admitted (R347). -/
def State.overCap (s : State) (l : Launch) : Bool :=
  let others := s.launches.filter (fun y => y.2.ctx = l.ctx && (y.2.st = .running || y.2.st = .aborting))
  (s.ctx l.ctx).pcap.toNat * 1000 < others.foldl (fun n y => n + s.launchPower y.2.img) (s.launchPower l.img)

/-- Whether every listed predecessor has retired (R53): of a launch id that its queue has used again, any one (log 13). -/
def State.predsDone (s : State) (l : Launch) : Bool :=
  l.img.preds.all (fun p => s.launches.any (fun y =>
    y.2.st = .retired && y.2.queue = l.ctx * 32 + p.1 && y.2.img.launchId = p.2))

/-- The earliest of some start ticks. -/
def earliest (l : List Nat) : Option Nat :=
  l.foldl (fun (b : Option Nat) t =>
    match b with
    | some x => some (Nat.min x t)
    | none => some t) none

/-- The earliest start tick of an image has passed (R53). -/
def State.startPassed (s : State) (i : Image) : Bool :=
  match earliest (i.tasks.map (·.start)) with
  | some t => t * tick < s.now
  | none => false

/-- Whether edges arrive at a port whose mode takes samples (R349). -/
def Port.live (p : Port) : Bool := p.edges && (p.mode = 1 || p.mode = 2)

/-- A region of an admitted launch (R32, R349). -/
def State.addRegion (s : State) (l : Nat) (d : RegionDesc) : State :=
  let live := (s.port (d.src - 1)).live
  let g : Region := {
    launch := l, desc := d, st := if d.src = 0 then .running else if live then .relocking else .stopped
    anchorT := s.now, anchorR := 0, len := tbCycle, per := 1, fbase := 0, fn := 0, started := false, lastLand := s.now
    lockLeft := if live then some (1 + s.free % 64) else none, locked := false, jitter := false, gated := false
    reads := none, lastOrder := (s.port (d.src - 1)).order }
  let fresh := d.src ≠ 0 && (s.ofPort (d.src - 1)).isEmpty
  let s1 : State := { s.drawn with regions := AMap.put s.regions s.nextKey g, nextKey := s.nextKey + 1 }
  let s2 := if fresh then s1.modPort (d.src - 1) (fun p => { p with rx := [], taint := false, slots := (.empty, .empty) }) else s1
  if d.src = 0 then s2.powerUp d.isl else s2

/-- A gang of an admitted launch (R56). -/
def State.addGang (s : State) (l : Nat) (d : GroupDesc) : State :=
  let x : Gang := {
    launch := l, num := d.num, cores := d.cores, st := .running, stopT := 0, haltT := 0, trapped := [], retts := []
    ended := [], lastRett := 0, lastRettT := 0, restartT := 0, saved := [], resumeT := 0, wantBy := none, drops := 0
    byDebug := false, step := 0, stepSum := 0, dbgT := 0, df := false }
  { s with gangs := AMap.put s.gangs s.nextKey x, nextKey := s.nextKey + 1 }

/-- A crossing installed at the present tick (R42). -/
def State.addCross (s : State) (l : Nat) (d : CrossDesc) : State :=
  let x : Crossing := {
    launch := l, desc := d, inst := s.ptc * tick, recv := 0, soff := 0, t0 := 0, xs := [], last := none, ys := []
    nextN := 0, deliv := 0, stale := 0, slip := 0, run := 0, was := none, reanchor := false }
  let s1 : State := { s with cross := AMap.put s.cross d.x x }
  let tb : Bool := match s1.regionOf l d.cisl with
    | some (_, g) => g.desc.src = 0
    | none => true
  if h : d.x < 64 then (if tb then s1.postEv s1.now 2 (.consumerSampleDelivery ⟨d.x, h⟩) else s1) else s1

/-- The tasks of a core, and the text of its timed ones, pinned (R55, R86). -/
def tasksOf (i : Image) (c : Nat) : List TaskEnt :=
  (i.tasks.filter (fun t => t.core = c)).map (fun t => ⟨t.entry, t.start * tick, t.timed, t.phase, t.ccrel⟩)
def pinnedOf (i : Image) (c : Nat) : List (Nat × List Byte) :=
  (i.tasks.filter (fun t => t.core = c && t.timed)).map (fun t => (t.textVa, t.text))

/-- A core given to a launch: nothing of an earlier one is in flight or installed; registers, tables and tile store stay until the
first task start. A core of a timebase region counts from the region's first cycle on; one of a sample-locked region waits for its
first frame (R32, R349). -/
def Core.forLaunch (k : Core) (i : Image) (c l : Nat) (r g : Option Nat) (ref : Option Nat) : Core :=
  let st := setB (setB (setB k.tr.status 4 false) 5 false) 7 false
  { k with
    tr := { k.tr with status := st }
    fl := { Flight.init with seq := k.fl.seq }
    x := Core.init.x
    eng := { Engines.init with
      nextId := k.eng.nextId, tlb := k.eng.tlb, wheel := (i.wheel.filter (fun w => w.2 = c)).map (·.1) }
    sub := Core.init.sub
    ui := Core.init.ui
    prog := ⟨tasksOf i c, none, pinnedOf i c, phasesOf i c, none, (0, 0), false, []⟩
    seq := { Seq.init with
      st := if ref.isSome then .idle else .stopped
      counting := ref.isSome, ref := ref.getD 0, epoch := k.seq.epoch + 1, launch := some l, region := r, gang := g } }

/-- The first cycle of a timebase region: at or after the earliest start tick of its tasks (R32); where none of its cores has a task,
the first at or after its admission (DESIGN CHOICE, log 14: R32 names no tick then). -/
def State.regionFirst (s : State) (i : Image) (d : RegionDesc) : Nat :=
  let ts := (i.tasks.filter (fun t => d.isl.contains (coreIsland t.core))).map (·.start)
  firstCycle none (Nat.max s.now ((earliest ts).getD 0 * tick))

/-- A core of an admitted launch set up, with its first acts posted. -/
def State.addCore (s : State) (l : Nat) (i : Image) (c : Nat) : State :=
  let rg := s.regionOf l (coreIsland c)
  let gang := (s.gangs.find? (fun g => g.2.launch = l && g.2.cores.contains c)).map (·.1)
  let ref := match rg with
    | some (_, g) => if g.desc.src = 0 then some (s.regionFirst i g.desc) else none
    | none => none
  let s1 := s.modCore c (fun k => k.forLaunch i c l (rg.map (·.1)) gang ref)
  match ref with
  | some _ => (s1.postFrame c).postTask c (s1.cyc c)
  | none => s1

/-- A subscription of the image: both of its entries, ACTIVE (R251). -/
def State.addSub (s : State) (i : Image) (d : SubDesc) : State :=
  let idx := fun (c v : Nat) => ((handleAt i c v).map (·.index)).getD 0
  let k := s.nextId d.core
  let e : SubEnt := ⟨d.view, idx d.core d.view, 0, d.pub, d.pubView, d.window, .active, 0⟩
  let s1 := (s.modSub d.core (fun x => { x with subs := AMap.put x.subs k e })).useId d.core
  let f : FwdEnt := ⟨d.core, k, d.pubView, idx d.pub d.pubView, 0, d.window, none, false, 0, 0, none⟩
  (s1.modSub d.pub (fun x => { x with fwds := AMap.put x.fwds (s1.nextId d.pub) f })).useId d.pub

/-- The moves of pages of a context that have not been made yet given up: the requests held go on at the old home (R96). -/
def State.dropMoves (s : State) (ctx : Nat) : State :=
  s.dies.foldl (fun s p =>
    let gone := p.2.migr.filter (fun m => m.ctx = ctx && m.st < 2)
    (s.modDie p.1 (fun y => { y with migr := y.migr.filter (fun m => !(m.ctx = ctx && m.st < 2)) })).sendHeld (gone.flatMap (·.held))) s

/-- A launch admitted: the origin of its priority moves on (R54), regions, gangs, crossings, cores and subscriptions are set up. -/
def State.admitLaunch (s : State) (l : Nat) (x : Launch) : State :=
  let i := x.img
  let x2 : Launch := { x with st := .running, preempted := [] }
  let s0 := if i.miglock then s.dropMoves x.ctx else s
  let s1 : State := { s0 with launches := AMap.put s0.launches l x2 }
  let s2 := s1.modCtx x.ctx (fun c => { c with origins := c.origins.setIfInBounds x.prio ((x.queue + 1) % 32) })
  let s3 := i.regions.foldl (fun s d => s.addRegion l d) s2
  let s4 := (i.groups.filter (·.gang)).foldl (fun s d => s.addGang l d) s3
  let s5 := i.crossings.foldl (fun s d => s.addCross l d) s4
  let s6 := (imageCores i).foldl (fun s c => s.addCore l i c) s5
  let s7 := i.subs.foldl (fun s d => s.addSub i d) s6
  let s8 := s7.traceOther (s7.ctxDie x.ctx) (0xF100 + x.queue / 128) 0x01 i.launchId
    (BitVec.ofNat 64 (x.queue % 32 + x.prio * 2 ^ 6))
  s8.postEv s8.now 13 (.launchRetire l)

/-- ADMISSION_COMPLETE: once the last preempted context is saved, the links that have failed meanwhile (R316, R318), the power cap, the
predecessors and the start tick are judged in this order (R51, R53, R347). -/
def execAdmissionComplete (l : Nat) (s : State) : Out :=
  match AMap.get? s.launches l with
  | some x =>
    let saved := x.preempted.all (fun g => match AMap.get? s.gangs g with
      | some y => y.st = .saved
      | none => true)
    let free := (imageCores x.img).all (fun c => (s.core c).seq.launch.isNone)
    if x.st ≠ .admitting || !saved || !free then .next s
    else if s.cpLost x.ctx then .next (s.reject l x .aborted)
    else if !s.routesOk x then .next (s.reject l x .launchConfig)
    else if s.launchLost x then .next (s.reject l x .aborted)
    else if s.overCap x then .next (s.reject l x .regionConfig)
    else if !s.predsDone x || s.startPassed x.img then .next (s.reject l x .lateStart)
    else .next (s.admitLaunch l x)
  | none => .next s

/-! ### LAUNCH_RETIRE (R53, R300) -/

/-- Cores of a launch, live and saved. -/
def State.launchCores (s : State) (l : Nat) : List (Nat × Core) :=
  s.cores.filter (fun p => p.2.seq.launch = some l)
    ++ (s.gangs.filter (fun g => g.2.launch = l)).flatMap (fun g => g.2.saved)

/-- Whether engine commands of a core have still to complete; a queued cube command that no ASYNC phase will start does not count. -/
def Core.engaged (k : Core) : Bool :=
  !k.inFlight.isEmpty || !k.eng.fences.isEmpty || !k.sub.syncs.isEmpty || k.cube.pipe.isSome || !k.cube.drains.isEmpty
    || (k.async && !k.cube.queue.isEmpty)

/-- Lines of subscription batches and multicast landings of a core on their way. -/
def State.sending (s : State) (c : Nat) : Bool :=
  s.agenda.any (fun d => match d.act with
    | .ev (.batchLineLanding _ l) => l.pub = c
    | .ev (.multicastLanding _ m) => m.src = c
    | _ => false)

/-- Whether a core of a launch has a task that runs or waits; an aborted launch has none once its cores have stopped. -/
def Core.tasked (k : Core) (aborting : Bool) : Bool :=
  if aborting then k.seq.armed || k.seq.counting || k.seq.st = .trap else k.prog.cur.isSome || !k.prog.tasks.isEmpty

/-- Whether something of a launch has still to complete besides its tasks; a gang that halts or is halted will restart, or abort the
launch (R68). -/
def State.unfinished (s : State) (l : Nat) (x : Launch) : Bool :=
  let cs := s.launchCores l
  cs.any (fun p => p.2.engaged || s.sending p.1 || p.2.tileRuns (s.cyc p.1) || p.2.fl.ops.any TOp.isStore)
    || (x.st = .running && (cs.any (fun p => !p.2.fl.ops.isEmpty || !p.2.fl.regs.isEmpty || p.2.cube.mtile.isSome)
      || s.gangs.any (fun g => g.2.launch = l && (g.2.st = .halting || g.2.st = .halted))))

/-- An act of the agenda that belongs to the task or the cycles of a core. -/
def Act.ofCore : Act → Option Nat
  | .ev (.taskStart c) | .ev (.realignTick c _) | .ev (.twaitLeave c) => some c
  | a => a.cycleOf

/-- A core freed: its text is unpinned; what it computed, and what the debugger and the Tilth table show, stays. -/
def Core.freed (k : Core) : Core :=
  { k with
    fl := { Flight.init with seq := k.fl.seq }
    x := Core.init.x
    eng := { Engines.init with nextId := k.eng.nextId, tlb := k.eng.tlb }
    sub := Core.init.sub
    ui := Core.init.ui
    cube := { k.cube with pipe := none, drains := [], mtile := none, queue := [] }
    prog := { k.prog with tasks := [], cur := none, text := [], descs := [], firstDone := false, icache := [] }
    seq := { Seq.init with
      st := if k.seq.st = .haltedDf then .haltedDf else .idle, epoch := k.seq.epoch + 1, cif := k.seq.cif, fn := k.seq.fn } }

/-- What a launch held given up: cores, regions, gangs, collective instances, crossings, and the voltage of its islands. -/
def State.release (s : State) (l : Nat) (x : Launch) : State :=
  let cs := (s.cores.filter (fun p => p.2.seq.launch = some l)).map (·.1)
  let mine := fun (d : Due) => match d.act.ofCore with
    | some c => cs.contains c
    | none => false
  let s1 : State := { s with agenda := s.agenda.filter (fun d => !mine d) }
  let s2 := cs.foldl (fun s c => s.modCore c (fun k => { k with seq := { k.seq with cif := s.cifNow c } })) s1
  let s3 := cs.foldl (fun s c => s.modCore c Core.freed) s2
  let s4 : State := { s3 with
    regions := s3.regions.filter (fun r => r.2.launch ≠ l)
    gangs := s3.gangs.filter (fun g => g.2.launch ≠ l)
    insts := s3.insts.filter (fun i => i.2.launch ≠ l)
    cross := s3.cross.filter (fun y => y.2.launch ≠ l)
    hist := s3.hist.filter (fun y => y.2.launch ≠ l) }
  s4.modPkg (fun p => { p with islandMv := (x.img.regions.flatMap (·.isl)).foldl AMap.del p.islandMv })

/-- LAUNCH_RETIRE: with no task running, and all engine commands, collectives and landings done, the completion record is written. -/
def execLaunchRetire (l : Nat) (s : State) : Out :=
  match AMap.get? s.launches l with
  | some x =>
    let aborting := x.st = .aborting
    if (x.st ≠ .running && x.st ≠ .aborting) || (s.launchCores l).any (fun p => p.2.tasked aborting) then .next s
    else if s.unfinished l x then
      let again : Act := .ev (.launchRetire l)
      .next (if s.agenda.any (fun d => d.act = again) then s else s.postFree (s.now + tbCycle) 13 (.launchRetire l))
    else
      let s1 := s.release l x
      let x2 : Launch := { x with st := .retired, status := if aborting then x.status else .ok }
      let s2 : State := { s1 with launches := AMap.put s1.launches l x2 }
      let s3 := s2.recordDone x.queue x.img.launchId x2.status
      let s4 := (s3.launches.filter (fun y => y.2.st = .admitting)).foldl (fun s y => s.postEv s.now 13 (.admissionComplete y.1)) s3
      .next s4.resumeAll
  | none => .next s

end Sys2Proof.Machine
end

