-- ==== Sys2Proof/Machine/Contexts.lean ====
section
/-! DEFINITION. Saving, restoring and resuming a preempted gang (R65, R66, R301 to R304). -/

namespace Sys2Proof.Machine

open Sys2Proof

/-! ### CONTEXT_SAVE -/

/-- Whether a stopped core still has something under way that its context does not hold: started copies, issued atomics and SC
operations, sends that have left, batches that are not acknowledged, cube work, store accesses (R65 step 3). Collectives and commands
that have not started do not count (R65 step 4, R250). -/
def State.underWay (s : State) (c : Nat) : Bool :=
  let k := s.core c
  k.eng.chans.toList.any (fun l => (l.head?).any (·.started))
    || (k.eng.amos ++ k.eng.scs).any (·.issued)
    || k.eng.misc.any (fun m => m.at_.isSome) || k.eng.slips.any (·.sent) || !k.sub.syncs.isEmpty
    || k.sub.inflight.any (fun i => i.ackAt.all (fun t => s.now < t))
    || k.cube.pipe.isSome || !k.cube.drains.isEmpty || k.tileRuns (s.cyc c) || !k.fl.ops.isEmpty

/-- The context of a core: its unissued atomics are translated anew, and its SC positions are free again (R240). -/
def Core.context (k : Core) : Core :=
  k.withEng (fun e => { e with amos := e.amos.map (fun x => { x with rq := none }), lastPos := 0, tlb := [] })

/-- The core that a saved context leaves behind: its registers, tables and tile store as they are, with nothing in flight, of no
launch. -/
def Core.vacated (k : Core) (cif : W32) : Core :=
  { k with
    fl := { Flight.init with seq := k.fl.seq }
    x := Core.init.x
    eng := { Engines.init with nextId := k.eng.nextId, tlb := k.eng.tlb }
    sub := Core.init.sub
    ui := Core.init.ui
    cube := { k.cube with mtile := none, queue := [] }
    prog := Core.init.prog
    seq := { Seq.init with st := .suspend, epoch := k.seq.epoch + 1, cif := cif, fn := k.seq.fn } }

/-- Cores whose save area, in the HBM of their own die, the command processor of their launch may not access under its own master id
(R97, R301): the kind alone counts, the page's key being of the security processor's choice (log 34). -/
def State.areaDenied (s : State) (x : Gang) (q : XKind) : List Nat :=
  let cp := cpMaster (((s.launchRec x.launch).map (·.queue)).getD 0)
  x.cores.filter (fun c => !s.grantsKind (coreDie c) cp q)

/-- The denials entered in the logs of the targets, each with a free address in the area, which R301 does not give. -/
def State.logArea (s : State) (x : Gang) (q : XKind) : State :=
  let cp := cpMaster (((s.launchRec x.launch).map (·.queue)).getD 0)
  (s.areaDenied x q).foldl (fun s c => (s.logDenial (coreDie c) cp s.free q).drawn) s

/-- A gang's contexts saved, and its cores given up. -/
def State.saveGang (s : State) (g : Nat) (x : Gang) : State :=
  let ctxs : AMap Core := x.cores.foldl (fun m c => AMap.put m c (s.core c).context) []
  let s1 := x.cores.foldl (fun s c => s.modCore c (fun k => k.vacated (s.cifNow c))) s
  s1.modGang g (fun x => { x with st := .saved, saved := ctxs, wantBy := none })

/-- CONTEXT_SAVE: once the commands in flight have completed, every context of the gang is saved in one act. Where a save area is denied, the
denial is logged and the save repeated (DESIGN CHOICE, log 34: no rule says what follows). -/
def execContextSave (g : Nat) (s : State) : Out :=
  match AMap.get? s.gangs g with
  | some x =>
    if x.st ≠ .saving || !(x.cores.all (fun c => (s.core c).seq.st = .suspend)) then .next s
    else if x.cores.any s.underWay then .next (s.postFree (s.now + tbCycle) 8 (.contextSave g))
    else if !(s.areaDenied x .write).isEmpty then .next ((s.logArea x .write).postFree (s.now + tbCycle) 8 (.contextSave g))
    else .next (((s.saveGang g x).wakeWaiters g).tryResume g)
  | none => .next s

/-! ### CONTEXT_RESTORE -/

/-- A context put back on its core; the numbers of its commands go on from the larger, and what no context holds, the
translation cache and the debug window, stays as it is. -/
def Core.restoreTo (k live : Core) : Core :=
  { k with
    eng := { k.eng with nextId := Nat.max k.eng.nextId live.eng.nextId, tlb := live.eng.tlb }
    prog := { k.prog with icache := [] }
    dbg := live.dbg
    seq := { k.seq with epoch := Nat.max k.seq.epoch live.seq.epoch + 1 } }

/-- CONTEXT_RESTORE: all contexts are restored in one act, and the members' publishers send their resyncs (R253, R304); one whose save area
is denied is repeated. -/
def execContextRestore (g : Nat) (s : State) : Out :=
  match AMap.get? s.gangs g with
  | some x =>
    if x.st ≠ .restoring || x.saved.isEmpty then .next s
    else if x.cores.any (fun c => (s.core c).seq.launch.isSome) then .next (s.modGang g (fun x => { x with st := .saved }))
    else if !(s.areaDenied x .read).isEmpty then .next ((s.logArea x .read).postFree (s.now + tbCycle) 8 (.contextRestore g))
    else
      let s1 := x.saved.foldl (fun s p => s.modCore p.1 (fun live => p.2.restoreTo live)) s
      let s2 := s1.modGang g (fun x => { x with saved := [] })
      let s3 := x.cores.foldl (fun s c => s.resyncs x.launch c true) s2
      .next (s3.postFree s3.now 8 (.gangResume g))
  | none => .next s

/-! ### GANG_RESUME -/

/-- The time by which tasks that have not begun move: tr less the instant of S (R66). -/
def Gang.shift (x : Gang) : Nat := x.resumeT - x.stopT

/-- A member resumes: in a timebase region at its first cycle at or after tr, in a sample-locked one at its region's next frame start. -/
def State.resumeMember (s : State) (x : Gang) (c : Nat) : State :=
  let s1 := s.modCore c (fun k => { k with prog := { k.prog with
    tasks := k.prog.tasks.map (fun t => { t with start := t.start + x.shift }) } })
  let s2 := s1.logDcr c 0x07 noPc 1
  let s3 := if x.drops = 0 then s2 else s2.logDcr c 0x0F noPc x.drops
  let s4 := if s3.timebase c then
      ((s3.traceCore c 0x0A (BitVec.ofNat 64 (x.resumeT / tick))).wakeCore c (s3.first c x.resumeT)).unfresh x.launch c else s3
  (((s4.closeAll c).scAfresh c ((s4.core c).eng.scs)).fenceKick c).kick c

/-- GANG_RESUME: the command processor chooses tr once every context is restored and every resync has landed; at tr the members
resume, ahead of a frame that starts then (R66, R304). -/
def execGangResume (g : Nat) (s : State) : Out :=
  match AMap.get? s.gangs g with
  | some x =>
    if x.st ≠ .restoring || !x.saved.isEmpty then .next s
    else if x.cores.any s.resyncing then .next (s.postFree (s.now + tbCycle) 8 (.gangResume g))
    else if x.resumeT = 0 || s.now < x.resumeT then
      let t := (cdiv s.now tick + 1 + s.free) * tick
      .next ((s.drawn.modGang g (fun x => { x with resumeT := t })).postEv t 0 (.gangResume g))
    else
      let s1 := s.modGang g (fun x => { x with st := .running, wantBy := none, drops := 0 })
      .next ((x.cores.foldl (fun s c => s.resumeMember x c) s1).tryRegions x.cores)
  | none => .next s

end Sys2Proof.Machine
end

