-- ==== Sys2Proof/Machine/Debug.lean ====
section
/-! DEFINITION. The debug window: DBGCTL, its commands, and the debugger's writes (R305, R306, R309). -/

namespace Sys2Proof.Machine

open Sys2Proof

/-- The member number under which a RESUME stands among the RETTs of a gang. -/
def resumeMark : Nat := 0xFFFF

/-- Whether a debugger's command on a gang is still acting: a HALT or a step in progress, or a RESUME that has not restarted it. -/
def Gang.commanded (x : Gang) (now : Nat) : Bool :=
  (x.byDebug && (x.st = .halting || now < x.dbgT)) || x.step ≠ 0 || x.retts.any (fun r => r.1 = resumeMark)

/-- Whether a gang waits for a debugger's command. -/
def Gang.waits (x : Gang) (now : Nat) : Bool := x.st = .halted && x.byDebug && !x.commanded now && !x.df

/-- HALT: the gang stops as R67 does, with F the cycle in progress, and no core enters its handler; a gang that a fault halts waits for
the debugger from then on. -/
def execDebugHalt (c : Nat) (s : State) : Out :=
  match s.gangOf c with
  | some (g, x) =>
    if x.commanded s.now || x.df then .next s
    else match x.st with
    | .running | .stopping | .halting | .halted => .next (s.debugHalt g (s.inst c (s.cyc c)))
    | _ => .next s
  | none => .next s

/-- A step of a gang that the debugger has halted. -/
def State.debugStep (s : State) (c n : Nat) : State :=
  match s.gangOf c with
  | some (g, x) => if x.waits s.now then s.stepGang g x n else s
  | none => s

/-- STEP: every core of the halted gang advances by one cycle. -/
def execDebugStep (c : Nat) (s : State) : Out := .next (s.debugStep c 1)

/-- STEPG: STEP repeated until a core of the gang issues a group. -/
def execDebugStepg (c : Nat) (s : State) : Out := .next (s.debugStep c 2)

/-- The RESUME tick: TICK below the upper bits of the PTC. -/
def State.resumeTick (s : State) (c : Nat) : Nat := s.ptc / 2 ^ 32 * 2 ^ 32 + (s.core c).dbg.tick.toNat

/-- RESUME of a gang: it restarts as a RETT on every core would, at the tick in TICK (R68, R297). Where cores of it are within their
handlers, these go on with them, and the gang restarts when they have returned (log 35). -/
def State.debugResume (s : State) (c g : Nat) (x : Gang) : State :=
  let inside := x.trapped.filter (fun d => !(x.ended.contains d || x.retts.any (fun r => r.1 = d) || !(s.core d).priv))
  let s1 := s.modGang g (fun x => { x with byDebug := false })
  if inside.isEmpty then
    (s1.modGang g (fun x => { x with
      retts := (resumeMark, s.resumeTick c) :: x.retts, lastRett := c, lastRettT := s.now })).tryRestart g
  else inside.foldl (fun s d => s.wakeCore d (s.first d (Nat.max s.now (s.resumeTick c * tick)))) s1

/-- RESUME: the halted gang goes on. -/
def execDebugResume (c : Nat) (s : State) : Out :=
  match s.gangOf c with
  | some (g, x) => .next (if x.waits s.now then s.debugResume c g x else s)
  | none => .next s

/-- A write through the debug window, made while the core is halted; k0 is all ones and s0 zero. -/
def Core.debugWrite (k : Core) (r : DbgReg) (v : W64) : Core :=
  match r with
  | .s n => k.land ⟨0, 0, 0, 0, .s n.val, .w v⟩
  | .a n => k.land ⟨0, 0, 0, 0, .a n.val, .w v⟩
  | .v n e =>
    let x := k.vec.v.toArray.getD n.val .zero
    let data := (List.range 1024).map (fun i => if i = e.val then v.truncate 32 else x.data.getD i 0)
    { k with vec := { k.vec with v := k.vec.v.setIfInBounds n.val { x with data := data } } }
  | .vtag n t sc teo =>
    let x := k.vec.v.toArray.getD n.val .zero
    { k with vec := { k.vec with v := k.vec.v.setIfInBounds n.val { x with tag := t, sc := sc, teo := teo } } }
  | .vscale n b =>
    let x := k.vec.v.toArray.getD n.val .zero
    let sc := (List.range 32).map (fun i => if i = b.val then v.truncate 8 else x.scales.getD i 0)
    { k with vec := { k.vec with v := k.vec.v.setIfInBounds n.val { x with scales := sc } } }
  | .k n w =>
    if n.val = 0 then k
    else
      let old := k.vec.k.toArray.getD n.val 0
      let m : Mask := BitVec.ofNat 1024 ((2 ^ 64 - 1) * 2 ^ (64 * w.val))
      let new : Mask := (old &&& ~~~m) ||| BitVec.ofNat 1024 (v.toNat * 2 ^ (64 * w.val))
      { k with vec := { k.vec with k := k.vec.k.setIfInBounds n.val new } }
  | .status => k.land ⟨0, 0, 0, 0, .sys .status, .w (setB v 63 true)⟩

/-- DEBUG_REGISTER_WRITE: ignored unless the core is in state HALT. -/
def execDebugRegisterWrite (c : Nat) (r : DbgReg) (v : W64) (s : State) : Out :=
  if (s.core c).seq.st = .halt then .next (s.modCore c (fun k => k.debugWrite r v)) else .next s

/-! ### DBGCTL (R305) -/

/-- STATE of a core as DBGCTL reads it. -/
def CSt.code : CSt → Nat
  | .idle => 0 | .run => 1 | .wait => 2 | .trap => 3 | .halt => 4 | .suspend => 5 | .stopped => 6 | .haltedDf => 7

/-! ### Pending-write records (R308) -/

/-- A pending write as a debugger finds it: its cycles left, its order, its bundle, the file and the number of its register, and its
value, none for an image. -/
structure PendRec where
  left : Nat
  seq : Nat
  pc : W64
  file : Nat
  num : Nat
  value : Option W64
  deriving DecidableEq, Repr

/-- The file and the number of the register that a write goes to; none for what R308 gives no file (log 34). -/
def PDest.file? : PDest → Option (Nat × Nat)
  | .s n => some (0, n)
  | .sh n => some (1, 24 + n)
  | .a n => some (2, n)
  | .b n => some (3, n)
  | .v n => some (4, n)
  | .k n => some (5, n)
  | .e n => some (7, n)
  | .wrap n => some (8, 0x40 + n)
  | .sys r => some (8, r.code)
  | .la _ | .lb _ | .flags | .ccfg | .ring _ | .fol _ => none

/-- The value that a write leaves in a register of 64 bits or less. -/
def Core.wordOf (k : Core) (p : PWrite) : Option W64 :=
  match p.val, p.dest with
  | .w x, _ => some x
  | .semSet x, _ => some (x.setWidth 64)
  | .semInc x, .e n => some ((k.ct.sem.toArray.getD n 0 + x).setWidth 64)
  | _, _ => none

/-- A pending write as a record, with the cycles that it has left. -/
def Core.pendRec (k : Core) (p : PWrite) (left : Nat) : Option PendRec :=
  p.dest.file?.map (fun f => ⟨left, p.seq, p.pc, f.1, f.2, k.wordOf p⟩)

/-- A record into place: by the cycles left, then by issue order (R160). -/
def insertRec (p : PendRec) : List PendRec → List PendRec
  | [] => [p]
  | q :: r => if p.left < q.left || (p.left = q.left && p.seq < q.seq) then p :: q :: r else q :: insertRec p r

/-- When an accumulator that a step has changed comes to be seen, as known in cycle r: six cycles after the retirement, the
cycles that its reads have lost among them (R85, R211). -/
def Core.accDue (k : Core) (o : OldAcc) (r : Nat) : Nat :=
  match o.till, k.cube.pipe with
  | some t, _ => t
  | none, some p => k.pipeEnd p + 6
  | none, none => r

/-- The pending writes of a core in cycle r, in landing order: those that count, those frozen, and the accumulators still to be seen. -/
def Core.pendRecs (k : Core) (r : Nat) : List PendRec :=
  let r := k.seq.heldAt.getD r
  let now := k.fl.regs.filterMap (fun p => k.pendRec p (p.due - r))
  let still := (k.fl.frozen ++ k.fl.stopped).filterMap (fun p => k.pendRec p p.due)
  let accs := (k.cube.olds.filter (fun o => r < k.accDue o r)).map (fun o =>
    (⟨k.accDue o r - r, o.seq, o.pc, 6, o.n, none⟩ : PendRec))
  (now ++ still ++ accs).foldl (fun l p => insertRec p l) []

/-- The 16 bytes of record i as two words. A value that is an image is the offset of its image in the pending area, images lying behind
the 256 scalar records in listing order (R301, log 34). -/
def pendWords (l : List PendRec) (i : Nat) : W64 × W64 :=
  match l[i]? with
  | none => (0, 0)
  | some p =>
    (BitVec.ofNat 64 (p.file + p.num * 2 ^ 8 + p.left % 2 ^ 16 * 2 ^ 16 + p.pc.toNat % 2 ^ 32 * 2 ^ 32),
     p.value.getD (BitVec.ofNat 64 (0x1000 + 0x1100 * ((l.take i).filter (·.value.isNone)).length)))

/-- What the debugger can read of a core: all its registers and its tile store while it is in state HALT, the accumulators as they are
seen (R211, R305). -/
def State.debugView (s : State) (c : Nat) : Option Core :=
  let k := s.core c
  if k.seq.st = .halt then
    some { k with cube := { k.cube with acc := Vector.ofFn (fun n : Fin 8 => k.accSeen n.val (k.seq.heldAt.getD (s.cyc c))) } }
  else none

/-- CAUSE, FADDR, EPC, CAUSE2 and FADDR2 as the debugger reads them: of a core in state HALT, and of one in HALTED_DF, which it stays until
the next launch is admitted on it (R300, R305). -/
def State.debugTraps (s : State) (c : Nat) : Option (List W64) :=
  let k := s.core c
  if k.seq.st = .halt || k.seq.st = .haltedDf then some [k.tr.cause, k.tr.faddr, k.tr.epc, k.tr.cause2, k.tr.faddr2] else none

/-- The pending writes that a debugger finds listed. -/
def State.pendList (s : State) (c : Nat) : List PendRec := (s.core c).pendRecs (s.cyc c)

/-- DBGCTL as it reads. -/
def State.dbgctl (s : State) (c : Nat) : W64 :=
  let k := s.core c
  BitVec.ofNat 64 (b2n k.dbg.attach * 2 ^ 7 + (s.pendList c).length % 2 ^ 8 * 2 ^ 8 + k.seq.st.code * 2 ^ 20
    + k.dbg.tick.toNat * 2 ^ 32)

/-- A word of a core's debug window: DBGCTL, and the records from 0x100 on (R305). -/
def State.debugWord (s : State) (c off : Nat) : W64 :=
  if off = 0 then s.dbgctl c
  else if 0x100 ≤ off then
    let w := pendWords (s.pendList c) ((off - 0x100) / 16)
    if off % 16 = 0 then w.1 else w.2
  else 0

/-- A write of DBGCTL: TICK is the core's, ATTACH that of its gang. -/
def State.dbgctlFields (s : State) (c : Nat) (v : W64) : State :=
  let at_ := getB v 7
  let cs := match s.gangOf c with
    | some (_, x) => x.cores
    | none => [c]
  let s1 := s.modCore c (fun k => { k with dbg := { k.dbg with tick := BitVec.ofNat 32 (getF v 32 32), attach := at_ } })
  cs.foldl (fun s d => s.modCore d (fun k => { k with dbg := { k.dbg with attach := at_ } })) s1

/-- A write of DBGCTL with its command. -/
def State.dbgctlWrite (s : State) (c : Nat) (v : W64) : Out :=
  let s1 := s.dbgctlFields c v
  match getF v 0 4 with
  | 1 => execDebugHalt c s1
  | 2 => execDebugStep c s1
  | 3 => execDebugStepg c s1
  | 4 => execDebugResume c s1
  | _ => .next s1

end Sys2Proof.Machine
end

