-- ==== Sys2Proof/Machine/Png.lean ====
section
/-! DEFINITION. The decoding of PNG items (R330, R331): canonical prefix codes, which JPEG uses too, the DEFLATE data of RFC 1951 in the
zlib format of RFC 1950, and the chunks and filters of PNG, as the standards that the rule names give them (log 8). -/

namespace Sys2Proof.Machine

open Sys2Proof

/-- The big-endian number of bytes of a list. -/
def beAt (bs : List Byte) (o n : Nat) : Nat := ((bs.drop o).take n).foldl (fun m b => m * 256 + b.toNat) 0

/-! ### Canonical prefix codes -/

/-- A canonical prefix code: how many codes of each length, from 0 on, and the symbols in code order. -/
structure PCode where
  counts : List Nat
  syms : List Nat
  deriving DecidableEq, Repr

/-- The symbol of the code that begins at bit p of a source of bits, and the bit after it: none where no code matches or the bits end.
The arguments are the length, the code so far, the first code of the length, and the symbols of shorter codes. -/
def PCode.next (c : PCode) (bit : Nat → Option Nat) : Nat → Nat → Nat → Nat → Nat → Nat → Option (Nat × Nat)
  | 0, _, _, _, _, _ => none
  | f + 1, len, code, first, before, p =>
    match bit p with
    | none => none
    | some b =>
      let x := code + b
      let n := c.counts.getD len 0
      if x < first + n then some (c.syms.getD (before + (x - first)) 0, p + 1)
      else c.next bit f (len + 1) (2 * x) (2 * (first + n)) (before + n) (p + 1)

/-- A symbol of a code of at most 16 bits. -/
def PCode.read (c : PCode) (bit : Nat → Option Nat) (p : Nat) : Option (Nat × Nat) := c.next bit 16 1 0 0 0 p

/-- The code of a list of lengths by symbol, 0 for none; none where there are more codes than the lengths leave room for. -/
def codeOf (lens : List Nat) : Option PCode :=
  let counts := (List.range 16).map (fun l => if l = 0 then 0 else (lens.filter (· = l)).length)
  let syms := (List.range 16).flatMap (fun l => if l = 0 then [] else (lens.zipIdx.filter (fun x => x.1 = l)).map (·.2))
  if 2 ^ 15 < (counts.zipIdx.foldl (fun n x => n + x.1 * 2 ^ (15 - x.2)) 0) then none else some ⟨counts, syms⟩

/-! ### DEFLATE -/

/-- A bit of DEFLATE data, the lowest of a byte first. -/
def defBit (a : Array Byte) (p : Nat) : Option Nat := (a[p / 8]?).map (fun b => b.toNat / 2 ^ (p % 8) % 2)

/-- A number of n bits of DEFLATE data. -/
def defBits (a : Array Byte) (p n : Nat) : Option Nat :=
  if 8 * a.size < p + n then none
  else some ((List.range n).foldl (fun v i => v + (defBit a (p + i)).getD 0 * 2 ^ i) 0)

/-- The base and the extra bits of a length symbol from 257 on, and of a distance symbol. -/
def lenBase : List (Nat × Nat) :=
  [(3, 0), (4, 0), (5, 0), (6, 0), (7, 0), (8, 0), (9, 0), (10, 0), (11, 1), (13, 1), (15, 1), (17, 1), (19, 2), (23, 2), (27, 2), (31, 2),
   (35, 3), (43, 3), (51, 3), (59, 3), (67, 4), (83, 4), (99, 4), (115, 4), (131, 5), (163, 5), (195, 5), (227, 5), (258, 0)]
def distBase : List (Nat × Nat) :=
  [(1, 0), (2, 0), (3, 0), (4, 0), (5, 1), (7, 1), (9, 2), (13, 2), (17, 3), (25, 3), (33, 4), (49, 4), (65, 5), (97, 5), (129, 6), (193, 6),
   (257, 7), (385, 7), (513, 8), (769, 8), (1025, 9), (1537, 9), (2049, 10), (3073, 10), (4097, 11), (6145, 11), (8193, 12), (12289, 12),
   (16385, 13), (24577, 13)]

/-- What has been inflated, the next bit, and whether the data have not failed. -/
structure Inflated where
  out : Array Byte
  p : Nat
  ok : Bool

/-- A number with a base and extra bits by symbol, and the bit after it. -/
def defNum (a : Array Byte) (t : List (Nat × Nat)) (sym p : Nat) : Option (Nat × Nat) :=
  match t[sym]? with
  | some (b, n) => (defBits a p n).map (fun x => (b + x, p + n))
  | none => none

/-- n bytes copied from d bytes back. -/
def copyBack (out : Array Byte) (n d : Nat) : Array Byte :=
  (List.range n).foldl (fun o _ => o.push (o.getD (o.size - d) 0)) out

/-- The symbols of a block up to its end. -/
def inflateSyms (a : Array Byte) (lit dist : PCode) : Nat → Array Byte → Nat → Inflated
  | 0, out, p => ⟨out, p, false⟩
  | f + 1, out, p =>
    match lit.read (defBit a) p with
    | none => ⟨out, p, false⟩
    | some (s, q) =>
      if s < 256 then inflateSyms a lit dist f (out.push (BitVec.ofNat 8 s)) q
      else if s = 256 then ⟨out, q, true⟩
      else match defNum a lenBase (s - 257) q with
        | none => ⟨out, p, false⟩
        | some (n, q1) =>
          match dist.read (defBit a) q1 with
          | none => ⟨out, p, false⟩
          | some (t, q2) =>
            match defNum a distBase t q2 with
            | none => ⟨out, p, false⟩
            | some (d, q3) =>
              if out.size < d then ⟨out, p, false⟩ else inflateSyms a lit dist f (copyBack out n d) q3

/-- The code lengths of a block, with their repetitions. -/
def codeLens (a : Array Byte) (c : PCode) (total : Nat) : Nat → List Nat → Nat → Option (List Nat × Nat)
  | 0, _, _ => none
  | f + 1, l, p =>
    if total ≤ l.length then (if l.length = total then some (l, p) else none)
    else match c.read (defBit a) p with
      | none => none
      | some (s, q) =>
        let again := fun (v base n : Nat) =>
          match defBits a q n with
          | some x => codeLens a c total f (l ++ List.replicate (base + x) v) (q + n)
          | none => none
        if s < 16 then codeLens a c total f (l ++ [s]) q
        else if s = 16 then (match l.getLast? with | some v => again v 3 2 | none => none)
        else if s = 17 then again 0 3 3
        else again 0 11 7

/-- The order in which the lengths of the code of code lengths come. -/
def lenOrder : List Nat := [16, 17, 18, 0, 8, 7, 9, 6, 10, 5, 11, 4, 12, 3, 13, 2, 14, 1, 15]

/-- The two codes of a block with codes of its own, and the bit after them. -/
def dynCodes (a : Array Byte) (p : Nat) : Option (PCode × PCode × Nat) :=
  match defBits a p 5, defBits a (p + 5) 5, defBits a (p + 10) 4 with
  | some x, some y, some z =>
    let n := z + 4
    if 8 * a.size < p + 14 + 3 * n then none
    else
      let ls := (List.range n).map (fun i => (lenOrder.getD i 0, (defBits a (p + 14 + 3 * i) 3).getD 0))
      match codeOf ((List.range 19).map (fun s => ((ls.find? (fun e => e.1 = s)).map (·.2)).getD 0)) with
      | none => none
      | some c =>
        match codeLens a c (257 + x + 1 + y) 400 [] (p + 14 + 3 * n) with
        | none => none
        | some (l, q) =>
          match codeOf (l.take (257 + x)), codeOf (l.drop (257 + x)) with
          | some lit, some dist => some (lit, dist, q)
          | _, _ => none
  | _, _, _ => none

/-- The fixed codes. -/
def fixedLens : List Nat := List.replicate 144 8 ++ List.replicate 112 9 ++ List.replicate 24 7 ++ List.replicate 8 8

/-- A block that stores its bytes, from the next whole byte on. -/
def stored (a : Array Byte) (out : Array Byte) (p : Nat) : Inflated :=
  let o := cdiv p 8
  match defBits a (8 * o) 16, defBits a (8 * o + 16) 16 with
  | some n, some m =>
    if n + m ≠ 65535 then ⟨out, p, false⟩
    else
      let bs := a.extract (o + 4) (o + 4 + n)
      ⟨out ++ bs, 8 * (o + 4 + n), bs.size = n⟩
  | _, _ => ⟨out, p, false⟩

/-- The blocks from bit p on. -/
def inflate (a : Array Byte) : Nat → Array Byte → Nat → Inflated
  | 0, out, p => ⟨out, p, false⟩
  | f + 1, out, p =>
    match defBits a p 3 with
    | none => ⟨out, p, false⟩
    | some h =>
      let r : Inflated := match h / 2 with
        | 0 => stored a out (p + 3)
        | 1 =>
          match codeOf fixedLens, codeOf (List.replicate 32 5) with
          | some l, some d => inflateSyms a l d (8 * a.size) out (p + 3)
          | _, _ => ⟨out, p, false⟩
        | 2 =>
          match dynCodes a (p + 3) with
          | some (l, d, q) => inflateSyms a l d (8 * a.size) out q
          | none => ⟨out, p, false⟩
        | _ => ⟨out, p, false⟩
      if r.ok && h % 2 = 0 then inflate a f r.out r.p else r

/-- Adler-32 of bytes. -/
def adler (bs : Array Byte) : Nat :=
  let r := bs.foldl (fun (x : Nat × Nat) b =>
    let a := (x.1 + b.toNat) % 65521
    (a, (x.2 + a) % 65521)) (1, 0)
  r.2 * 65536 + r.1

/-- What zlib data hold: the bytes, whether the data have not failed or ended early, and whether their check is wrong. -/
def unzlib (bs : List Byte) : Array Byte × Bool × Bool :=
  let h := beAt bs 0 2
  if bs.length < 2 || h / 256 % 16 ≠ 8 || 7 < h / 4096 || h % 31 ≠ 0 || h / 32 % 2 = 1 then (#[], false, false)
  else
    let a := bs.toArray
    let r := inflate a (8 * a.size) #[] 16
    let o := cdiv r.p 8
    if !r.ok || bs.length < o + 4 then (r.out, false, false) else (r.out, true, beAt bs o 4 ≠ adler r.out)

/-! ### PNG -/

/-- CRC-32 of bytes, as PNG uses it. -/
def crcStep (c : BitVec 32) (b : Byte) : BitVec 32 :=
  (List.range 8).foldl (fun (x : BitVec 32) _ => (x >>> 1) ^^^ (if x.getLsbD 0 then 0xEDB88320#32 else 0)) (c ^^^ b.setWidth 32)
def crc32 (bs : List Byte) : Nat := ((bs.foldl crcStep (BitVec.allOnes 32)) ^^^ BitVec.allOnes 32).toNat

/-- The chunks of a PNG item from an offset up to IEND: the bytes of the IDAT chunks, whether the item does not end early, and whether a
CRC is wrong. -/
def pngChunks (bs : List Byte) : Nat → Nat → List Byte → List Byte × Bool × Bool
  | 0, _, acc => (acc, false, false)
  | f + 1, o, acc =>
    let len := beAt bs o 4
    let ty := beAt bs (o + 4) 4
    let data := (bs.drop (o + 8)).take len
    let acc2 := if bs.length < o + 8 then acc else if ty = 0x49444154 then acc ++ data else acc
    if bs.length < o + 12 + len then (acc2, false, false)
    else
      let bad : Bool := crc32 ((bs.drop (o + 4)).take (4 + len)) ≠ beAt bs (o + 8 + len) 4
      if ty = 0x49454E44 then (acc2, true, bad)
      else
        let r := pngChunks bs f (o + 12 + len) acc2
        (r.1, r.2.1, bad || r.2.2)

/-- The predictor of Paeth's filter. -/
def paeth (a b c : Nat) : Nat :=
  let pa := dist b c
  let pb := dist a c
  let pc := dist (a + b) (2 * c)
  if pa ≤ pb && pa ≤ pc then a else if pb ≤ pc then b else c

/-- A row with its filter undone, from the row above it; none for a filter that there is not. -/
def unfilter (n : Nat) (ft : Nat) (above row : Array Byte) : Option (Array Byte) :=
  if 4 < ft then none
  else some ((List.range row.size).foldl (fun (o : Array Byte) i =>
    let a := if i < n then 0 else (o.getD (i - n) 0).toNat
    let b := (above.getD i 0).toNat
    let c := if i < n then 0 else (above.getD (i - n) 0).toNat
    let p := match ft with
      | 0 => 0
      | 1 => a
      | 2 => b
      | 3 => (a + b) / 2
      | _ => paeth a b c
    o.push (BitVec.ofNat 8 ((row.getD i 0).toNat + p))) #[])

/-- The rows of an image of n channels and w columns from the inflated bytes, as far as they are whole. -/
def pngRows (data : Array Byte) (n w : Nat) : Nat → Nat → Array Byte → List (Array Byte)
  | 0, _, _ => []
  | h + 1, o, above =>
    if data.size < o + 1 + n * w then []
    else match unfilter n (data.getD o 0).toNat above (data.extract (o + 1) (o + 1 + n * w)) with
      | some r => r :: pngRows data n w h (o + 1 + n * w) r
      | none => []

/-- What the decode of an item gives: its pixels, the rows decoded from the top, and whether it failed. -/
structure Pixels where
  bytes : List Byte
  rows : Nat
  failed : Bool
  deriving DecidableEq, Repr

/-- A PNG item decoded (R331): a checksum that fails leaves no row. -/
def pngPixels (bs : List Byte) (w h n : Nat) : Pixels :=
  let ch := pngChunks bs bs.length 8 []
  let z := unzlib ch.1
  let rows := pngRows z.1 n w h 0 #[]
  if ch.2.2 || z.2.2 then ⟨[], 0, true⟩
  else ⟨rows.flatMap (·.toList), rows.length, rows.length < h || !ch.2.1 || !z.2.1⟩

end Sys2Proof.Machine
end

