-- ==== Sys2Proof/Machine/Jpeg.lean ====
section
/-! DEFINITION. The decoding of JPEG items (R330, R331): the baseline sequential process of ITU-T T.81, upsampling by replication, and the
JFIF equations in fixed point. The roundings of the inverse DCT of a block are free values: no rule gives the order of its operations
(log 8). -/

namespace Sys2Proof.Machine

open Sys2Proof

/-! ### The entropy-coded data -/

/-- The bytes of entropy-coded data from an offset up to a marker, their stuffing undone; the offset of the marker, or of the item's
end. -/
def entropySeg (bs : Array Byte) : Nat → Nat → List Byte → List Byte × Nat
  | 0, o, acc => (acc.reverse, o)
  | f + 1, o, acc =>
    match bs[o]? with
    | none => (acc.reverse, o)
    | some b =>
      if b ≠ 0xFF then entropySeg bs f (o + 1) (b :: acc)
      else match bs[o + 1]? with
        | some 0 => entropySeg bs f (o + 2) (0xFF :: acc)
        | some 0xFF => entropySeg bs f (o + 1) acc
        | _ => (acc.reverse, o)

/-- A bit of a segment, the highest of a byte first, and a number of n bits. -/
def segBit (a : Array Byte) (p : Nat) : Option Nat := (a[p / 8]?).map (fun b => b.toNat / 2 ^ (7 - p % 8) % 2)
def segBits (a : Array Byte) (p n : Nat) : Option Nat :=
  if 8 * a.size < p + n then none
  else some ((List.range n).foldl (fun v i => 2 * v + (segBit a (p + i)).getD 0) 0)

/-- The number that n bits stand for: EXTEND of T.81. -/
def jpegExtend (x n : Nat) : Int := if n = 0 then 0 else if x < 2 ^ (n - 1) then (x : Int) - (2 ^ n - 1 : Nat) else x

/-! ### Tables -/

/-- The tables that have been read: quantization tables by number, codes by class * 16 + number, and the restart interval. -/
structure JpegTabs where
  q : AMap (List Nat)
  h : AMap PCode
  ri : Nat
  deriving DecidableEq, Repr

/-- The codes of a DHT segment between two offsets. -/
def readDht (bs : List Byte) (till : Nat) : Nat → Nat → AMap PCode → AMap PCode
  | 0, _, m => m
  | f + 1, o, m =>
    if till < o + 17 then m
    else
      let counts := 0 :: (List.range 16).map (fun i => beAt bs (o + 1 + i) 1)
      let n := counts.foldl (· + ·) 0
      readDht bs till f (o + 17 + n) (AMap.put m (beAt bs o 1) ⟨counts, (List.range n).map (fun i => beAt bs (o + 17 + i) 1)⟩)

/-- The tables of a DQT segment between two offsets, in zigzag order, of 8 bits or of 16. -/
def readDqt (bs : List Byte) (till : Nat) : Nat → Nat → AMap (List Nat) → AMap (List Nat)
  | 0, _, m => m
  | f + 1, o, m =>
    let e := if beAt bs o 1 < 16 then 1 else 2
    if till < o + 1 + 64 * e then m
    else readDqt bs till f (o + 1 + 64 * e)
      (AMap.put m (beAt bs o 1 % 16) ((List.range 64).map (fun i => beAt bs (o + 1 + e * i) e)))

/-- The place of each coefficient of the zigzag order in its block. -/
def zigzag : List Nat :=
  [0, 1, 8, 16, 9, 2, 3, 10, 17, 24, 32, 25, 18, 11, 4, 5, 12, 19, 26, 33, 40, 48, 41, 34, 27, 20, 13, 6, 7, 14, 21, 28,
   35, 42, 49, 56, 57, 50, 43, 36, 29, 22, 15, 23, 30, 37, 44, 51, 58, 59, 52, 45, 38, 31, 39, 46, 53, 60, 61, 54, 47, 55, 62, 63]

/-! ### Blocks -/

/-- The AC coefficients of a block from place k of the zigzag order on, as place and value; the bit after them. -/
def acCoefs (a : Array Byte) (c : PCode) : Nat → Nat → Nat → List (Nat × Int) → Option (List (Nat × Int) × Nat)
  | 0, _, _, _ => none
  | f + 1, k, p, l =>
    if 63 < k then (if k = 64 then some (l, p) else none)
    else match c.read (segBit a) p with
      | none => none
      | some (rs, q) =>
        let run := rs / 16
        let n := rs % 16
        if n = 0 then
          (if run = 15 then acCoefs a c f (k + 16) q l else if run = 0 then some (l, q) else none)
        else if 63 < k + run then none
        else match segBits a q n with
          | none => none
          | some x => acCoefs a c f (k + run + 1) (q + n) (l ++ [(k + run, jpegExtend x n)])

/-- A block: its DC value, its coefficients in their places, the bit after it. -/
def jpegBlock (a : Array Byte) (dc ac : PCode) (q : List Nat) (pred : Int) (p : Nat) : Option (Int × List Int × Nat) :=
  match dc.read (segBit a) p with
  | none => none
  | some (n, p1) =>
    match segBits a p1 n with
    | none => none
    | some x =>
      let d := pred + jpegExtend x n
      match acCoefs a ac 65 1 (p1 + n) [] with
      | none => none
      | some (l, p2) =>
        let at_ := fun (pos : Nat) =>
          let z := zigzag.findIdx (· = pos)
          let v := if z = 0 then d else ((l.find? (fun e => e.1 = z)).map (·.2)).getD 0
          v * (q.getD z 0 : Nat)
        some (d, (List.range 64).map at_, p2)

/-- A component of a frame: its identifier, its sampling factors, its quantization table. -/
structure JpegComp where
  id : Nat
  hs : Nat
  vs : Nat
  tq : Nat
  deriving DecidableEq, Repr

/-- A frame: its size and its components. -/
structure JpegFrame where
  w : Nat
  h : Nat
  comps : List JpegComp
  deriving DecidableEq, Repr

def JpegFrame.hMax (f : JpegFrame) : Nat := f.comps.foldl (fun m c => Nat.max m c.hs) 1
def JpegFrame.vMax (f : JpegFrame) : Nat := f.comps.foldl (fun m c => Nat.max m c.vs) 1

/-- The blocks that a component has across and down. -/
def JpegFrame.across (f : JpegFrame) (c : JpegComp) : Nat := cdiv (cdiv (f.w * c.hs) f.hMax) 8
def JpegFrame.down (f : JpegFrame) (c : JpegComp) : Nat := cdiv (cdiv (f.h * c.vs) f.vMax) 8

/-- A decoded block: its component, its place, its coefficients. -/
structure JBlock where
  comp : Nat
  bx : Nat
  by_ : Nat
  coefs : List Int
  deriving DecidableEq, Repr

/-- A component of a scan: its number in the frame, with its tables. -/
structure ScanComp where
  comp : Nat
  spec : JpegComp
  dc : PCode
  ac : PCode
  q : List Nat
  deriving DecidableEq, Repr

/-- The blocks of an MCU by component of the scan and place: one block where the scan has one component. -/
def mcuBlocks (cs : List ScanComp) (across n : Nat) : List (ScanComp × Nat × Nat) :=
  match cs with
  | [c] => [(c, n % across, n / across)]
  | _ => cs.flatMap (fun c => (List.range c.spec.vs).flatMap (fun v => (List.range c.spec.hs).map (fun h =>
      (c, n % across * c.spec.hs + h, n / across * c.spec.vs + v))))

/-- The blocks of an MCU decoded; the predictors are by component. -/
def jpegMcu (a : Array Byte) : List (ScanComp × Nat × Nat) → AMap Int → Nat → List JBlock → Option (List JBlock × AMap Int × Nat)
  | [], pred, p, l => some (l, pred, p)
  | (c, x, y) :: r, pred, p, l =>
    match jpegBlock a c.dc c.ac c.q ((AMap.get? pred c.comp).getD 0) p with
    | none => none
    | some (d, co, q) => jpegMcu a r (AMap.put pred c.comp d) q (l ++ [⟨c.comp, x, y, co⟩])

/-- The MCUs of one segment, from number n on, at most m of them: the blocks, the number of the next MCU, and whether none failed. -/
def jpegSeg (a : Array Byte) (cs : List ScanComp) (across : Nat) : Nat → Nat → AMap Int → Nat → List JBlock → List JBlock × Nat × Bool
  | 0, n, _, _, l => (l, n, true)
  | m + 1, n, pred, p, l =>
    match jpegMcu a (mcuBlocks cs across n) pred p [] with
    | none => (l, n, false)
    | some (bs, pred2, q) => jpegSeg a cs across m (n + 1) pred2 q (l ++ bs)

/-- The segments of a scan, each but the last followed by the restart marker whose turn it is: the blocks, the offset of what follows,
and whether nothing failed. -/
def jpegSegs (bs : Array Byte) (cs : List ScanComp) (across total ri : Nat) : Nat → Nat → Nat → Nat → List JBlock → List JBlock × Nat × Bool
  | 0, _, o, _, l => (l, o, false)
  | f + 1, n, o, rst, l =>
    let s := entropySeg bs bs.size o []
    let m := if ri = 0 then total - n else Nat.min ri (total - n)
    let r := jpegSeg s.1.toArray cs across m n [] 0 l
    if !r.2.2 then (r.1, s.2, false)
    else if total ≤ r.2.1 then (r.1, s.2, true)
    else if bs.getD (s.2 + 1) 0 = BitVec.ofNat 8 (0xD0 + rst % 8) && s.2 + 1 < bs.size then
      jpegSegs bs cs across total ri f r.2.1 (s.2 + 2) (rst + 1) r.1
    else (r.1, s.2, false)

/-- The components that a scan header names, with their tables: none where one is not there. -/
def scanComps (bs : List Byte) (o : Nat) (t : JpegTabs) (f : JpegFrame) : Option (List ScanComp) :=
  (List.range (beAt bs (o + 4) 1)).mapM (fun i =>
    let id := beAt bs (o + 5 + 2 * i) 1
    let tt := beAt bs (o + 6 + 2 * i) 1
    let n := f.comps.findIdx (fun c => c.id = id)
    match f.comps[n]?, AMap.get? t.h (tt / 16), AMap.get? t.h (16 + tt % 16) with
    | some c, some dc, some ac =>
      match AMap.get? t.q c.tq with
      | some q => some ⟨n, c, dc, ac, q⟩
      | none => none
    | _, _, _ => none)

/-- A scan whose header begins at an offset. -/
def jpegScanAt (bs : List Byte) (o : Nat) (t : JpegTabs) (f : JpegFrame) (l : List JBlock) : List JBlock × Nat × Bool :=
  match scanComps bs o t f with
  | none | some [] => (l, o, false)
  | some cs =>
    let one := fun (c : ScanComp) => (f.across c.spec, f.down c.spec)
    let grid := match cs with
      | [c] => one c
      | _ => (cdiv f.w (8 * f.hMax), cdiv f.h (8 * f.vMax))
    jpegSegs bs.toArray cs grid.1 (grid.1 * grid.2) t.ri (grid.1 * grid.2 + 1) 0 (o + 2 + beAt bs (o + 2) 2) 0 l

/-- Whether every block of a component's row of blocks is there. -/
def JpegFrame.rowDone (f : JpegFrame) (l : List JBlock) (n by_ : Nat) : Bool :=
  match f.comps[n]? with
  | some c => (List.range (f.across c)).all (fun x => l.any (fun b => b.comp = n && b.bx = x && b.by_ = by_))
  | none => false

/-- The rows of the image, from the top, that are decoded in every component. -/
def JpegFrame.rows (f : JpegFrame) (l : List JBlock) : Nat :=
  ((List.range f.h).takeWhile (fun y => f.comps.zipIdx.all (fun c => f.rowDone l c.2 (y * c.1.vs / f.vMax / 8)))).length

/-- The components of a frame header at an offset. -/
def jpegFrameAt (bs : List Byte) (o : Nat) : JpegFrame where
  h := beAt bs (o + 5) 2
  w := beAt bs (o + 7) 2
  comps := (List.range (beAt bs (o + 9) 1)).map (fun i =>
    let x := beAt bs (o + 11 + 3 * i) 1
    ⟨beAt bs (o + 10 + 3 * i) 1, x / 16, x % 16, beAt bs (o + 12 + 3 * i) 1⟩)

/-- The markers of an item from an offset on, with what has been read: the frame and the blocks, until every row is decoded, the data
fail, or EOI comes or the item ends. -/
def jpegRun (bs : List Byte) : Nat → Nat → JpegTabs → JpegFrame → List JBlock → JpegFrame × List JBlock
  | 0, _, _, f, l => (f, l)
  | n + 1, o, t, f, l =>
    let m := beAt bs (o + 1) 1
    let till := o + 2 + beAt bs (o + 2) 2
    if bs.length < o + 4 || beAt bs o 1 ≠ 0xFF then (f, l)
    else match m with
      | 0xFF => jpegRun bs n (o + 1) t f l
      | 0xD9 => (f, l)
      | 0xC4 => jpegRun bs n till { t with h := readDht bs till 8 (o + 4) t.h } f l
      | 0xDB => jpegRun bs n till { t with q := readDqt bs till 8 (o + 4) t.q } f l
      | 0xDD => jpegRun bs n till { t with ri := beAt bs (o + 4) 2 } f l
      | 0xC0 => jpegRun bs n till t (jpegFrameAt bs o) l
      | 0xDA =>
        let r := jpegScanAt bs o t f l
        if !r.2.2 || f.rows r.1 = f.h then (f, r.1) else jpegRun bs n r.2.1 t f r.1
      | _ => jpegRun bs n till t f l

/-! ### Pixels -/

/-- A number clamped to UINT8. -/
def clamp8 (x : Int) : Byte := if x < 0 then 0 else if 255 < x then 255 else ofI 8 x

/-- Half the cosine of k sixteenths of a half turn, scaled by 2^13. -/
def halfCos (k : Nat) : Int :=
  let c := fun (i : Nat) => ([4096, 4017, 3784, 3406, 2896, 2276, 1567, 799, 0] : List Int).getD i 0
  let m := k % 32
  if m ≤ 8 then c m else if m ≤ 16 then - c (16 - m) else if m ≤ 24 then - c (m - 16) else c (32 - m)

/-- The weight of coefficient u at sample x in one dimension, scaled by 2^13: C(u) / 2 and a cosine (T.81 A.3.3). -/
def dctBasis (u x : Nat) : Int := if u = 0 then 2896 else halfCos ((2 * x + 1) * u)

/-- The inverse DCT at a sample, scaled by 2^26. -/
def idctSum (coefs : List Int) (x y : Nat) : Int :=
  (coefs.zipIdx.map (fun p => p.1 * dctBasis (p.2 % 8) x * dctBasis (p.2 / 8) y)).foldl (· + ·) 0

/-- A sample of the inverse DCT before its level shift: a flat block is an eighth of its DC, with a half rounded freely; else it is freely
within 1 of the rounded sum, and within as much more as constants of 13 bits can be off, or, where the coefficients are so large that 32
bits may not hold the steps to it, any value (DESIGN CHOICE, log 8). -/
def idctSample (coefs : List Int) (i : Nat) : Int :=
  let dc := coefs.headD 0
  let size : Nat := coefs.foldl (fun n c => n + c.natAbs) 0
  if coefs.tail.all (· = 0) then
    (dc + 4) / 8 - (if dc % 8 = 4 then Config.idctRound coefs 64 % 2 else 0)
  else if size < 65536 then
    let e : Int := 1 + size / 8192
    (idctSum coefs (i % 8) (i / 8) + 33554432) / 67108864 + Config.idctRound coefs i % (2 * e + 1) - e
  else Config.idctRound coefs i

/-- The samples of a block. -/
def blockSamples (coefs : List Int) : List Byte := (List.range 64).map (fun i => clamp8 (idctSample coefs i + 128))

/-- RGB of a pixel by the JFIF equations with constants scaled by 2^16, rounded half up and clamped (R330). -/
def jfifRgb (y cb cr : Int) : List Byte :=
  let b := cb - 128
  let r := cr - 128
  [clamp8 ((65536 * y + 91881 * r + 32768) / 65536),
   clamp8 ((65536 * y - 22554 * b - 46802 * r + 32768) / 65536),
   clamp8 ((65536 * y + 116130 * b + 32768) / 65536)]

/-- The sample of a component at a pixel, replicated where the component has fewer (R330). -/
def JpegFrame.sample (f : JpegFrame) (l : List (JBlock × List Byte)) (n : Nat) (c : JpegComp) (x y : Nat) : Int :=
  let xx := x * c.hs / f.hMax
  let yy := y * c.vs / f.vMax
  match l.find? (fun b => b.1.comp = n && b.1.bx = xx / 8 && b.1.by_ = yy / 8) with
  | some b => ((b.2.getD (yy % 8 * 8 + xx % 8) 0).toNat : Int)
  | none => 0

/-- A JPEG item decoded (R331). -/
def jpegPixels (bs : List Byte) : Pixels :=
  let r := jpegRun bs bs.length 2 ⟨[], [], 0⟩ ⟨0, 0, []⟩ []
  let f := r.1
  let rows := f.rows r.2
  let l := r.2.map (fun b => (b, blockSamples b.coefs))
  let px := fun (x y : Nat) =>
    match f.comps.zipIdx.map (fun c => f.sample l c.2 c.1 x y) with
    | [y, cb, cr] => jfifRgb y cb cr
    | v => v.map clamp8
  ⟨(List.range rows).flatMap (fun y => (List.range f.w).flatMap (fun x => px x y)), rows, rows < f.h⟩

end Sys2Proof.Machine
end

