-- ==== Sys2Proof/Machine/Inputs.lean ====
section
/-! DEFINITION. The input engine: item queues, the checks of items, decoding, augmentation and units (R329 to R333). -/

namespace Sys2Proof.Machine

open Sys2Proof

/-! ### What an item's header says (R330) -/

/-- An image as its header gives it: the source (0 raw, 1 JPEG, 2 PNG), its size and channels, the alpha channel, whether
enough bytes of data are there (step 4). -/
structure ImgHead where
  src : Nat
  w : Nat
  h : Nat
  c : Nat
  alpha : Option Nat
  enough : Bool
  deriving DecidableEq, Repr

/-- The components of a baseline frame header: 1 or 3, luma 1x1, 2x1 or 2x2, chroma 1x1. -/
def jpegComps (bs : List Byte) (o n : Nat) : Bool :=
  let hv := fun i => beAt bs (o + 3 * i + 1) 1
  (n = 1 || n = 3) && (hv 0 = 0x11 || hv 0 = 0x21 || hv 0 = 0x22) && (List.range (n - 1)).all (fun i => hv (i + 1) = 0x11)

/-- The size of a SOF0 segment at an offset: height, width and components, if it is one that is accepted and whole. -/
def jpegFrame (bs : List Byte) (o : Nat) : Option (Nat × Nat × Nat) :=
  let n := beAt bs (o + 9) 1
  if o + 10 + 3 * n ≤ bs.length && beAt bs (o + 2) 2 = 8 + 3 * n && beAt bs (o + 4) 1 = 8 && jpegComps bs (o + 10) n
      && beAt bs (o + 5) 2 ≠ 0 && beAt bs (o + 7) 2 ≠ 0 then
    some (beAt bs (o + 5) 2, beAt bs (o + 7) 2, n)
  else none

/-- The tables of a baseline DHT segment up to its end: classes 0 and 1, numbers 0 and 1 (T.81 B.2.4.2). -/
def baseDht (bs : List Byte) (till : Nat) : Nat → Nat → Bool
  | 0, _ => false
  | f + 1, o =>
    if o = till then true
    else o + 17 ≤ till && beAt bs o 1 / 16 ≤ 1 && beAt bs o 1 % 16 ≤ 1
      && baseDht bs till f (o + 17 + ((List.range 16).map (fun i => beAt bs (o + 1 + i) 1)).foldl (· + ·) 0)

/-- The tables of a baseline DQT segment up to its end: 8 bits, numbers 0 to 3 (T.81 B.2.4.1). -/
def baseDqt (bs : List Byte) (till : Nat) : Nat → Nat → Bool
  | 0, _ => false
  | f + 1, o => if o = till then true else o + 65 ≤ till && beAt bs o 1 < 4 && baseDqt bs till f (o + 65)

/-- The scan header of a sequential baseline scan at an offset, of a frame of n components: Huffman tables 0 and 1, coefficients 0 to 63, no
successive approximation (T.81 B.2.3). -/
def baseScan (bs : List Byte) (o n : Nat) : Bool :=
  let ns := beAt bs (o + 4) 1
  1 ≤ ns && ns ≤ n && beAt bs (o + 2) 2 = 6 + 2 * ns
    && (List.range ns).all (fun i => let t := beAt bs (o + 6 + 2 * i) 1; t / 16 ≤ 1 && t % 16 ≤ 1)
    && beAt bs (o + 5 + 2 * ns) 1 = 0 && beAt bs (o + 6 + 2 * ns) 1 = 63 && beAt bs (o + 7 + 2 * ns) 1 = 0

/-- Whether a segment of a JPEG item may come before its scan: baseline tables, a restart interval, application data, comments. -/
def jpegSkips (bs : List Byte) (o till m : Nat) : Bool :=
  match m with
  | 0xC4 => baseDht bs till (till - o) (o + 4)
  | 0xDB => baseDqt bs till (till - o) (o + 4)
  | 0xDD | 0xFE => true
  | _ => 0xE0 ≤ m && m < 0xF0

/-- The markers of a JPEG item from an offset up to its scan: the frame, and where the scan's data begin. -/
def jpegScan (bs : List Byte) : Nat → Nat → Option (Nat × Nat × Nat) → Option ((Nat × Nat × Nat) × Nat)
  | 0, _, _ => none
  | f + 1, o, fr =>
    if bs.length < o + 2 || beAt bs o 1 ≠ 0xFF then none
    else
      let m := beAt bs (o + 1) 1
      let len := beAt bs (o + 2) 2
      if m = 0xFF then jpegScan bs f (o + 1) fr
      else if bs.length < o + 4 || len < 2 || bs.length < o + 2 + len then none
      else match m, fr with
        | 0xC0, none =>
          match jpegFrame bs o with
          | some x => jpegScan bs f (o + 2 + len) (some x)
          | none => none
        | 0xDA, some x => if baseScan bs o x.2.2 then some (x, o + 2 + len) else none
        | _, _ => if jpegSkips bs o (o + 2 + len) m then jpegScan bs f (o + 2 + len) fr else none

/-- The header of a JPEG item. -/
def jpegHead (bs : List Byte) : Option ImgHead :=
  match jpegScan bs bs.length 2 none with
  | some ((h, w, c), o) => some ⟨1, w, h, c, none, cdiv w 8 * cdiv h 8 * c * 2 ≤ 8 * (bs.length - o)⟩
  | none => none

/-- The signature of PNG. -/
def pngSig : List Byte := [0x89, 0x50, 0x4E, 0x47, 0x0D, 0x0A, 0x1A, 0x0A]

/-- The bytes of the IDAT chunks from an offset on, up to IEND. -/
def pngIdat (bs : List Byte) : Nat → Nat → Nat
  | 0, _ => 0
  | f + 1, o =>
    let len := beAt bs o 4
    let ty := beAt bs (o + 4) 4
    if bs.length < o + 8 || ty = 0x49454E44 then 0
    else (if ty = 0x49444154 then Nat.min len (bs.length - (o + 8)) else 0) + pngIdat bs f (o + 12 + len)

/-- Channels of a PNG colour type that is accepted. -/
def pngChans (t : Nat) : Option Nat :=
  match t with
  | 0 => some 1 | 2 => some 3 | 4 => some 2 | 6 => some 4 | _ => none

/-- The header of a PNG item. -/
def pngHead (bs : List Byte) : Option ImgHead :=
  let w := beAt bs 16 4
  let h := beAt bs 20 4
  if bs.length < 33 || beAt bs 8 4 ≠ 13 || beAt bs 12 4 ≠ 0x49484452 || w = 0 || h = 0 || beAt bs 24 1 ≠ 8 || beAt bs 26 3 ≠ 0
  then none
  else match pngChans (beAt bs 25 1) with
    | some c =>
      let alpha : Option Nat := if beAt bs 25 1 = 4 then some 1 else if beAt bs 25 1 = 6 then some 3 else none
      some ⟨2, w, h, c, alpha, w * h * c + h ≤ 1032 * pngIdat bs bs.length 33⟩
    | none => none

/-- The header of any other item. -/
def rawHead (bs : List Byte) : Option ImgHead :=
  let w := descNum bs 0 2
  let h := descNum bs 2 2
  let c := descNum bs 4 1
  if bs.length < 8 || descNum bs 5 3 ≠ 0 || w = 0 || h = 0 || c = 0 then none
  else some ⟨0, w, h, c, none, bs.length - 8 = w * h * c⟩

/-- What an item is by its first bytes. -/
def itemSrc (bs : List Byte) : Nat :=
  if bs.take 2 = [0xFF, 0xD8] then 1 else if bs.take 8 = pngSig then 2 else 0

/-- The header of an item; none where step 1 of R330 rejects it. -/
def itemHead (bs : List Byte) : Option ImgHead :=
  match itemSrc bs with
  | 1 => jpegHead bs
  | 2 => pngHead bs
  | _ => rawHead bs

/-! ### Crop and checks (R326, R330, R332) -/

def cropEn (cfg : W64) : Bool := getB cfg 7
def cropW (aug : W64) : Nat := getF aug 20 12 + 1
def cropH (aug : W64) : Nat := getF aug 8 12 + 1

/-- The limits of step 2. -/
def inLimits (l l2 : W64) (x : ImgHead) : Bool :=
  x.w ≤ getF l 0 16 && x.h ≤ getF l 16 16 && x.c ≤ getF l 32 4 && x.w * x.h ≤ getF l2 0 32 && x.w * x.h * x.c ≤ getF l2 32 32

/-- The first check of R330 that an item fails, as its status, or 0. -/
def itemCheck (p : Port) (bs : List Byte) : Nat :=
  match itemHead bs with
  | none => 13
  | some x =>
    if !inLimits p.splim p.splim2 x then 13
    else if cropEn p.spcfg && (x.w < cropW p.augcfg || x.h < cropH p.augcfg) then 13
    else if !x.enough then 14
    else 0

/-! ### Units (R331 to R333) -/

/-- The crop origin. -/
def cropAt (x : Item) (i : ImgHead) : Nat × Nat :=
  let rnd := fun j => genG (getF x.augcfg 32 32) ((4 * x.idx.toNat + j) % 2 ^ 32)
  if !cropEn x.spcfg then (0, 0)
  else if getB x.spcfg 6 then
    (rnd 0 * (i.w - cropW x.augcfg + 1) / 2 ^ 32, rnd 1 * (i.h - cropH x.augcfg + 1) / 2 ^ 32)
  else ((i.w - cropW x.augcfg) / 2, (i.h - cropH x.augcfg) / 2)

/-- Whether the columns are reversed. -/
def flipped (x : Item) : Bool := getB x.spcfg 5 && bit (genG (getF x.augcfg 32 32) ((4 * x.idx.toNat + 2) % 2 ^ 32)) 31

/-- The brightness offset. -/
def jitterOf (x : Item) : Int :=
  let a := getF x.augcfg 0 7
  (genG (getF x.augcfg 32 32) ((4 * x.idx.toNat + 3) % 2 ^ 32) * (2 * a + 1) / 2 ^ 32 : Nat) - (a : Int)

/-- A value with the offset, clamped to UINT8. -/
def jittered (v : Byte) (d : Int) : Byte :=
  let y : Int := (v.toNat : Int) + d
  if y < 0 then 0 else if 255 < y then 255 else ofI 8 y

/-- The pixels of an item before augmentation, and the rows decoded (R330, R331). -/
def pixelsOf (x : Item) (i : ImgHead) : Pixels :=
  match i.src with
  | 0 => ⟨x.bytes.drop 8, i.h, false⟩
  | 1 => jpegPixels x.bytes
  | _ => pngPixels x.bytes i.w i.h i.c

/-- The unit of an item that was accepted: an output row whose source rows were not all decoded is zero (R331). -/
def goodUnit (x : Item) (i : ImgHead) : InUnit :=
  let px := pixelsOf x i
  let bytes := px.bytes.toArray
  let o := cropAt x i
  let w := if cropEn x.spcfg then cropW x.augcfg else i.w
  let h := if cropEn x.spcfg then cropH x.augcfg else i.h
  let d := jitterOf x
  let rows := Nat.min (px.rows - o.2) h
  let data := (List.range (w * h * i.c)).map (fun n =>
    let ch := n % i.c
    let col := n / i.c % w
    let col := if flipped x then w - 1 - col else col
    let v := bytes.getD (((o.2 + n / i.c / w) * i.w + o.1 + col) * i.c + ch) 0
    if rows ≤ n / i.c / w then 0 else if i.alpha = some ch then v else jittered v d)
  let code := if px.failed then 15 else 0
  ⟨unitHeader x.idx.toNat w h i.c 10 rows code i.src i.w i.h o.1 o.2 (b2n (flipped x)) d x.tick ++ data, code⟩

/-- Fields of a rejected unit's header that describe no image. -/
def badFields : Nat := 10

/-- The unit of a rejected item, its header alone: no row of it is valid, what its item's header says stands, and each field that describes
no image is a free value of its own, drawn from counter n on. -/
def badUnit (x : Item) (n : Nat) : InUnit :=
  let i := itemHead x.bytes
  let f := fun (j bits : Nat) => getF (Config.freeWord (n + j)) 0 bits
  ⟨unitHeader x.idx.toNat (f 0 16) (f 1 16) ((i.map (·.c)).getD (f 2 8)) (f 3 8) 0 x.code (itemSrc x.bytes)
    ((i.map (·.w)).getD (f 4 16)) ((i.map (·.h)).getD (f 5 16)) (f 6 16) (f 7 16) (f 8 1) (f 9 16 : Nat) x.tick, x.code⟩

/-! ### The item queue (R329) -/

/-- The input engine of a port looks at its queue. -/
def State.offerItems (s : State) (p : Nat) : State :=
  if h : p < 16 then s.postFree s.now 10 (.itemAccept ⟨p, h⟩) else s

/-- Where the linear view of an I/O die's LPDDR-G6 begins (R90). -/
def ioLinear (io : Nat) : Nat := 0x40000000000 + io * 0x8000000000

/-- IQTAIL_WRITE: taken and refused as a write of QTAIL is, the queue lying on the port's I/O die. -/
def execIqtailWrite (p : Fin 16) (v : W32) (s : State) : Out :=
  let q := s.port p.val
  if !s.hostUp || !qEn q.iqctl then .next s
  else if qRefuses q.iqctl q.iqhead v (ioLinear (p.val / 4)) then
    .next (s.modPort p.val (fun q => { q with iqctl := qErr q.iqctl }))
  else .next ((s.modPort p.val (fun q => { q with iqtail := v })).offerItems p.val)

/-- ITEM_ACCEPT: the next entry in index order is accepted with the port's settings as they stand, and its item is checked. -/
def execItemAccept (p : Fin 16) (s : State) : Out :=
  let q := s.port p.val
  let io := p.val / 4
  let n : W32 := q.iqhead + BitVec.ofNat 32 q.items.length
  let at_ := qEntry q.iqctl n.toNat
  if q.mode ≠ 3 || !qEn q.iqctl || n = q.iqtail then .next s
  else
    let ent := s.agentGet (0x100 + io) at_ 16 none
    let e := ent.2.getD []
    let a := descNum e 0 8
    let idx := BitVec.ofNat 32 (descNum e 12 4)
    let got := if ent.2.isSome && (s.dpa a).isSome then ent.1.agentGet (0x100 + io) a (descNum e 8 4) none else (ent.1, none)
    let bs := got.2.getD []
    let code := if ent.2.isSome && (s.dpa a).isNone then 13 else if got.2.isNone then 3 else itemCheck q bs
    let x : Item := ⟨bs, idx, q.spcfg, q.augcfg, s.ptc, code⟩
    let s2 := got.1.modPort p.val (fun q => { q with items := q.items ++ [x] })
    match s.heldRow at_ 16 (.itemAccept p), s.heldRow a (descNum e 8 4) (.itemAccept p) with
    | some h, _ => .next h
    | none, some h => .next h
    | none, none => .next ((s2.postFree s2.now 10 (.unitReady p)).offerItems p.val)

/-- UNIT_READY: the first item accepted becomes a unit, and HEAD advances. -/
def execUnitReady (p : Fin 16) (s : State) : Out :=
  let q := s.port p.val
  match q.items with
  | x :: rest =>
    let u : InUnit := match x.code, itemHead x.bytes with
      | 0, some i => goodUnit x i
      | _, _ => badUnit x s.freeCtr
    .next (({ s with freeCtr := s.freeCtr + badFields } : State).modPort p.val (fun q => { q with items := rest, units := q.units ++ [u], iqhead := q.iqhead + 1 }))
  | [] => .next s

end Sys2Proof.Machine
end

