-- ==== Sys2Proof/Machine/Migration.lean ====
section
/-! DEFINITION. Shootdowns (R95) and hardware migration (R96). -/

namespace Sys2Proof.Machine

open Sys2Proof

/-! ### Shootdowns -/

/-- Whether a cached page meets a VA range of a context. -/
def tlbMeets (ctx lo hi : Nat) (t : TlbEnt) : Bool := t.1 = ctx && t.2.1 < hi && lo < t.2.1 + 2 ^ t.2.2.1

/-- SHOOTDOWN, issued by the driver through the command processor; none comes where the host port answers reads alone (R348). -/
def execShootdown (ctx : Fin 8) (lo hi : Nat) (s : State) : Out :=
  .next (if s.hostUp then s.shootdown ctx.val lo hi none else s)

/-- The requests of a core that have been translated with an entry for a VA range and are on their way: an entry of a large page covers more
than the range. -/
def Core.outst (k : Core) (c lo hi : Nat) : List Outst :=
  let near := fun (q : Option Req) => q.any (fun r => r.va / 2 ^ r.size * 2 ^ r.size < hi && lo < r.va / 2 ^ r.size * 2 ^ r.size + 2 ^ r.size)
  (k.eng.chans.toList.flatten.filter (fun x => near x.rq)).map (fun x => ⟨c, x.id, x.pos⟩)
    ++ (k.eng.amos.filter (fun x => near x.rq)).map (fun x => ⟨c, x.id, 0⟩)

/-- Whether a row waits at a home that holds it (R96). -/
def State.heldAt (s : State) (i : Instr) : Bool := s.dies.any (fun d => d.2.migr.any (fun m => m.held.contains i || m.direct.contains i))

/-- Whether a request noted at a shootdown has still to come home. -/
def State.stillOut (s : State) (o : Outst) : Bool :=
  let k := s.core o.core
  (List.range 4).any (fun ch => (k.eng.chans.toArray.getD ch []).any (fun x =>
      x.id = o.cmd && x.pos = o.pos && x.rq.isSome && !s.heldAt (.memoryAccessPerform o.core ch)))
    || k.eng.amos.any (fun x => x.id = o.cmd && x.rq.isSome && !x.performed && !s.heldAt (.amoExecute o.core o.cmd))

/-- The entries of a range invalid in a die's cache and in those of its cores (R95). Untimed lines in the instruction caches stay (DEDUCED,
log 40: R95 names translation entries alone), though a line is fetched no more where its page has gone. -/
def State.invalidate (s : State) (d ctx lo hi : Nat) : State :=
  let keep := fun (l : List TlbEnt) => l.filter (fun t => !tlbMeets ctx lo hi t)
  let s1 : State := { s with cores := s.cores.map (fun p =>
    if coreDie p.1 = d then (p.1, p.2.withEng (fun e => { e with tlb := keep e.tlb })) else p) }
  s1.modDie d (fun x => { x with tlb := keep x.tlb })

/-- The cores of a die whose launch is of a context. -/
def State.coresOf (s : State) (d ctx : Nat) : List (Nat × Core) :=
  s.cores.filter (fun p => coreDie p.1 = d && p.2.seq.launch.isSome && s.ctxOf p.1 = ctx)

/-- A shootdown changed. -/
def State.modShoot (s : State) (id : Nat) (f : Shoot → Shoot) : State :=
  { s with shoots := mapIf (fun x => x.id = id) f s.shoots }

/-- A die's acknowledgement counted; the last one lets the issuer proceed. -/
def State.acked (s : State) (x : Shoot) (d : Nat) : State :=
  let left := x.dies.filter (fun e => e ≠ d)
  if left.isEmpty then
    let s1 : State := { s with shoots := s.shoots.filter (fun y => y.id ≠ x.id) }
    match x.migr with
    | some (m, page) => if h : m < 9 then s1.postEv s1.now 5 (.migrationComplete ⟨m, h⟩ page) else s1
    | none => s1
  else s.modShoot x.id (fun x => { x with dies := left })

/-- SHOOTDOWN_ACK: the die invalidates its entries, and acknowledges when every request that it translated with one has reached its
home. -/
def execShootdownAck (die : Fin 9) (id : Nat) (s : State) : Out :=
  let d := die.val
  match s.shoots.find? (fun x => x.id = id && x.dies.contains d) with
  | some x =>
    let s1 := if x.seen.contains d then s
      else
        let out := (s.coresOf d x.ctx).flatMap (fun p => (p.2.outst p.1 x.lo x.hi).map (fun o => (d, o)))
        (s.invalidate d x.ctx x.lo x.hi).modShoot id (fun x => { x with seen := d :: x.seen, pend := x.pend ++ out })
    match s1.shoots.find? (fun x => x.id = id) with
    | some y =>
      if y.pend.any (fun p => p.1 = d && s1.stillOut p.2) then .next (s1.postFree (s1.now + tbCycle) 5 (.shootdownAck die id))
      else .next (s1.acked y d)
    | none => .next s1
  | none => .next s

/-! ### Migration (R96) -/

def migEn (x : W64) : Bool := getB x 48
def migPromo (x : W64) : Nat := getF x 32 16
def migDemo (x : W64) : Nat := getF x 16 16
def migShare (x : W64) : Nat := getF x 8 8

/-- A counting interval, 2^IVL microseconds. -/
def migInterval (x : W64) : Nat := 2 ^ getF x 0 8 * (1000 * tick)

/-- MIGCTL written: a counting interval begins where migration is enabled. -/
def State.setMigctl (s : State) (d : Nat) (v : W64) : State :=
  let v : W64 := v &&& 0x1FFFFFFFFFFFF
  let t := s.now + migInterval v
  let s1 := s.modDie d (fun x => { x with migctl := v, ivlEnd := t, counts := [] })
  if h : d < 9 then (if migEn v then s1.postEv t 8 (.migrationInterval ⟨d, h⟩) else s1) else s1

/-- The accesses of every die to a page as die d has counted them. -/
def Die.pageCounts (x : Die) (page size : Nat) : List Nat :=
  let fs := (x.counts.filter (fun p => page / 65536 ≤ p.1 && p.1 * 65536 < page + 2 ^ size)).map (·.2)
  (List.range 10).map (fun i => fs.foldl (fun n l => n + l.getD i 0) 0)

/-- The die with most of the accesses, the lowest on a tie. -/
def mostOf (l : List Nat) : Nat :=
  (List.range 9).foldl (fun b i => if l.getD b 0 < l.getD i 0 then i else b) 0

/-- Where a page of die d's counting may go: the new tier and home, by a free choice among the ways that its counts allow. -/
def Die.wayOf (x : Die) (d page size tier home : Nat) : Option (Nat × Nat) :=
  let l := x.pageCounts page size
  let all := l.foldl (· + ·) 0
  let far := all - l.getD home 0
  if tier = 1 then (if l.getD d 0 ≠ 0 && migPromo x.migctl ≤ l.getD d 0 then some (0, d) else none)
  else if tier = 0 && home = d then
    if far ≠ 0 && mostOf l ≠ home && migShare x.migctl * all ≤ 256 * far then some (0, mostOf l)
    else if all ≤ migDemo x.migctl then some (1, 0)
    else none
  else none

/-- Whether a launch with MIGLOCK is admitted in a context. -/
def State.migLocked (s : State) (ctx : Nat) : Bool :=
  s.launches.any (fun l => l.2.ctx = ctx && l.2.img.miglock && (l.2.st = .running || l.2.st = .aborting))

/-- Whether a stretch of a view of memory holds nothing that has been written, and is no page in migration. -/
def State.vacant (s : State) (a n : Nat) : Bool :=
  s.mem.all (fun p => flatDpa p.1 < a || a + n ≤ flatDpa p.1)
    && s.dies.all (fun d => d.2.migr.all (fun m => (m.new + 2 ^ m.size ≤ a || a + n ≤ m.new) && (m.old + 2 ^ m.size ≤ a || a + n ≤ m.old)))

/-- A page found movable: its leaf entry, log2 of its size, where the entry lies, its first VA and DPA, and its home. -/
structure MovePage where
  pte : W64
  size : Nat
  pteAt : Nat
  va : Nat
  dpa : Nat
  home : Nat
  deriving DecidableEq, Repr

/-- The page of a VA, where it may be moved at all: MIG = 1, CHK = 0, in HBM or LPDDR-G6, no MIGLOCK. -/
def State.movable (s : State) (ctx va : Nat) : Option MovePage :=
  match s.walkFrom va 3 (s.ctxs.toArray.getD ctx .init).ptbase.toNat with
  | some l =>
    let base := va / 2 ^ l.2.1 * 2 ^ l.2.1
    let e := if l.2.1 = 16 then l.1 - BitVec.ofNat 64 (fld va 12 4 * 2 ^ 24) else l.1
    match s.formDpa ctx base e l.2.1 with
    | some a =>
      match s.dpa a with
      | some q =>
        if pteMig e && !pteChk e && pteTier e < 2 && !s.migLocked ctx && (s.migrOf q.2 true).isNone && (s.migrOf q.2 false).isNone then
          some ⟨e, l.2.1, if l.2.1 = 16 then l.2.2 - fld va 12 4 * 8 else l.2.2, base, a, if pteTier e = 0 then q.1 else 0⟩
        else none
      | none => none
    | none => none
  | none => none

/-- The place of a new page: HBM of a die, or LPDDR-G6 in its interleaved view. -/
def newPlace (tier home frame : Nat) : Nat :=
  if tier = 0 then home * 0x4000000000 + frame % 2 ^ 26 * 4096 else 0x80000000000 + frame % 2 ^ 29 * 4096

/-- A migration begun: every line is copied once, and the page is COPYING. -/
def State.beginMove (s : State) (d ctx : Nat) (x : MovePage) (new : Nat) : State :=
  let m : Migr := ⟨ctx, x.va, x.pteAt, x.size, x.dpa, new, pteKey x.pte, 0, [], [], []⟩
  let s1 := s.moveLines (pteKey x.pte) x.dpa new (fun l => x.dpa ≤ l * 64 && l * 64 < x.dpa + 2 ^ x.size)
  let s2 := s1.modDie d (fun y => { y with migr := y.migr ++ [m] })
  if h : d < 9 then s2.postFree s2.now 5 (.migrationLock ⟨d, h⟩ x.dpa) else s2

/-- The move that a migration engine makes of a page at the end of an interval, if its counts, the access tables and the place to
which it would go allow one; the place is free. -/
def State.tryMove (s : State) (d ctx va : Nat) : State :=
  match s.movable ctx va with
  | some x =>
    match (s.die d).wayOf d x.dpa x.size (pteTier x.pte) x.home with
    | some (tier, home) =>
      let new := newPlace tier home (s.free / 2 ^ (x.size - 12) * 2 ^ (x.size - 12))
      let fits := s.agentOk (0x111 + d) x.dpa (some (pteKey x.pte)) .read && s.agentOk (0x111 + d) new (some (pteKey x.pte)) .write
        && s.agentOk (0x111 + d) x.pteAt none .write
        && (tier = 1 || (s.ctxs.toArray.getD ctx .init).dies.contains home) && s.vacant new (2 ^ x.size)
      if fits then s.drawn.beginMove d ctx x new else s.drawn
    | none => s
  | none => s

/-- MIGRATION_INTERVAL: at the end of a counting interval the engine may move a page, of a context and a VA that are free; the
counts begin anew. -/
def execMigrationInterval (die : Fin 9) (s : State) : Out :=
  let x := s.die die.val
  if !migEn x.migctl || s.now ≠ x.ivlEnd then .next s
  else
    let ctx := s.free % 8
    let va := (Config.freeWord (s.freeCtr + 1)).toNat % 2 ^ 57
    let s1 := s.drawn.drawn
    let s2 := if (s.ctxs.toArray.getD ctx .init).dies.contains die.val then s1.tryMove die.val ctx va else s1
    let t := s2.now + migInterval x.migctl
    .next ((s2.modDie die.val (fun y => { y with counts := [], ivlEnd := t })).postEv t 8 (.migrationInterval die))

/-- A migration of a die's engine by the old DPA of its page. -/
def State.moveOf (s : State) (d page : Nat) : Option (Nat × Migr) :=
  match (s.die d).migr.findIdx? (fun m => m.old = page) with
  | some i => ((s.die d).migr[i]?).map (fun m => (i, m))
  | none => none

/-- MIGRATION_LOCK. -/
def execMigrationLock (die : Fin 9) (page : Nat) (s : State) : Out :=
  match s.moveOf die.val page with
  | some (i, m) =>
    if m.st = 0 then
      .next ((s.modMigr die.val i (fun m => { m with st := 1 })).postFree s.now 5 (.migrationForwarding die page))
    else .next s
  | none => .next s

/-- MIGRATION_FORWARDING: the dirty lines are copied, the page entry is rewritten, the shootdown is issued, and requests are forwarded
from now on, the held ones first. -/
def execMigrationForwarding (die : Fin 9) (page : Nat) (s : State) : Out :=
  match s.moveOf die.val page with
  | some (i, m) =>
    if m.st = 1 then
      .next (s.forwardPage die.val i m)
    else .next s
  | none => .next s

/-- MIGRATION_COMPLETE: the new home executes what it has held, and the old home is NORMAL for the page again. -/
def execMigrationComplete (die : Fin 9) (page : Nat) (s : State) : Out :=
  match s.moveOf die.val page with
  | some (_, m) =>
    if m.st = 2 then
      .next ((s.modDie die.val (fun y => { y with migr := y.migr.filter (fun m => m.old ≠ page) })).sendHeld m.direct)
    else .next s
  | none => .next s

end Sys2Proof.Machine
end

