-- ==== Sys2Proof/Machine/Ed448.lean ====
section
/-! DEFINITION. What the security processor signs and hashes with (R343, R345): SHAKE256 of FIPS 202, and Ed448 of RFC 8032 with an empty
context. -/

namespace Sys2Proof.Machine

open Sys2Proof

/-! ### SHAKE256 -/

/-- A step of the shift register of FIPS 202 that gives the round constants: x^8 + x^6 + x^5 + x^4 + 1. -/
def rcStep (r : Nat) : Nat := if r < 128 then 2 * r else (2 * r) ^^^ 0x171

/-- The register after t steps. -/
def rcReg : Nat → Nat
  | 0 => 1
  | t + 1 => rcStep (rcReg t)

/-- The constant of a round: its bit 2^j - 1 is the low bit of the register after 7 steps for each earlier round and j more. -/
def roundConst (round : Nat) : BitVec 64 :=
  BitVec.ofNat 64 (((List.range 7).map (fun j => rcReg (7 * round + j) % 2 * 2 ^ (2 ^ j - 1))).sum)

/-- The 1600 bits as one number, lane (x, y) at bit 64(5y + x). -/
abbrev Sponge := BitVec 1600

/-- A lane, the coordinates taken modulo 5. -/
def Sponge.lane (s : Sponge) (x y : Nat) : BitVec 64 := s.extractLsb' (64 * (5 * (y % 5) + x % 5)) 64

/-- The state whose lanes are given, lane (4, 4) first. -/
def Sponge.fill (f : Nat → Nat → BitVec 64) : Sponge :=
  (List.range 25).foldr (fun i s => (s <<< 64) ||| (f (i % 5) (i / 5)).setWidth 1600) 0

/-- The parity of a column. -/
def Sponge.parity (s : Sponge) (x : Nat) : BitVec 64 := (List.range 5).foldl (fun p y => p ^^^ s.lane x y) 0

/-- Where a lane goes and by how much it is turned: t + 1 steps along the walk from (1, 0) through the places other than (0, 0), it is
turned by the number (t + 1)(t + 2) / 2 and stands at the walk's next place. -/
def lanePath : Nat → Nat × Nat
  | 0 => (1, 0)
  | t + 1 => let p := lanePath t; (p.2, (2 * p.1 + 3 * p.2) % 5)

/-- Theta: every bit takes the parities of two neighbouring columns. -/
def Sponge.theta (s : Sponge) : Sponge :=
  Sponge.fill (fun x y => s.lane x y ^^^ s.parity (x + 4) ^^^ (s.parity (x + 1)).rotateLeft 1)

/-- Rho and pi along the walk. -/
def Sponge.rhoPi (s : Sponge) : Sponge :=
  Sponge.fill (fun x y =>
    match (List.range 24).find? (fun t => lanePath (t + 1) = (x, y)) with
    | some t => let p := lanePath t; (s.lane p.1 p.2).rotateLeft ((t + 1) * (t + 2) / 2 % 64)
    | none => s.lane 0 0)

/-- Chi along the rows, and iota. -/
def Sponge.chiIota (s : Sponge) (rc : BitVec 64) : Sponge :=
  Sponge.fill (fun x y => s.lane x y ^^^ (s.lane (x + 2) y &&& ~~~(s.lane (x + 1) y))) ^^^ rc.setWidth 1600

/-- The permutation of 24 rounds. -/
def permute (s : Sponge) : Sponge := (List.range 24).foldl (fun s round => s.theta.rhoPi.chiIota (roundConst round)) s

/-- The rate of SHAKE256 in bytes. -/
def shakeRate : Nat := 136

/-- A block added into the state. -/
def Sponge.absorb (s : Sponge) (bs : List Byte) : Sponge := permute (s ^^^ BitVec.ofNat 1600 (ofLe bs))

/-- The message with the suffix and the padding of SHAKE256. -/
def shakePad (m : List Byte) : List Byte :=
  let n := shakeRate - 1 - m.length % shakeRate
  if n = 0 then m ++ [0x9F] else m ++ 0x1F :: (List.replicate (n - 1) 0 ++ [0x80])

/-- Bytes squeezed from a state: those of the rate, and with fuel those of the permutations after it. -/
def Sponge.squeeze : Nat → Sponge → List Byte
  | 0, _ => []
  | f + 1, s => leBytes shakeRate (s.toNat % 256 ^ shakeRate) ++ Sponge.squeeze f (permute s)

/-- n bytes of SHAKE256 of a message. -/
def shake256 (m : List Byte) (n : Nat) : List Byte :=
  let p := shakePad m
  let s := (List.range (p.length / shakeRate)).foldl (fun s i => Sponge.absorb s ((p.drop (shakeRate * i)).take shakeRate)) 0
  (Sponge.squeeze (n / shakeRate + 1) s).take n

/-! ### The curve -/

/-- The prime of the field, the order of the base point, and the base point. -/
def edP : Nat := 2 ^ 448 - 2 ^ 224 - 1
def edL : Nat := 2 ^ 446 - 13818066809895115352007386748515426880336692474882178609894547503885
def edX : Nat :=
  224580040295924300187604334099896036246789641632564134246125461686950415467406032909029192869357953282578032075146446173674602635247710
def edY : Nat :=
  298819210078481492676017930443930673437544040154080242095928241372331506189835876003536878655418784733982303233503462500531545062832660

/-- A difference and a power in the field. -/
def edSub (a b : Nat) : Nat := (a + edP - b % edP) % edP
def edPow : Nat → Nat → Nat → Nat
  | 0, _, _ => 1
  | n + 1, a, e => (if e % 2 = 1 then a else 1) * edPow n (a * a % edP) (e / 2) % edP

/-- The constant d of the curve, -39081. -/
def edD : Nat := edP - 39081

/-- A point by projective coordinates. -/
structure EdPoint where
  x : Nat
  y : Nat
  z : Nat
  deriving DecidableEq, Repr

/-- The sum of two points. -/
def EdPoint.add (p q : EdPoint) : EdPoint :=
  let a := p.z * q.z % edP
  let b := a * a % edP
  let c := p.x * q.x % edP
  let d := p.y * q.y % edP
  let e := edD * c % edP * d % edP
  let f := edSub b e
  let g := (b + e) % edP
  let h := (p.x + p.y) * (q.x + q.y) % edP
  ⟨a * f % edP * edSub (edSub h c) d % edP, a * g % edP * edSub d c % edP, f * g % edP⟩

/-- A multiple of a point, by a number of n bits. -/
def EdPoint.mul (p : EdPoint) : Nat → Nat → EdPoint
  | 0, _ => ⟨0, 1, 1⟩
  | n + 1, e =>
    let r := p.mul n (e / 2)
    let d := r.add r
    if e % 2 = 1 then d.add p else d

/-- The base point. -/
def edBase : EdPoint := ⟨edX, edY, 1⟩

/-- A point as 57 bytes. -/
def EdPoint.enc (p : EdPoint) : List Byte :=
  let i := edPow 448 p.z (edP - 2)
  let x := p.x * i % edP
  leBytes 57 (p.y * i % edP + x % 2 * 2 ^ 455)

/-- The point that 57 bytes stand for. -/
def edDec (bs : List Byte) : Option EdPoint :=
  let n := ofLe bs
  let y := n % 2 ^ 455
  let u := edSub (y * y) 1
  let v := edSub (edD * (y * y % edP)) 1
  let u3v := u * u % edP * u % edP * v % edP
  let x := u3v * edPow 448 (u3v * u % edP * u % edP * v % edP * v % edP) ((edP - 3) / 4) % edP
  if bs.length ≠ 57 || edP ≤ y || v * (x * x % edP) % edP ≠ u then none
  else if x = 0 && n / 2 ^ 455 = 1 then none
  else some ⟨if x % 2 = n / 2 ^ 455 then x else edSub 0 x, y, 1⟩

/-! ### Ed448 -/

/-- The prefix of every hash, with an empty context. -/
def edDom : List Byte := [0x53, 0x69, 0x67, 0x45, 0x64, 0x34, 0x34, 0x38, 0, 0]

/-- A hash of 114 bytes as a number modulo the order. -/
def edHash (m : List Byte) : Nat := ofLe (shake256 (edDom ++ m) 114) % edL

/-- The secret number of a private key of 57 bytes, and its prefix. -/
def edSecret (key : List Byte) : Nat × List Byte :=
  let h := shake256 key 114
  (ofLe (h.take 56) / 4 % 2 ^ 445 * 4 + 2 ^ 447, h.drop 57)

/-- The public key of a private key. -/
def edPublic (key : List Byte) : List Byte := (edBase.mul 448 (edSecret key).1).enc

/-- A signature of 114 bytes. -/
def edSign (key m : List Byte) : List Byte :=
  let s := edSecret key
  let r := edHash (s.2 ++ m)
  let p := (edBase.mul 448 r).enc
  let k := edHash (p ++ edPublic key ++ m)
  p ++ leBytes 57 ((r + k * s.1) % edL)

/-- Whether a signature of a message is that of a public key. -/
def edVerify (pub m sig : List Byte) : Bool :=
  match edDec pub, edDec (sig.take 57) with
  | some a, some r =>
    let n := ofLe (sig.drop 57)
    let k := edHash (sig.take 57 ++ pub ++ m)
    sig.length = 114 && n < edL && (edBase.mul 448 n).enc = (r.add (a.mul 448 k)).enc
  | _, _ => false

end Sys2Proof.Machine
end

