-- ==== Sys2Proof/Machine/Package.lean ====
section
/-! DEFINITION. The package and the outside world: module reset and bring-up (R348), the timebase (R39, R322, R323), management
registers (R9, R10, R17, R311, R316, R319, R320, R326, R339, R342), the security processor (R97, R344, R345), the host's DMA
and CXL accesses (R290, R321). -/

namespace Sys2Proof.Machine

open Sys2Proof

/-! ### Bring-up (R348) -/

def State.stage (s : State) : Nat := getF s.pkg.bootst 0 4

/-- STAGE and ERR of BOOTST set. -/
def State.setStage (s : State) (n err : Nat) : State :=
  s.modPkg (fun p => { p with bootst := BitVec.ofNat 64 (n + err % 2 ^ 8 * 2 ^ 8) })

/-- Whether an act is due some time. -/
def State.isDue (s : State) (a : Act) : Bool := s.agenda.any (fun d => d.act = a)

/-- The next stage of bring-up, after an unstated time. -/
def State.nextStage (s : State) (n : Nat) : State := s.drawn.postMi (s.now + s.free) 13 (.bringUp n)

/-- One second (R7). -/
def second : Nat := 1000000000 * tick

/-- How long the PTC waits for a discipline source: 10 s. -/
def lockLimit : Nat := 10 * second

/-- The next update of every ageing word: islands are units 0 to 71, stacks 0 to 35 (R342). -/
def State.postAgeing (s : State) : State :=
  s.postEv (s.now + second) 13 (.ageingUpdate (List.range 72) (List.range 36))

/-- The act of a stage: at 2 the latency table is read, or, where links have failed before it, its replacement stays (R315), and the ageing
monitors begin; at 4 the PTC waits for a discipline source. -/
def State.stageAct (s : State) (n : Nat) : State :=
  match n with
  | 2 => ((s.modPkg (fun p => { p with
      lattab := if p.down = 0 then (List.range 81).map (fun i => fusedLat p.hdie (i / 9) (i % 9)) else rebuiltTable p.down p.hdie })).postAgeing).nextStage 3
  | 4 => if s.pkg.disc = .none then s.postEv (s.now + lockLimit) 13 .ptcLockTimeout else s.nextStage 5
  | _ => s.nextStage (n + 1)

/-- The security processor verifies its own firmware and that of both command processors (R343). -/
def Pkg.verified (p : Pkg) : Bool := p.fw.length = 3 && p.fw.all (fun f => edVerify p.fwKey f.1 f.2)

/-- The error code of a stage that begins: stage 1 fails just where a firmware image is not verified, whether another fails is a free
value (log 4). -/
def State.stageErr (s : State) (n : Nat) : Nat :=
  let e := (Config.stageError s.freeCtr).toNat
  if n = 1 then (if s.pkg.verified then 0 else Nat.max 1 e) else e

/-- A stage of bring-up begins; one that fails stops bring-up with its error code. At 6 the package is ready. -/
def State.bringUp (s : State) (n : Nat) : State :=
  if s.stage + 1 ≠ n || !s.hostUp then s
  else if n = 6 then
    (List.range 8).foldl (fun s c => s.admissionPass c) (s.setStage 6 0)
  else
    let err := s.stageErr n
    if err ≠ 0 then s.drawn.setStage n err else (s.drawn.setStage n 0).stageAct n

/-- A discipline source has locked the PTC: bring-up goes on. -/
def State.ptcLocked (s : State) : State :=
  let wait : Act := .ev .ptcLockTimeout
  if s.stage = 4 && s.isDue wait then
    ({ s with agenda := s.agenda.filter (fun d => d.act ≠ wait) } : State).nextStage 5
  else s

/-- The PTC set to a tick: what is due keeps its distance. -/
def State.setPtc (s : State) (t : Nat) : State :=
  let n := t * tick
  let mv := fun (x : Nat) => n + (x - s.now)
  let disc : Discipline := match s.pkg.disc with
    | .holdover h key => .holdover (n - (s.now - h)) key
    | d => d
  { s with
    now := n
    agenda := s.agenda.map (fun d => { d with t := mv d.t })
    dies := s.dies.map (fun p => (p.1, { p.2 with ivlEnd := mv p.2.ivlEnd }))
    ports := s.ports.map (fun p => { p with lastEdge := 0, ivl := 0, ivl2 := 0 })
    pkg := { s.pkg with disc := disc } }

/-- PTC_LOCK_TIMEOUT: with no source in 10 s the PTC starts from 0 on the local oscillator, and bring-up continues. -/
def execPtcLockTimeout (s : State) : Out :=
  let wait : Act := .ev .ptcLockTimeout
  if s.stage ≠ 4 || s.pkg.disc ≠ .none || !s.hostUp || s.isDue (.mi (.bringUp 5)) then .next s
  else
    let s1 := (({ s with agenda := s.agenda.filter (fun d => d.act ≠ wait) } : State).setPtc 0).modPkg (fun p => { p with
      ptcerr := BitVec.allOnes 64 })
    .next (s1.nextStage 5)

/-- MODULE_RESET: every register takes its reset value and bring-up begins; the fuses, the firmware, device memory, under the keys that it is
encrypted with, and what lies in it stay. -/
def execModuleReset (s : State) : Out :=
  let r := State.reset
  .next { r with
    freeCtr := s.freeCtr
    mem := s.mem
    lineKeys := s.lineKeys
    images := s.images
    pkg := { r.pkg with
      hdie := s.pkg.hdie, hcause := s.pkg.hcause, fuseV := s.pkg.fuseV
      fw := s.pkg.fw, fwKey := s.pkg.fwKey, devKey := s.pkg.devKey, chain := s.pkg.chain } }

/-! ### The timebase (R39, R322, R323) -/

/-- Whether a master is better than another by the best-master algorithm of IEEE 1588-2019: by quality, or, with one grandmaster, by the
steps to it, then by the sender and the receiving port (R322, log 42). -/
def betterMaster (x y : PtpSet) (px py : Nat) : Bool :=
  let quality := fun (z : PtpSet) => [z.prio1, z.cls, z.accuracy, z.variance, z.prio2, z.gm]
  let way := fun (z : PtpSet) (p : Nat) => [z.steps, z.sender, p]
  if x.gm = y.gm then decide (way x px < way y py) else decide (quality x < quality y)

/-- The port of the best master. -/
def Pkg.bestPort (p : Pkg) : Option Nat :=
  (p.ptp.foldl (fun (b : Option (Nat × PtpSet)) x =>
    match b with
    | some y => if betterMaster x.2 y.2 x.1 y.1 then some x else some y
    | none => some x) none).map (·.1)

/-- The bound on a PTC that a master disciplines: at most 20 ticks through one boundary clock (R323). -/
def masterBound (x : PtpSet) (b : W64) : W64 := if x.steps = 1 && (20 : W64).ult b then 20 else b

/-- The port of the best master disciplines the PTC, with the bound that its messages give: where none has come yet, what it was. -/
def Pkg.followBest (p : Pkg) : Pkg :=
  match p.bestPort with
  | some q =>
    let b := (AMap.get? p.ptpBound q).getD p.ptcerr
    { p with disc := .ptp q, ptcerr := ((AMap.get? p.ptp q).map (fun x => masterBound x b)).getD b }
  | none => p

/-- PTP_MESSAGE: one port at a time disciplines the PTC, that of the best master (R322). A message that is timestamped makes its port, if
it is that one, discipline the PTC; where a port does so and another comes to have the best master, that one takes over. -/
def execPtpMessage (port : Fin 8) (m : PtpMsg) (s : State) : Out :=
  let onPtp := match s.pkg.disc with | .ptp _ => true | _ => false
  let change := fun (f : Pkg → Pkg) => s.modPkg (fun p => if onPtp then (f p).followBest else f p)
  match m with
  | .announce x => .next (change (fun p => { p with ptp := AMap.put p.ptp port.val x }))
  | .lost => .next (change (fun p => { p with ptp := AMap.del p.ptp port.val, ptpBound := AMap.del p.ptpBound port.val }))
  | .timing bound =>
    let s1 := s.modPkg (fun p => { p with ptpBound := AMap.put p.ptpBound port.val bound })
    if s.pkg.bestPort = some port.val then .next (s1.modPkg Pkg.followBest).ptcLocked else .next s1

/-- TIMING_REFERENCE_PULSE: the pins discipline the PTC instead; the bound that follows is not stated. -/
def execTimingReferencePulse (s : State) : Out :=
  .next (s.drawn.modPkg (fun p => { p with disc := .pins, ptcerr := Config.freeWord s.freeCtr })).ptcLocked

/-- HOLDOVER: the PTC runs on the local oscillator; logged once in every timebase core. -/
def execHoldover (s : State) : Out :=
  match s.pkg.disc with
  | .ptp _ | .pins =>
    let s1 := s.drawn.modPkg (fun p => { p with disc := .holdover s.now s.freeCtr })
    .next ((s1.regions.filter (fun r => r.2.desc.src = 0)).foldl (fun s r => s.sourceEvent r.1 0x10 true) s1)
  | _ => .next s

/-- PTC_STEP: only while no launch is admitted. -/
def execPtcStep (t : Nat) (s : State) : Out :=
  if s.launches.all (fun l => l.2.st = .retired) then .next (s.setPtc t) else .next s

/-- The ticks by which the bound grows in second i of a holdover: at most 50, and free (R323). -/
def driftIn (key i : Nat) : Nat := Config.drift key i % 51

/-- What the bound has grown by after a time in holdover: evenly within each second. -/
def drifted (key t : Nat) : Nat :=
  (List.range (t / second)).foldl (fun n i => n + driftIn key i) 0 + driftIn key (t / second) * (t % second) / second

/-- PTCERR: in holdover the bound grows by at most 50 ticks per second. -/
def State.ptcErr (s : State) : W64 :=
  match s.pkg.disc with
  | .holdover h key => s.pkg.ptcerr + BitVec.ofNat 64 (drifted key (s.now - h))
  | _ => s.pkg.ptcerr

/-! ### Trace registers (R339, R340) -/

/-- Records accepted and not yet performed are performed. -/
def State.flushTrace (s : State) (d : Nat) : State :=
  (s.die d).tr.queue.foldl (fun s q => s.writeRecord d q.1 q.2) s

/-- TRACE_ENABLE: a write of a die's trace control. While EN = 1 only EN is taken; setting EN begins a new buffer, unless LOG2S is
outside 24 to 30. -/
def execTraceEnable (die : Fin 9) (v : W64) (s : State) : Out :=
  if !s.liveDie die.val || !s.hostUp then .next s
  else
    let s1 := s.flushTrace die.val
    let log2 := getF v 1 5
    .next (s1.modTr die.val (fun t =>
      if getB t.ctl 0 then { t with ctl := setB t.ctl 0 (getB v 0) }
      else if getB v 0 && 24 ≤ log2 && log2 ≤ 30 then ⟨v, 0, 0, false, 0, 0, [], t.snap⟩
      else { t with ctl := setB v 0 false }))

/-- A write of TRRD: with a move of the same cycle it takes the larger. -/
def TraceSt.writeRd (t : TraceSt) (now : Nat) (v : W64) : TraceSt :=
  let x : BitVec 63 := BitVec.ofNat 63 (getF v 0 63)
  let same := t.snap ≠ 0 && t.snap / tbCycle = now / tbCycle
  { t with
    overrun := t.overrun && !getB v 63
    rd := if same && x.toNat < t.rd.toNat then t.rd else x }

/-! ### Port registers (R326, R329, R330, R332) -/

/-- Whether an admitted launch names a port. -/
def State.portNamed (s : State) (p : Nat) : Bool :=
  s.launches.any (fun l => (l.2.st = .running || l.2.st = .aborting) && namesPort l.2.img p)

/-- A write refused: ERR. -/
def portErr (q : Port) : Port := { q with spcfg := setB q.spcfg 8 true }

/-- IQCTL with a write's RW fields, PRIO being reserved. -/
def iqctlNew (old v : W64) : W64 := qctlNew old (v &&& 0xFFFFFFFFFFFFFFF3)

/-- A write of a port's register by its number. -/
def Port.write (q : Port) (named : Bool) (n : Nat) (v : W64) : Port :=
  match n with
  | 4 =>
    let low := Nat.land (getF v 0 32) 0xFFFFFF7F
    let q1 : Port := { q with augcfg := setF q.augcfg 32 32 (getF v 32 32) }
    if low = getF q.augcfg 0 32 then q1
    else if named then portErr q1
    else { q1 with augcfg := setF q1.augcfg 0 32 low }
  | 0 =>
    if named then portErr q
    else
      let err : W64 := if getB v 8 then 0 else q.spcfg &&& 0x100
      { q with spcfg := (v &&& 0xFFC000E3) ||| err }
  | 1 => if named then portErr q else { q with spsid := v }
  | 2 => if named then portErr q else { q with splim := v &&& 0xFFFFFFFFF }
  | 3 => if named then portErr q else { q with splim2 := v }
  | 5 =>
    if named then portErr q
    else if !qEn q.iqctl || q.iqhead = q.iqtail then { q with iqctl := iqctlNew q.iqctl v }
    else { q with iqctl := qErr q.iqctl }
  | _ => q

/-- A write of a port's register; IQTAIL is the row of its own. -/
def State.portWrite (s : State) (p n : Nat) (v : W64) : Out :=
  if h : p < 16 then
    if n = 6 then execIqtailWrite ⟨p, h⟩ (v.truncate 32) s
    else .next ((s.modPort p (fun q => q.write (s.portNamed p) n v)).offerItems p)
  else .next s

/-! ### REGISTER_WRITE (R9, R10) -/

/-- A write of a trace register of a die. -/
def State.traceWrite (s : State) (d n : Nat) (v : W64) : Out :=
  if h : d < 9 then
    match n with
    | 0 => execTraceEnable ⟨d, h⟩ v s
    | 3 => .next (if s.liveDie d then s.modTr d (fun t => t.writeRd s.now v) else s)
    | _ => .next s
  else .next s

/-- A write of a queue register. -/
def State.queueWrite (s : State) (q : Nat) (tail : Bool) (v : W64) : Out :=
  if h : q < 256 then (if tail then execQtailWrite ⟨q, h⟩ (v.truncate 32) s else execQctlWrite ⟨q, h⟩ v s) else .next s

/-- A write to an offset of the management space: read-only registers and offsets of no register ignore it. -/
def State.bar0Write (s : State) (off : Nat) (v : W64) : Out :=
  if off % 8 ≠ 0 then .next s
  else if 0x400 ≤ off && off < 0x800 then s.portWrite ((off - 0x400) / 0x40) (off % 0x40 / 8) v
  else if 0x800 ≤ off && off < 0xA40 then s.traceWrite ((off - 0x800) / 0x40) (off % 0x40 / 8) v
  else if 0x20000 ≤ off && off < 0x21000 then s.queueWrite ((off - 0x20000) / 16) (off % 16 = 8) v
  else if 0x100000 ≤ off && off % 0x1000 = 0 && s.liveCore ((off - 0x100000) / 0x1000) then
    s.dbgctlWrite ((off - 0x100000) / 0x1000) v
  else .next s

/-- REGISTER_WRITE. -/
def execRegisterWrite (r : MReg) (v : W64) (s : State) : Out :=
  if !s.hostUp then .next s
  else match r with
  | .bar0 off => s.bar0Write off v
  | .ptbase x => .next (if s.ctxBusy x.val then s else s.modCtx x.val (fun c => { c with ptbase := v }))
  | .trapvec x => .next (if s.ctxBusy x.val then s else s.modCtx x.val (fun c => { c with trapvec := v }))
  | .trapstk x => .next (if s.ctxBusy x.val then s else s.modCtx x.val (fun c => { c with trapstk := v }))
  | .pcap x => .next (s.modCtx x.val (fun c => { c with pcap := v }))
  | .migctl d => .next (if s.liveDie d.val then s.setMigctl d.val v else s)
  | .reqcnt d n =>
    .next (s.modDie d.val (fun y => { y with
      reqcnt := y.reqcnt.set n.val (y.reqcnt[n] &&& ~~~(BitVec.ofNat 48 (getF v 0 48))) }))
  | .cxlBase => .next (s.modPkg (fun p => { p with cxlBase := v }))
  | .cxlSize => .next (if v.toNat ≤ 2 ^ 38 then s.modPkg (fun p => { p with cxlSize := v }) else s)

/-! ### Ageing words (R342) -/

/-- The reset value of an ageing word. -/
def ageReset : W64 := 0xFFFF000000000000

/-- The seconds of the 1000 hours over which the rate of WEAR is taken. -/
def ageSpan : Nat := 3600000

/-- The latest of some values, as second and value, that was there by a second; a unit is new at second 0. -/
def ageAt (h : List (Nat × Nat)) (t : Nat) : Nat × Nat :=
  h.foldl (fun b x => if x.1 ≤ t then x else b) (0, 0)

/-- EOL in hours at second n: what is left of WEAR by its rise over the last 1000 hours, or over all hours where they are fewer. -/
def ageEol (wear n : Nat) (h : List (Nat × Nat)) : Nat :=
  let rise := wear - (ageAt h (n - ageSpan)).2
  if rise = 0 then 0xFFFF else Nat.min 0xFFFF ((0xFFFF - wear) * Nat.min n ageSpan / (rise * 3600))

/-- An ageing word at second n with what its monitor measures, a free value: by how much WEAR has risen, DRIFT, and ERRS (log 4); and its
history of WEAR, the latest value of more than 1000 hours ago being the oldest kept. -/
def ageWord (old : W64) (h : List (Nat × Nat)) (n : Nat) (x : BitVec 48) : W64 × List (Nat × Nat) :=
  let was := getF old 32 16
  let wear := Nat.min 0xFFFF (was + x.toNat % 2 ^ 16)
  let h1 := if wear = was then h else h ++ [(n, wear)]
  let from_ := (ageAt h1 (n - ageSpan)).1
  (BitVec.ofNat 64 (x.toNat / 2 ^ 16 + wear * 2 ^ 32 + ageEol wear n h1 * 2 ^ 48), h1.filter (fun p => from_ ≤ p.1))

/-- One unit's word updated: islands are units 0 to 71, stacks follow them. -/
def Pkg.age (p : Pkg) (draw : Nat) (unit : Nat) : Pkg :=
  let isl : Bool := unit < 72
  let old := (if isl then AMap.get? p.ageI unit else AMap.get? p.ageS (unit - 72)).getD ageReset
  let r := ageWord old ((AMap.get? p.ageHist unit).getD []) p.ageN (Config.ageing draw unit)
  { p with
    ageI := if isl then AMap.put p.ageI unit r.1 else p.ageI
    ageS := if isl then p.ageS else AMap.put p.ageS (unit - 72) r.1
    ageHist := AMap.put p.ageHist unit r.2 }

/-- AGEING_UPDATE: once per second the words of the live islands and stacks named are updated; the others keep their reset values. -/
def execAgeingUpdate (isls stks : List Nat) (s : State) : Out :=
  let units := (isls.filter s.liveIsland) ++ (stks.filter (fun k => s.liveDie (k / 4))).map (72 + ·)
  let s1 := s.drawn.modPkg (fun p => units.foldl (fun p u => p.age s.freeCtr u) { p with ageN := p.ageN + 1 })
  .next (if s.isDue (.ev (.ageingUpdate isls stks)) then s1 else s1.postAgeing)

/-! ### What the management space reads as -/

/-- PKGCFG (R17). -/
def State.pkgcfg (s : State) : W64 :=
  BitVec.ofNat 64 ((s.liveDies.foldl (fun m d => m + 2 ^ d) 0) + s.pkg.hdie * 2 ^ 9 + b2n s.pkg.hcause * 2 ^ 13)

/-- LINKSTAT (R311) with the LOST of a command processor. -/
def State.linkstatOf (s : State) (lost : Bool) : W64 :=
  BitVec.ofNat 64 (s.pkg.down.toNat + s.pkg.auth.toNat * 2 ^ 48 + b2n lost * 2 ^ 50)

/-- LINKSTAT as the host port of IO0 reads it. -/
def State.linkstat (s : State) : W64 := s.linkstatOf s.pkg.lost0

/-- Whether the command processor of an agent's group has reported PARTITION_LOST: the agents are dies, and I/O die io as 9 + io. -/
def State.lostAt (s : State) (agent : Nat) : Bool :=
  let mine := fun (io : Nat) =>
    if agent < 9 then (s.ioGroup io).any (fun g => g.contains agent)
    else agent = 9 + io || ((s.ioGroup io).isSome && s.ioGroup io = s.ioGroup (agent - 9))
  (mine 0 && s.pkg.lost0) || (mine 2 && s.pkg.lost2)

/-- A port's registers as they read. -/
def Port.read (q : Port) (n : Nat) : W64 :=
  match n with
  | 0 => q.spcfg
  | 1 => q.spsid
  | 2 => q.splim
  | 3 => q.splim2
  | 4 => q.augcfg
  | 5 => q.iqctl
  | 6 => BitVec.ofNat 64 (q.iqtail.toNat + q.iqhead.toNat * 2 ^ 32)
  | _ => 0

/-- A die's trace registers as they read. -/
def TraceSt.read (t : TraceSt) (n : Nat) : W64 :=
  match n with
  | 0 => t.ctl
  | 1 => t.head
  | 2 => t.done
  | 3 => BitVec.ofNat 64 (t.rd.toNat + b2n t.overrun * 2 ^ 63)
  | 4 => BitVec.ofNat 64 t.dropped.toNat
  | _ => 0

/-- Eight bytes of LATTAB (R316). -/
def State.latWord (s : State) (off : Nat) : W64 :=
  BitVec.ofNat 64 ((List.range 8).foldl (fun m i =>
    m + (if off + i < 81 then s.dieLat ((off + i) / 9) ((off + i) % 9) else 0) * 2 ^ (8 * i)) 0)

/-- A register of the management space, by its offset in BAR0; one read at no multiple of 8 reads as zero (log 20). -/
def State.bar0Read (s : State) (off : Nat) : W64 :=
  if off % 8 ≠ 0 then 0
  else if off = 0x8 then s.pkg.bootst
  else if off = 0x10 then s.pkgcfg
  else if off = 0x18 then s.linkstat
  else if off = 0x20 then s.ptcErr
  else if 0x100 ≤ off && off < 0x158 then s.latWord (off - 0x100)
  else if 0x400 ≤ off && off < 0x800 then (s.port ((off - 0x400) / 0x40)).read (off % 0x40 / 8)
  else if 0x800 ≤ off && off < 0xA40 then ((s.die ((off - 0x800) / 0x40)).tr).read (off % 0x40 / 8)
  else if 0x1000 ≤ off && off < 0x1240 then (AMap.get? s.pkg.ageI ((off - 0x1000) / 8)).getD ageReset
  else if 0x1400 ≤ off && off < 0x1520 then (AMap.get? s.pkg.ageS ((off - 0x1400) / 8)).getD ageReset
  else if 0x20000 ≤ off && off < 0x21000 then
    let q := s.queue ((off - 0x20000) / 16)
    if off % 16 = 0 then q.ctl else BitVec.ofNat 64 (q.tail.toNat + q.head.toNat * 2 ^ 32)
  else if 0x100000 ≤ off && s.liveCore ((off - 0x100000) / 0x1000) then s.debugWord ((off - 0x100000) / 0x1000) (off % 0x1000)
  else if off = Config.linkOffset then Config.linkWord s.pkg.link.1 s.pkg.link.2
  else 0

/-- A register of the management space as an agent reads it over the Silt ring (R17, R311, R314). -/
def State.siltRead (s : State) (agent off : Nat) : W64 := if off = 0x18 then s.linkstatOf (s.lostAt agent) else s.bar0Read off

/-- HOST_PORT_TRAINING: the negotiated link, reported in the management space. -/
def execHostPortTraining (rate : Fin 8) (width : Fin 8) (s : State) : Out :=
  .next (s.modPkg (fun p => { p with link := (rate.val, width.val) }))

/-! ### The security processor (R97, R344, R345) -/

/-- KEY_LOAD: a slot takes the two AES keys that the session brings; slot 63 is not loaded through the mailbox. -/
def execKeyLoad (x : KeyPair) (s : State) : Out :=
  if !s.hostUp then .next s
  else if x.slot.val = 63 then .next (s.answered 3)
  else .next ((s.modPkg (fun p => { p with keys := AMap.put p.keys x.slot.val x.keys })).answered 0)

/-- Whether an access-table entry enables a key slot. -/
def State.keyBusy (s : State) (k : Nat) : Bool := s.targets.any (fun t => t.2.table.any (fun e => getB e.2 k))

/-- KEY_CLEAR: refused with KEY_BUSY while an access-table entry enables the slot. -/
def execKeyClear (k : Fin 64) (s : State) : Out :=
  if !s.hostUp then .next s
  else if k.val = 63 then .next (s.answered 3)
  else if s.keyBusy k.val then .next (s.answered 2)
  else .next ((s.modPkg (fun p => { p with keys := AMap.del p.keys k.val })).answered 0)

/-- The number of an access-table target. -/
def targetNum : Target → Nat
  | .hbm d => d.val
  | .io i => 9 + i.val
  | .cxl => 13

/-- Whether a target is there: the harvested die holds none (R14). -/
def State.hasTarget (s : State) : Target → Bool
  | .hbm d => s.liveDie d.val
  | _ => true

/-- ACCESS_TABLE_WRITE, by the security processor, which is asked by the host (R348). -/
def execAccessTableWrite (t : Target) (master : Fin 4096) (v : BitVec 128) (s : State) : Out :=
  if !s.hostUp || !s.hasTarget t then .next s
  else
  let x := (AMap.get? s.targets (targetNum t)).getD ⟨[], []⟩
  let y : TargetSt := { x with table := AMap.put x.table master.val (v &&& BitVec.ofNat 128 (2 ^ 67 - 1)) }
  .next { s with targets := AMap.put s.targets (targetNum t) y }

/-- The fuse contents as bytes: the harvest map, the fused latency table, and the 16 entries of each island (R345, log 8). -/
def State.fuseBytes (s : State) : List Byte :=
  le 8 s.pkgcfg.toNat ++ (List.range 81).flatMap (fun i => le 1 (fusedLat s.pkg.hdie (i / 9) (i % 9)))
    ++ s.pkg.fuseV.flatMap (fun t => t.2.flatMap (fun e => le 4 e.khz ++ le 4 e.mv ++ le 4 e.mw))

/-- The bytes of a firmware image. -/
def Pkg.image (p : Pkg) (n : Nat) : List Byte := (p.fw.getD n ([], [])).1

/-- The report of R345 without its signature; the command processors' digest is of both images (log 8). -/
def State.reportBody (s : State) (nonce : List Byte) : List Byte :=
  le 4 1 ++ nonce ++ le 8 s.pkgcfg.toNat ++ shake256 (s.pkg.image 0) 64 ++ shake256 (s.pkg.image 1 ++ s.pkg.image 2) 64
    ++ shake256 s.fuseBytes 64 ++ le 8 (s.pkg.keys.foldl (fun n p => n + 2 ^ p.1) 0)

/-- ATTESTATION_REQUEST: the report that answers a 32-byte nonce, signed with the device identity key. -/
def execAttestationRequest (nonce : List Byte) (s : State) : Out :=
  if !s.hostUp || nonce.length ≠ 32 then .next s
  else
    let b := s.reportBody nonce
    .next (s.modPkg (fun p => { p with report := b ++ edSign s.pkg.devKey b }))

/-! ### The host's accesses to memory (R290, R321) -/

/-- Images that lie where bytes have been written are gone. -/
def State.dropImages (s : State) (a n : Nat) : State :=
  { s with images := s.images.filter (fun p => !(List.range n).any (fun i => (s.dpa (a + i)).map (·.2) = some p.1)) }

/-- HOST_DMA under the master id of the host's port. -/
def execHostDma (op : HostOp) (s : State) : Out :=
  let p : Nat × Nat := match op with
    | .write a _ bs => (a, bs.length)
    | .read a _ n => (a, n)
    | .image a _ _ => (a, 1)
  if !s.hostUp then .next s
  else match s.dpa p.1, s.heldRow p.1 p.2 (.hostDma op) with
    | none, _ => .fault .noTarget
    | some _, some h => .next h
    | some q, none =>
      match op with
      | .write a key bs =>
        let r := s.agentPut 0x11A a (some key) bs
        .next (if r.2 then r.1.dropImages a bs.length else r.1)
      | .read a key n =>
        let r := s.agentGet 0x11A a n (some key)
        .next (match r.2 with
          | some bs => r.1.modPkg (fun p => { p with hostRead := bs })
          | none => r.1)
      | .image a key i =>
        .next (if s.agentOk 0x11A a (some key) .write then { s with images := AMap.put s.images q.2 i }
          else s.agentDenied 0x11A a .write)

/-- A write and a read of the CXL host, which no access table checks and no page gives a key (log 19). -/
def State.cxlWrite (s : State) (a : Nat) (bs : List Byte) : State := (((s.agentBytesTo a none bs).agentCount a bs.length)).dropImages a bs.length
def State.cxlRead (s : State) (a n : Nat) : State := (s.agentCount a n).modPkg (fun p => { p with hostRead := s.agentBytes a n none })

/-- CXL_HOST_ACCESS: host-managed memory is the first 256 GiB of IO0's LPDDR-G6; the window is the host's own memory. The recalls and
invalidations of lines that the host holds leave nothing to be seen (R321). A port on which bring-up has failed answers none (R348). -/
def execCxlHostAccess (op : CxlOp) (s : State) : Out :=
  let held := fun (a n : Nat) => s.heldRow a n (.cxlHostAccess op)
  if !s.hostUp then .next s
  else match op with
  | .hdmWrite off bs =>
    if off + bs.length ≤ 2 ^ 38 then .next ((held (ioLinear 0 + off) bs.length).getD (s.cxlWrite (ioLinear 0 + off) bs)) else .fault .noTarget
  | .hdmRead off n =>
    if off + n ≤ 2 ^ 38 then .next ((held (ioLinear 0 + off) n).getD (s.cxlRead (ioLinear 0 + off) n)) else .fault .noTarget
  | .hostWrite off bs =>
    if off + bs.length ≤ s.pkg.cxlSize.toNat then .next (s.cxlWrite (0xC0000000000 + off) bs) else .fault .noTarget

end Sys2Proof.Machine
end

