-- ==== Sys2Proof/Machine/Phases.lean ====
section
/-! DEFINITION. PHASE (R64, R270): the effective sets take in what the later slots of PHASE's own group issue, which belongs to the old
phase and is in flight when the new one is loaded. -/

namespace Sys2Proof.Machine

open Sys2Proof

/-- The views that a copy of a form carries, by its descriptor (R64). -/
def Core.copyCarries (k : Core) (ch : Nat) (hd : Nat) (op : CopyOp) (table : List Nat) : Carried :=
  let d := copyDesc (k.descBytes (k.vEnt hd))
  match op with
  | .out | .x | .red _ _ => ⟨3 + ch, [d.lv], [hd]⟩
  | .loc => ⟨3 + ch, [d.fv], [hd, d.lv]⟩
  | _ => ⟨3 + ch, table, [hd, d.lv]⟩

/-- The views of the rings that selectors name. -/
def Core.selViews (k : Core) (l : List Sel) : List Nat := (selRings l).map (fun r => (k.ring r).view)

/-- The views that a macro tile carries, by its descriptor. -/
def Core.tileCarries (k : Core) (h : Nat) : Carried :=
  let d := mtileDesc (k.descBytes (k.vEnt h))
  ⟨2, k.selViews ([d.a, d.b, d.w].filterMap id) ++ h :: d.drain :: k.drainViews d.drain, [d.out]⟩

/-- The views that an instruction carries once it has issued. -/
def Core.carries (k : Core) (i : Instr) : Carried :=
  match i with
  | .sld _ h _ => ⟨0, [h.val], []⟩
  | .sst h _ _ => ⟨0, [], [h.val]⟩
  | .vld _ h _ _ | .vldb _ h _ _ | .vldx _ h _ _ => ⟨1, [h.val], []⟩
  | .vst _ h _ _ | .vstx _ h _ _ => ⟨1, [], [h.val]⟩
  | .mload _ _ h | .mlatch _ _ h => ⟨2, [h.val], []⟩
  | .mmul _ _ a b _ _ _ => ⟨2, k.selViews [a, b], []⟩
  | .mmul3 _ _ a b w _ _ _ _ => ⟨2, k.selViews [a, b, w], []⟩
  | .mdrain _ _ ho hd _ => ⟨2, hd.val :: k.drainViews hd.val, [ho.val]⟩
  | .mdrainv _ _ _ hd => ⟨2, hd.val :: k.drainViews hd.val, []⟩
  | .mtile _ h | .mtile3 _ h => k.tileCarries h.val
  | .cpy _ ch _ hd dir | .cpym _ ch _ hd dir _ => k.copyCarries ch.val hd.val (if dir = .inn then .inn else .out) []
  | .cpyx _ ch _ hd | .cpya _ ch _ hd _ _ => k.copyCarries ch.val hd.val .x []
  | .cpyd _ ch _ hd hc => k.copyCarries ch.val hd.val (.huff []) [hc.val]
  | .cpyi _ ch _ hd _ => k.copyCarries ch.val hd.val (.input 0) []
  | .cpyc _ ch _ hd => k.copyCarries ch.val hd.val .loc []
  | .coll _ _ _ _ _ hd _ => ⟨0, [], [hd.val]⟩
  | .slpwr _ _ h _ => ⟨0, [h.val], []⟩
  | .slprd _ _ h _ | .slpst _ _ h _ => ⟨8, [], [h.val]⟩
  | _ => ⟨0, [], []⟩

/-- What commits in the cycle of the group that issues, and its later slots, carry. -/
def State.groupCarries (s : State) : List Carried :=
  s.ik.doneCarries (s.cyc s.ic) ++ s.issue.slots.filterMap (fun w =>
    match decodeSlot (kindOf w.kind) w.word with
    | .ok i => some (s.ik.carries i)
    | .bad _ => none)

/-- PHASE (R64): the new phase governs from the next cycle on; open windows close now (R252). -/
def execPhase (n : BitVec 14) (s : State) : Out :=
  match AMap.get? s.ik.prog.descs n.toNat with
  | none => s.raise cIllegalField s.image
  | some p =>
    match s.ik.overlap p s.groupCarries with
    | some f => s.raiseGroup cRwOverlap f
    | none => .next ((s.closeAll s.ic).postMi (s.inst s.ic (s.cyc s.ic + 1)) 1 (.phaseLoad s.ic n.toNat))

end Sys2Proof.Machine
end

