-- ==== Sys2Proof/Machine/ScalarSys.lean ====
section
/-! DEFINITION. System registers (R177 to R179) and handle instructions (R180, R181). -/

namespace Sys2Proof.Machine

open Sys2Proof

/-- Registers that R178 marks S in either column. -/
def sysSupervisor : SysReg → Bool
  | .cause | .faddr | .epc | .cause2 | .faddr2 | .svec | .ssp | .slotmap => true
  | _ => false

/-- Registers with write access (R178). -/
def sysWritable : SysReg → Bool
  | .status | .cause | .faddr | .epc | .svec | .ssp | .uivec | .seed | .lc | .ls | .le | .wrap _ => true
  | _ => false

/-- What MFS reads of a register, at the issue cycle (R177, R178). -/
def State.readSys (s : State) (c : Nat) (r : SysReg) : W64 :=
  let k := s.core c
  match r with
  | .status => k.tr.status
  | .cause => k.tr.cause
  | .faddr => k.tr.faddr
  | .epc => k.tr.epc
  | .cause2 => k.tr.cause2
  | .faddr2 => k.tr.faddr2
  | .svec => k.tr.svec
  | .ssp => k.tr.ssp
  | .uivec => k.sc.uivec
  | .slotmap => (s.slotmap c).zeroExtend 64
  | .ngp => if k.priv then k.tr.tngp else k.tr.ngp
  | .cif => (s.cifNow c).zeroExtend 64
  | .fn => k.seq.fn.zeroExtend 64
  | .flen => BitVec.ofNat 64 (s.frameLen k)
  | .gm => k.ct.gm
  | .coreid => BitVec.ofNat 64 c
  | .launchid => k.ct.launchid.zeroExtend 64
  | .seed => k.sc.seed
  | .lc => k.sc.lc
  | .ls => k.sc.ls
  | .le => k.sc.le
  | .cc n => (k.ct.cc[n]).zeroExtend 64
  | .dcr n => k.ct.dcr[n]
  | .wrap n => (k.sc.wrap[n]).zeroExtend 64

/-- What the handler has read of CAUSE, FADDR and EPC (R299). -/
def Core.noteRead (k : Core) (r : SysReg) : Core :=
  match r with
  | .cause => { k with tr := { k.tr with rdCause := true } }
  | .faddr => { k with tr := { k.tr with rdFaddr := true } }
  | .epc => { k with tr := { k.tr with rdEpc := true } }
  | _ => k

/-- MFS: PRIV for a supervisor register at user privilege (R177). -/
def execMfs (d : Fin 32) (r : SysReg) (s : State) : Out :=
  s.checked (failIf (sysSupervisor r && !s.ik.priv) cPriv s.image)
    (((if r = .slotmap then s.drawn else s).modCore s.ic (fun k => k.noteRead r)).wrS d 1 (s.readSys s.ic r))

/-- MTS: PRIV first, then ILLEGAL_FIELD for a register with no write access; effect from t + 1 (R177). Bit 63
of a value for STATUS carries the privilege, which the landing reads; the flags raised so far in the cycle are ORed in (R112). -/
def execMts (r : SysReg) (a : Fin 32) (s : State) : Out :=
  let x := s.gs a
  let y := if r = .status then setB x 63 s.ik.priv ||| flagBits (s.ik.flagsIn (s.cyc s.ic)) else x
  s.checked (firstFail [failIf (sysSupervisor r && !s.ik.priv) cPriv s.image, s.chkField (!sysWritable r)])
    (s.pend s.ic 1 (.sys r) (.w y))

/-- RDFC: FN[31:0] and CIF of the issue cycle. -/
def execRdfc (d : Fin 32) (s : State) : Out :=
  let k := s.ik
  .next (s.wrS d 1 (BitVec.ofNat 64 (getF k.seq.fn 0 32 * 2 ^ 32 + (s.cifNow s.ic).toNat)))

/-- An entry installed and a view bound to it. -/
def Core.install (k : Core) (i h : Nat) (e : TEntry) : Core :=
  { k with tile := { k.tile with
      ents := k.tile.ents.setIfInBounds i e
      views := k.tile.views.setIfInBounds h ⟨true, BitVec.ofNat 8 (entGen e), BitVec.ofNat 8 i⟩ } }

/-- The entry that HALLOC forms: V set, GEN kept (R180). -/
def formEntry (old : TEntry) (a b : W64) : TEntry :=
  ⟨setF (setB a 63 true) 55 8 (entGen old), b⟩

/-- HALLOC (R180). -/
def execHalloc (h : Fin 256) (d a b : Fin 32) (s : State) : Out :=
  let k := s.ik
  let i := (s.gs d).toNat
  let old := k.ent i
  let e := formEntry old (s.gs a) (s.gs b)
  s.checked (firstFail [s.chkField (256 ≤ i), s.chkField (getF (s.gs a) 0 14 ≠ 0 || getF (s.gs b) 22 42 ≠ 0),
      s.chkField (entV old), s.chkField (!entLegal k.tile.ents.toList e)])
    (s.modCore s.ic (fun k => k.install i h.val e))

/-- An entry freed: V clear, GEN advanced (R181). -/
def Core.freeEntry (k : Core) (i : Nat) : Core :=
  let e := k.ent i
  let w := setF (setB e.w0 63 false) 55 8 ((entGen e + 1) % 256)
  { k with tile := { k.tile with ents := k.tile.ents.setIfInBounds i { e with w0 := w } } }

/-- HFREE (R80, R81, R181). -/
def execHfree (h : Fin 256) (s : State) : Out :=
  let k := s.ik
  let i := k.vIdx h.val
  s.checked (firstFail [k.chkView h.val, failIf (s.entryBusy s.ic i) cHandleBusy (BitVec.ofNat 64 h.val)])
    (s.modCore s.ic (fun k => k.freeEntry i))

/-- HINFO (R181). -/
def execHinfo (d : Fin 32) (h : Fin 256) (w : Fin 2) (s : State) : Out :=
  let e := s.ik.vEnt h.val
  s.checked (s.ik.chkView h.val) (s.wrS d 1 (if w = 0 then e.w0 else e.w1))

end Sys2Proof.Machine
end

