-- ==== Sys2Proof/Machine/Dispatch.lean ====
section
/-! DEFINITION. One arm per row of the opcode table, each a call of its meaning. -/

namespace Sys2Proof.Machine

open Sys2Proof

def exec (i : Instr) (s : State) : Host.Outcome State Fault Refusal :=
  match i with
  | .registerWrite x1 x2 => Sys2Proof.Machine.execRegisterWrite x1 x2 s
  | .qctlWrite x1 x2 => Sys2Proof.Machine.execQctlWrite x1 x2 s
  | .qtailWrite x1 x2 => Sys2Proof.Machine.execQtailWrite x1 x2 s
  | .launchAdmission x => Sys2Proof.Machine.execLaunchAdmission x s
  | .gangStop x => Sys2Proof.Machine.execGangStop x s
  | .contextSave x => Sys2Proof.Machine.execContextSave x s
  | .admissionComplete x => Sys2Proof.Machine.execAdmissionComplete x s
  | .contextRestore x => Sys2Proof.Machine.execContextRestore x s
  | .gangResume x => Sys2Proof.Machine.execGangResume x s
  | .launchRetire x => Sys2Proof.Machine.execLaunchRetire x s
  | .taskStart x => Sys2Proof.Machine.execTaskStart x s
  | .frameEnd x => Sys2Proof.Machine.execFrameEnd x s
  | .srcStop x => Sys2Proof.Machine.execSrcStop x s
  | .regionClockGate x => Sys2Proof.Machine.execRegionClockGate x s
  | .rcgLock x => Sys2Proof.Machine.execRcgLock x s
  | .producerSampleArrival x1 x2 => Sys2Proof.Machine.execProducerSampleArrival x1 x2 s
  | .consumerSampleDelivery x => Sys2Proof.Machine.execConsumerSampleDelivery x s
  | .slpResultLanding x1 x2 => Sys2Proof.Machine.execSlpResultLanding x1 x2 s
  | .realignTick x1 x2 => Sys2Proof.Machine.execRealignTick x1 x2 s
  | .twaitLeave x => Sys2Proof.Machine.execTwaitLeave x s
  | .groupReach x => Sys2Proof.Machine.execGroupReach x s
  | .pendingWriteLand x => Sys2Proof.Machine.execPendingWriteLand x s
  | .gangHalt x => Sys2Proof.Machine.execGangHalt x s
  | .gangRestart x => Sys2Proof.Machine.execGangRestart x s
  | .userInterrupt x => Sys2Proof.Machine.execUserInterrupt x s
  | .uiwinClose x => Sys2Proof.Machine.execUiwinClose x s
  | .copyCommandStart x1 x2 => Sys2Proof.Machine.execCopyCommandStart x1 x2 s
  | .copyLine x1 x2 => Sys2Proof.Machine.execCopyLine x1 x2 s
  | .remoteBeatArrival x1 x2 => Sys2Proof.Machine.execRemoteBeatArrival x1 x2 s
  | .copyCompletion x1 x2 => Sys2Proof.Machine.execCopyCompletion x1 x2 s
  | .followOnStart x => Sys2Proof.Machine.execFollowOnStart x s
  | .cubeStepRetire x => Sys2Proof.Machine.execCubeStepRetire x s
  | .drainCommit x => Sys2Proof.Machine.execDrainCommit x s
  | .mtileExpansion x => Sys2Proof.Machine.execMtileExpansion x s
  | .amoExecute x1 x2 => Sys2Proof.Machine.execAmoExecute x1 x2 s
  | .amoCompletion x1 x2 => Sys2Proof.Machine.execAmoCompletion x1 x2 s
  | .scExecute x1 x2 => Sys2Proof.Machine.execScExecute x1 x2 s
  | .scCompletion x1 x2 => Sys2Proof.Machine.execScCompletion x1 x2 s
  | .fenceComplete x1 x2 => Sys2Proof.Machine.execFenceComplete x1 x2 s
  | .memoryAccessPerform x1 x2 => Sys2Proof.Machine.execMemoryAccessPerform x1 x2 s
  | .translationWalk x1 x2 => Sys2Proof.Machine.execTranslationWalk x1 x2 s
  | .collContribution x1 x2 => Sys2Proof.Machine.execCollContribution x1 x2 s
  | .collCompletion x1 x2 => Sys2Proof.Machine.execCollCompletion x1 x2 s
  | .collDeadline x => Sys2Proof.Machine.execCollDeadline x s
  | .kamrexContrib x => Sys2Proof.Machine.execKamrexContrib x s
  | .subonRequest x1 x2 x3 => Sys2Proof.Machine.execSubonRequest x1 x2 x3 s
  | .subonReply x1 x2 x3 => Sys2Proof.Machine.execSubonReply x1 x2 x3 s
  | .batchWindowClose x1 x2 => Sys2Proof.Machine.execBatchWindowClose x1 x2 s
  | .batchLineLanding x1 x2 => Sys2Proof.Machine.execBatchLineLanding x1 x2 s
  | .subscriptionResync x1 x2 => Sys2Proof.Machine.execSubscriptionResync x1 x2 s
  | .suboffRequest x1 x2 x3 => Sys2Proof.Machine.execSuboffRequest x1 x2 x3 s
  | .suboffAck x1 x2 => Sys2Proof.Machine.execSuboffAck x1 x2 s
  | .subsyncCompletion x1 x2 => Sys2Proof.Machine.execSubsyncCompletion x1 x2 s
  | .multicastLanding x1 x2 => Sys2Proof.Machine.execMulticastLanding x1 x2 s
  | .exchangeRow x => Sys2Proof.Machine.execExchangeRow x s
  | .traceRecord x1 x2 => Sys2Proof.Machine.execTraceRecord x1 x2 s
  | .traceRecordPerformed x => Sys2Proof.Machine.execTraceRecordPerformed x s
  | .itemAccept x => Sys2Proof.Machine.execItemAccept x s
  | .unitReady x => Sys2Proof.Machine.execUnitReady x s
  | .migrationInterval x => Sys2Proof.Machine.execMigrationInterval x s
  | .migrationLock x1 x2 => Sys2Proof.Machine.execMigrationLock x1 x2 s
  | .migrationForwarding x1 x2 => Sys2Proof.Machine.execMigrationForwarding x1 x2 s
  | .migrationComplete x1 x2 => Sys2Proof.Machine.execMigrationComplete x1 x2 s
  | .shootdownAck x1 x2 => Sys2Proof.Machine.execShootdownAck x1 x2 s
  | .hostDma x => Sys2Proof.Machine.execHostDma x s
  | .add x1 x2 x3 => Sys2Proof.Machine.execAdd x1 x2 x3 s
  | .sub x1 x2 x3 => Sys2Proof.Machine.execSub x1 x2 x3 s
  | .and x1 x2 x3 => Sys2Proof.Machine.execAnd x1 x2 x3 s
  | .or x1 x2 x3 => Sys2Proof.Machine.execOr x1 x2 x3 s
  | .xor x1 x2 x3 => Sys2Proof.Machine.execXor x1 x2 x3 s
  | .shl x1 x2 x3 => Sys2Proof.Machine.execShl x1 x2 x3 s
  | .shr x1 x2 x3 => Sys2Proof.Machine.execShr x1 x2 x3 s
  | .sar x1 x2 x3 => Sys2Proof.Machine.execSar x1 x2 x3 s
  | .mul x1 x2 x3 => Sys2Proof.Machine.execMul x1 x2 x3 s
  | .mulh x1 x2 x3 => Sys2Proof.Machine.execMulh x1 x2 x3 s
  | .mulhu x1 x2 x3 => Sys2Proof.Machine.execMulhu x1 x2 x3 s
  | .div x1 x2 x3 => Sys2Proof.Machine.execDiv x1 x2 x3 s
  | .divu x1 x2 x3 => Sys2Proof.Machine.execDivu x1 x2 x3 s
  | .rem x1 x2 x3 => Sys2Proof.Machine.execRem x1 x2 x3 s
  | .remu x1 x2 x3 => Sys2Proof.Machine.execRemu x1 x2 x3 s
  | .min x1 x2 x3 => Sys2Proof.Machine.execMin x1 x2 x3 s
  | .max x1 x2 x3 => Sys2Proof.Machine.execMax x1 x2 x3 s
  | .minu x1 x2 x3 => Sys2Proof.Machine.execMinu x1 x2 x3 s
  | .maxu x1 x2 x3 => Sys2Proof.Machine.execMaxu x1 x2 x3 s
  | .slt x1 x2 x3 => Sys2Proof.Machine.execSlt x1 x2 x3 s
  | .sltu x1 x2 x3 => Sys2Proof.Machine.execSltu x1 x2 x3 s
  | .seq x1 x2 x3 => Sys2Proof.Machine.execSeq x1 x2 x3 s
  | .sel x1 x2 x3 x4 => Sys2Proof.Machine.execSel x1 x2 x3 x4 s
  | .clz x1 x2 => Sys2Proof.Machine.execClz x1 x2 s
  | .ctz x1 x2 => Sys2Proof.Machine.execCtz x1 x2 s
  | .popc x1 x2 => Sys2Proof.Machine.execPopc x1 x2 s
  | .brev x1 x2 => Sys2Proof.Machine.execBrev x1 x2 s
  | .extb x1 x2 x3 => Sys2Proof.Machine.execExtb x1 x2 x3 s
  | .insb x1 x2 x3 x4 => Sys2Proof.Machine.execInsb x1 x2 x3 x4 s
  | .addi x1 x2 x3 => Sys2Proof.Machine.execAddi x1 x2 x3 s
  | .andi x1 x2 x3 => Sys2Proof.Machine.execAndi x1 x2 x3 s
  | .ori x1 x2 x3 => Sys2Proof.Machine.execOri x1 x2 x3 s
  | .xori x1 x2 x3 => Sys2Proof.Machine.execXori x1 x2 x3 s
  | .shli x1 x2 x3 => Sys2Proof.Machine.execShli x1 x2 x3 s
  | .shri x1 x2 x3 => Sys2Proof.Machine.execShri x1 x2 x3 s
  | .sari x1 x2 x3 => Sys2Proof.Machine.execSari x1 x2 x3 s
  | .slti x1 x2 x3 => Sys2Proof.Machine.execSlti x1 x2 x3 s
  | .lui x1 x2 => Sys2Proof.Machine.execLui x1 x2 s
  | .muli x1 x2 x3 => Sys2Proof.Machine.execMuli x1 x2 x3 s
  | .fadd x1 x2 x3 x4 x5 => Sys2Proof.Machine.execFadd x1 x2 x3 x4 x5 s
  | .fsub x1 x2 x3 x4 x5 => Sys2Proof.Machine.execFsub x1 x2 x3 x4 x5 s
  | .fmul x1 x2 x3 x4 x5 => Sys2Proof.Machine.execFmul x1 x2 x3 x4 x5 s
  | .ffma x1 x2 x3 x4 x5 => Sys2Proof.Machine.execFfma x1 x2 x3 x4 x5 s
  | .fmin x1 x2 x3 x4 x5 => Sys2Proof.Machine.execFmin x1 x2 x3 x4 x5 s
  | .fmax x1 x2 x3 x4 x5 => Sys2Proof.Machine.execFmax x1 x2 x3 x4 x5 s
  | .fcmp x1 x2 x3 x4 x5 x6 => Sys2Proof.Machine.execFcmp x1 x2 x3 x4 x5 x6 s
  | .fcvti x1 x2 x3 x4 x5 => Sys2Proof.Machine.execFcvti x1 x2 x3 x4 x5 s
  | .fcvtf x1 x2 x3 x4 x5 => Sys2Proof.Machine.execFcvtf x1 x2 x3 x4 x5 s
  | .sld x1 x2 x3 => Sys2Proof.Machine.execSld x1 x2 x3 s
  | .sst x1 x2 x3 => Sys2Proof.Machine.execSst x1 x2 x3 s
  | .beq x1 x2 x3 => Sys2Proof.Machine.execBeq x1 x2 x3 s
  | .bne x1 x2 x3 => Sys2Proof.Machine.execBne x1 x2 x3 s
  | .blt x1 x2 x3 => Sys2Proof.Machine.execBlt x1 x2 x3 s
  | .bge x1 x2 x3 => Sys2Proof.Machine.execBge x1 x2 x3 s
  | .bltu x1 x2 x3 => Sys2Proof.Machine.execBltu x1 x2 x3 s
  | .bgeu x1 x2 x3 => Sys2Proof.Machine.execBgeu x1 x2 x3 s
  | .jmp x => Sys2Proof.Machine.execJmp x s
  | .jal x => Sys2Proof.Machine.execJal x s
  | .jr x => Sys2Proof.Machine.execJr x s
  | .loop x1 x2 => Sys2Proof.Machine.execLoop x1 x2 s
  | .chk x1 x2 => Sys2Proof.Machine.execChk x1 x2 s
  | .phase x => Sys2Proof.Machine.execPhase x s
  | .uiwin x => Sys2Proof.Machine.execUiwin x s
  | .trap x => Sys2Proof.Machine.execTrap x s
  | .rett x => Sys2Proof.Machine.execRett x s
  | .bkpt x => Sys2Proof.Machine.execBkpt x s
  | .mfs x1 x2 => Sys2Proof.Machine.execMfs x1 x2 s
  | .mts x1 x2 => Sys2Proof.Machine.execMts x1 x2 s
  | .rdfc x => Sys2Proof.Machine.execRdfc x s
  | .halloc x1 x2 x3 x4 => Sys2Proof.Machine.execHalloc x1 x2 x3 x4 s
  | .hfree x => Sys2Proof.Machine.execHfree x s
  | .hinfo x1 x2 x3 => Sys2Proof.Machine.execHinfo x1 x2 x3 s
  | .amov x1 x2 => Sys2Proof.Machine.execAmov x1 x2 s
  | .aget x1 x2 => Sys2Proof.Machine.execAget x1 x2 s
  | .aadd x1 x2 => Sys2Proof.Machine.execAadd x1 x2 s
  | .aadds x1 x2 => Sys2Proof.Machine.execAadds x1 x2 s
  | .asetb x1 x2 => Sys2Proof.Machine.execAsetb x1 x2 s
  | .ainc x1 x2 => Sys2Proof.Machine.execAinc x1 x2 s
  | .ainc2 x1 x2 => Sys2Proof.Machine.execAinc2 x1 x2 s
  | .vadd x1 x2 x3 x4 x5 x6 => Sys2Proof.Machine.execVadd x1 x2 x3 x4 x5 x6 s
  | .vsub x1 x2 x3 x4 x5 x6 => Sys2Proof.Machine.execVsub x1 x2 x3 x4 x5 x6 s
  | .vmul x1 x2 x3 x4 x5 x6 => Sys2Proof.Machine.execVmul x1 x2 x3 x4 x5 x6 s
  | .vfma x1 x2 x3 x4 x5 x6 => Sys2Proof.Machine.execVfma x1 x2 x3 x4 x5 x6 s
  | .vfms x1 x2 x3 x4 x5 x6 => Sys2Proof.Machine.execVfms x1 x2 x3 x4 x5 x6 s
  | .vmin x1 x2 x3 x4 x5 => Sys2Proof.Machine.execVmin x1 x2 x3 x4 x5 s
  | .vmax x1 x2 x3 x4 x5 => Sys2Proof.Machine.execVmax x1 x2 x3 x4 x5 s
  | .vabs x1 x2 x3 x4 => Sys2Proof.Machine.execVabs x1 x2 x3 x4 s
  | .vneg x1 x2 x3 x4 => Sys2Proof.Machine.execVneg x1 x2 x3 x4 s
  | .vand x1 x2 x3 x4 x5 => Sys2Proof.Machine.execVand x1 x2 x3 x4 x5 s
  | .vor x1 x2 x3 x4 x5 => Sys2Proof.Machine.execVor x1 x2 x3 x4 x5 s
  | .vxor x1 x2 x3 x4 x5 => Sys2Proof.Machine.execVxor x1 x2 x3 x4 x5 s
  | .vshl x1 x2 x3 x4 x5 => Sys2Proof.Machine.execVshl x1 x2 x3 x4 x5 s
  | .vshr x1 x2 x3 x4 x5 => Sys2Proof.Machine.execVshr x1 x2 x3 x4 x5 s
  | .vsar x1 x2 x3 x4 x5 => Sys2Proof.Machine.execVsar x1 x2 x3 x4 x5 s
  | .vmulh x1 x2 x3 x4 x5 => Sys2Proof.Machine.execVmulh x1 x2 x3 x4 x5 s
  | .vadds x1 x2 x3 x4 x5 => Sys2Proof.Machine.execVadds x1 x2 x3 x4 x5 s
  | .vsubs x1 x2 x3 x4 x5 => Sys2Proof.Machine.execVsubs x1 x2 x3 x4 x5 s
  | .vcmp x1 x2 x3 x4 x5 x6 => Sys2Proof.Machine.execVcmp x1 x2 x3 x4 x5 x6 s
  | .vrcp x1 x2 x3 x4 => Sys2Proof.Machine.execVrcp x1 x2 x3 x4 s
  | .vsqrt x1 x2 x3 x4 => Sys2Proof.Machine.execVsqrt x1 x2 x3 x4 s
  | .vrsq x1 x2 x3 x4 => Sys2Proof.Machine.execVrsq x1 x2 x3 x4 s
  | .vexp2 x1 x2 x3 x4 => Sys2Proof.Machine.execVexp2 x1 x2 x3 x4 s
  | .vlog2 x1 x2 x3 x4 => Sys2Proof.Machine.execVlog2 x1 x2 x3 x4 s
  | .vtanh x1 x2 x3 x4 => Sys2Proof.Machine.execVtanh x1 x2 x3 x4 s
  | .vcvt x1 x2 x3 x4 x5 x6 x7 => Sys2Proof.Machine.execVcvt x1 x2 x3 x4 x5 x6 x7 s
  | .vpack4 x1 x2 x3 x4 x5 => Sys2Proof.Machine.execVpack4 x1 x2 x3 x4 x5 s
  | .vunpack4 x1 x2 x3 x4 x5 => Sys2Proof.Machine.execVunpack4 x1 x2 x3 x4 x5 s
  | .vtag x1 x2 x3 x4 x5 => Sys2Proof.Machine.execVtag x1 x2 x3 x4 x5 s
  | .vmov x1 x2 x3 x4 => Sys2Proof.Machine.execVmov x1 x2 x3 x4 s
  | .vsel x1 x2 x3 x4 x5 => Sys2Proof.Machine.execVsel x1 x2 x3 x4 x5 s
  | .vbcs x1 x2 x3 => Sys2Proof.Machine.execVbcs x1 x2 x3 s
  | .vbrow x1 x2 x3 x4 x5 => Sys2Proof.Machine.execVbrow x1 x2 x3 x4 x5 s
  | .vbcol x1 x2 x3 x4 x5 => Sys2Proof.Machine.execVbcol x1 x2 x3 x4 x5 s
  | .vrotr x1 x2 x3 x4 x5 => Sys2Proof.Machine.execVrotr x1 x2 x3 x4 x5 s
  | .vrotc x1 x2 x3 x4 x5 => Sys2Proof.Machine.execVrotc x1 x2 x3 x4 x5 s
  | .vredr x1 x2 x3 x4 x5 => Sys2Proof.Machine.execVredr x1 x2 x3 x4 x5 s
  | .vredc x1 x2 x3 x4 x5 => Sys2Proof.Machine.execVredc x1 x2 x3 x4 x5 s
  | .vscanr x1 x2 x3 x4 x5 => Sys2Proof.Machine.execVscanr x1 x2 x3 x4 x5 s
  | .vtrn x1 x2 x3 x4 => Sys2Proof.Machine.execVtrn x1 x2 x3 x4 s
  | .vperm x1 x2 x3 x4 x5 => Sys2Proof.Machine.execVperm x1 x2 x3 x4 x5 s
  | .viota x1 x2 => Sys2Proof.Machine.execViota x1 x2 s
  | .vrand x1 x2 => Sys2Proof.Machine.execVrand x1 x2 s
  | .kand x1 x2 x3 => Sys2Proof.Machine.execKand x1 x2 x3 s
  | .kor x1 x2 x3 => Sys2Proof.Machine.execKor x1 x2 x3 s
  | .kxor x1 x2 x3 => Sys2Proof.Machine.execKxor x1 x2 x3 s
  | .knot x1 x2 => Sys2Proof.Machine.execKnot x1 x2 s
  | .kpop x1 x2 => Sys2Proof.Machine.execKpop x1 x2 s
  | .kset x1 x2 => Sys2Proof.Machine.execKset x1 x2 s
  | .vld x1 x2 x3 x4 => Sys2Proof.Machine.execVld x1 x2 x3 x4 s
  | .vst x1 x2 x3 x4 => Sys2Proof.Machine.execVst x1 x2 x3 x4 s
  | .vldx x1 x2 x3 x4 => Sys2Proof.Machine.execVldx x1 x2 x3 x4 s
  | .vstx x1 x2 x3 x4 => Sys2Proof.Machine.execVstx x1 x2 x3 x4 s
  | .vldb x1 x2 x3 x4 => Sys2Proof.Machine.execVldb x1 x2 x3 x4 s
  | .mcfg x1 x2 => Sys2Proof.Machine.execMcfg x1 x2 s
  | .mzero x1 x2 => Sys2Proof.Machine.execMzero x1 x2 s
  | .mload x1 x2 x3 => Sys2Proof.Machine.execMload x1 x2 x3 s
  | .mlatch x1 x2 x3 => Sys2Proof.Machine.execMlatch x1 x2 x3 s
  | .mmul x1 x2 x3 x4 x5 x6 x7 => Sys2Proof.Machine.execMmul x1 x2 x3 x4 x5 x6 x7 s
  | .mmul3 x1 x2 x3 x4 x5 x6 x7 x8 x9 => Sys2Proof.Machine.execMmul3 x1 x2 x3 x4 x5 x6 x7 x8 x9 s
  | .mdrain x1 x2 x3 x4 x5 => Sys2Proof.Machine.execMdrain x1 x2 x3 x4 x5 s
  | .mdrainv x1 x2 x3 x4 => Sys2Proof.Machine.execMdrainv x1 x2 x3 x4 s
  | .mtile x1 x2 => Sys2Proof.Machine.execMtile x1 x2 s
  | .mtile3 x1 x2 => Sys2Proof.Machine.execMtile3 x1 x2 s
  | .msetf x1 x2 x3 x4 => Sys2Proof.Machine.execMsetf x1 x2 x3 x4 s
  | .nset x1 x2 x3 x4 => Sys2Proof.Machine.execNset x1 x2 x3 x4 s
  | .nadv x1 x2 x3 => Sys2Proof.Machine.execNadv x1 x2 x3 s
  | .nchk x1 x2 x3 => Sys2Proof.Machine.execNchk x1 x2 x3 s
  | .mstep x1 x2 => Sys2Proof.Machine.execMstep x1 x2 s
  | .cpy x1 x2 x3 x4 x5 => Sys2Proof.Machine.execCpy x1 x2 x3 x4 x5 s
  | .cpym x1 x2 x3 x4 x5 x6 => Sys2Proof.Machine.execCpym x1 x2 x3 x4 x5 x6 s
  | .cpyx x1 x2 x3 x4 => Sys2Proof.Machine.execCpyx x1 x2 x3 x4 s
  | .cpya x1 x2 x3 x4 x5 x6 => Sys2Proof.Machine.execCpya x1 x2 x3 x4 x5 x6 s
  | .cpyd x1 x2 x3 x4 x5 => Sys2Proof.Machine.execCpyd x1 x2 x3 x4 x5 s
  | .cpyi x1 x2 x3 x4 x5 => Sys2Proof.Machine.execCpyi x1 x2 x3 x4 x5 s
  | .cpyc x1 x2 x3 x4 => Sys2Proof.Machine.execCpyc x1 x2 x3 x4 s
  | .amo x1 x2 x3 x4 x5 x6 => Sys2Proof.Machine.execAmo x1 x2 x3 x4 x5 x6 s
  | .scld x1 x2 x3 x4 => Sys2Proof.Machine.execScld x1 x2 x3 x4 s
  | .scst x1 x2 x3 x4 => Sys2Proof.Machine.execScst x1 x2 x3 x4 s
  | .scamo x1 x2 x3 x4 x5 x6 => Sys2Proof.Machine.execScamo x1 x2 x3 x4 x5 x6 s
  | .fence x1 x2 => Sys2Proof.Machine.execFence x1 x2 s
  | .seminc x1 x2 x3 => Sys2Proof.Machine.execSeminc x1 x2 x3 s
  | .semset x1 x2 x3 => Sys2Proof.Machine.execSemset x1 x2 x3 s
  | .semchk x1 x2 x3 => Sys2Proof.Machine.execSemchk x1 x2 x3 s
  | .twait x1 x2 x3 => Sys2Proof.Machine.execTwait x1 x2 x3 s
  | .tstamp x1 x2 => Sys2Proof.Machine.execTstamp x1 x2 s
  | .realign x1 x2 x3 => Sys2Proof.Machine.execRealign x1 x2 x3 s
  | .coll x1 x2 x3 x4 x5 x6 x7 => Sys2Proof.Machine.execColl x1 x2 x3 x4 x5 x6 x7 s
  | .subon x1 x2 x3 x4 x5 => Sys2Proof.Machine.execSubon x1 x2 x3 x4 x5 s
  | .suboff x1 x2 => Sys2Proof.Machine.execSuboff x1 x2 s
  | .subsync x1 x2 => Sys2Proof.Machine.execSubsync x1 x2 s
  | .mcwin x1 x2 x3 x4 => Sys2Proof.Machine.execMcwin x1 x2 x3 x4 s
  | .mcoff x1 x2 => Sys2Proof.Machine.execMcoff x1 x2 s
  | .slpwr x1 x2 x3 x4 => Sys2Proof.Machine.execSlpwr x1 x2 x3 x4 s
  | .slprd x1 x2 x3 x4 => Sys2Proof.Machine.execSlprd x1 x2 x3 x4 s
  | .slpst x1 x2 x3 x4 => Sys2Proof.Machine.execSlpst x1 x2 x3 x4 s
  | .trace x1 x2 x3 => Sys2Proof.Machine.execTrace x1 x2 x3 s
  | .xtx x1 x2 x3 x4 => Sys2Proof.Machine.execXtx x1 x2 x3 x4 s
  | .xrx x1 x2 x3 x4 => Sys2Proof.Machine.execXrx x1 x2 x3 x4 s
  | .xsel x1 x2 x3 => Sys2Proof.Machine.execXsel x1 x2 x3 s
  | .ptpMessage x1 x2 => Sys2Proof.Machine.execPtpMessage x1 x2 s
  | .ptcStep x => Sys2Proof.Machine.execPtcStep x s
  | .sampleArrival x1 x2 x3 => Sys2Proof.Machine.execSampleArrival x1 x2 x3 s
  | .sourceEdgesReturn x => Sys2Proof.Machine.execSourceEdgesReturn x s
  | .sourceEdgesCease x => Sys2Proof.Machine.execSourceEdgesCease x s
  | .kamrexResult x1 x2 => Sys2Proof.Machine.execKamrexResult x1 x2 s
  | .kamrexAbort x => Sys2Proof.Machine.execKamrexAbort x s
  | .kamrexMgmt x1 x2 => Sys2Proof.Machine.execKamrexMgmt x1 x2 s
  | .kamrexPlaneDown x => Sys2Proof.Machine.execKamrexPlaneDown x s
  | .collectiveDatagram x1 x2 x3 => Sys2Proof.Machine.execCollectiveDatagram x1 x2 x3 s
  | .traceEnable x1 x2 => Sys2Proof.Machine.execTraceEnable x1 x2 s
  | .iqtailWrite x1 x2 => Sys2Proof.Machine.execIqtailWrite x1 x2 s
  | .shootdown x1 x2 x3 => Sys2Proof.Machine.execShootdown x1 x2 x3 s
  | .linkDown x => Sys2Proof.Machine.execLinkDown x s
  | .partitionSetup x1 x2 x3 => Sys2Proof.Machine.execPartitionSetup x1 x2 x3 s
  | .xcidContextSetup x1 x2 => Sys2Proof.Machine.execXcidContextSetup x1 x2 s
  | .keyLoad x => Sys2Proof.Machine.execKeyLoad x s
  | .keyClear x => Sys2Proof.Machine.execKeyClear x s
  | .accessTableWrite x1 x2 x3 => Sys2Proof.Machine.execAccessTableWrite x1 x2 x3 s
  | .attestationRequest x => Sys2Proof.Machine.execAttestationRequest x s
  | .cxlHostAccess x => Sys2Proof.Machine.execCxlHostAccess x s
  | .ageingUpdate x1 x2 => Sys2Proof.Machine.execAgeingUpdate x1 x2 s
  | .debugHalt x => Sys2Proof.Machine.execDebugHalt x s
  | .debugStep x => Sys2Proof.Machine.execDebugStep x s
  | .debugStepg x => Sys2Proof.Machine.execDebugStepg x s
  | .debugResume x => Sys2Proof.Machine.execDebugResume x s
  | .debugRegisterWrite x1 x2 x3 => Sys2Proof.Machine.execDebugRegisterWrite x1 x2 x3 s
  | .hostPortTraining x1 x2 => Sys2Proof.Machine.execHostPortTraining x1 x2 s
  | .moduleReset => Sys2Proof.Machine.execModuleReset s
  | .ptcLockTimeout => Sys2Proof.Machine.execPtcLockTimeout s
  | .holdover => Sys2Proof.Machine.execHoldover s
  | .timingReferencePulse => Sys2Proof.Machine.execTimingReferencePulse s
  | .endTask => Sys2Proof.Machine.execEnd s
  | .uiret => Sys2Proof.Machine.execUiret s
  | .xbegin => Sys2Proof.Machine.execXbegin s
  | .xend => Sys2Proof.Machine.execXend s

end Sys2Proof.Machine
end

