-- ==== Sys2Proof/Machine/Micros.lean ====
section
/-! DEFINITION. Parts of rows that have an instant of their own (log 5). -/

namespace Sys2Proof.Machine

open Sys2Proof

/-- A channel's first command that nothing holds is started. -/
def State.kickChan (s : State) (c ch : Nat) : State :=
  match (s.core c).eng.chans.toArray.getD ch [] with
  | x :: _ => if !x.started && x.waits.isEmpty then s.postEv s.now 10 (.copyCommandStart c ch) else s
  | [] => s

/-- Contributions of collectives that have not been sent, each after a time of its own. -/
def State.kickColls (s : State) (c : Nat) : State :=
  ((s.core c).eng.colls.toList.flatten.filter (fun x => !x.sent)).foldl (fun s x =>
    if s.isDue (.ev (.collContribution x.inst c)) then s else s.postFree s.now 5 (.collContribution x.inst c)) s

/-- Engine work of a core that nothing holds any more is started; the engines of a suspended core start nothing (R65). -/
def State.kicked (s : State) (c : Nat) : State :=
  if (s.core c).seq.st = .suspend then s
  else
    let s1 := (List.range 4).foldl (fun s ch => s.kickChan c ch) s
    let s2 := (s1.amoGo c (s1.core c).eng.amos).kickColls c
    let s3 := (s2.core c).eng.misc.foldl (fun s m => s.sendMisc c m) s2
    (s3.core c).eng.slips.foldl (fun s r => s.slipSend c r) s3

/-- A part of a row: the accesses of issued slots are stores at rank 4 and loads at rank 7 (R206). -/
def State.micro (s : State) (rank : Nat) (m : Micro) : State :=
  match m with
  | .tileOps c _ => s.tileDue c (rank < 7)
  | .bringUp n => s.bringUp n
  | .stopBroadcast l => s.stopLaunch l
  | .tryPreempt g => s.tryPreempt g
  | .tryResume g => s.tryResume g
  | .count c ch f => s.count c ch f false 0
  | .semInc c e x => s.semArrive c e x
  | .phaseLoad c d => s.loadPhase c d
  | .kick c => s.kicked c
  | .frameLast c => s.frameLast c
  | .handlerHalt g => s.handlerHalt g
  | .lostFreeze c => s.lostFreeze c
  | .sampleEdge p => s.sampleEdge p s.now
  | .closeAll c => s.closeAll c
  | .scLeave c id => s.scLeave c id
  | .sendAcked l c id => s.sendAcked l c id

end Sys2Proof.Machine
end

