-- ==== Sys2Proof/Machine/Step.lean ====
section
/-! DEFINITION. One step: the next slot of the group that issues, its completion, or the next act that is due. -/

namespace Sys2Proof.Machine

open Sys2Proof

/-- A slot of the issuing group: decoded for its kind, and run or refused with its exception (R148). -/
def stepSlot (w : SlotWord) (rest : List SlotWord) (s : State) : Host.Outcome State Fault Refusal :=
  match decodeSlot (kindOf w.kind) w.word with
  | .ok i => exec i (s.popSlot w rest)
  | .bad e => .next ((s.popSlot w rest).badSlot e)

/-- What is due next: a row of the table, or a part of one. -/
def stepDue (d : Due) (s : State) : Host.Outcome State Fault Refusal :=
  match d.act with
  | .ev i => exec i s
  | .mi m => .next (s.micro d.rank m)

/-- One step of the package. With nothing due, time goes on by one reference edge (R27). -/
def step (s : State) : Host.Outcome State Fault Refusal :=
  if s.issue.active then
    match s.issue.slots with
    | w :: rest => stepSlot w rest s
    | [] => .next s.finishGroup
  else
    match s.agenda with
    | d :: rest => stepDue d (s.arrive d.t rest)
    | [] => .next s.edge

/-- The slot that a table word of nbits bits makes (log 6). -/
def slotOf (nbits w : Nat) : SlotWord :=
  match kindOfWord nbits w with
  | some k => ⟨k.num, w, 0⟩
  | none => ⟨if nbits = 64 then 5 else 0, w, 0⟩

/-- The machine with an instruction as the one slot of the group that issues, on core 0 (log 10). -/
def State.withFetchWord (s : State) (nbits w : Nat) : State := s.loadSlot (slotOf nbits w) (nbits / 8 + 2)

end Sys2Proof.Machine
end

