-- ==== Sys2Proof/Safety.lean ====
section
/-! DEFINITION. What counts as a safe run, and the terms in which claims are made: what an instruction leaves alone, what it leaves
in flight, where it stops at its own exception. -/

namespace Sys2Proof.Safety

open Sys2Proof Sys2Proof.Machine

/-! ### Safe runs -/

/-- The memory of the device is in its canonical form. -/
def Canonical (s : State) : Prop := Mem.wf s.mem = true

/-- A step that does not stop. -/
def Goes (s : State) : Prop := ∃ t, step s = .next t

/-- A state that k steps lead to, none of which stops. -/
def Reaches : Nat → State → State → Prop
  | 0, s, t => s = t
  | k + 1, s, t => ∃ u, step s = .next u ∧ Reaches k u t

/-- A state from which the next k steps do not stop. -/
def Safe (k : Nat) (s : State) : Prop := ∃ t, Reaches k s t

/-! ### What is left alone -/

/-- Everything outside one core and the agenda is as before, device memory and every other core with it; what was due is still
due. -/
structure OnlyCore (s t : State) (c : Nat) : Prop where
  now : t.now = s.now
  freeCtr : t.freeCtr = s.freeCtr
  issue : t.issue = s.issue
  pkg : t.pkg = s.pkg
  ctxs : t.ctxs = s.ctxs
  queues : t.queues = s.queues
  images : t.images = s.images
  launches : t.launches = s.launches
  regions : t.regions = s.regions
  gangs : t.gangs = s.gangs
  insts : t.insts = s.insts
  dies : t.dies = s.dies
  targets : t.targets = s.targets
  ports : t.ports = s.ports
  cross : t.cross = s.cross
  shoots : t.shoots = s.shoots
  mem : t.mem = s.mem
  nextKey : t.nextKey = s.nextKey
  others : ∀ d, d ≠ c → t.core d = s.core d
  due : ∀ e, e ∈ s.agenda → e ∈ t.agenda

/-- As OnlyCore, and the core itself keeps every register, flag, counter, mask, accumulator and tile-store byte: only what is in
flight differs, and the busy counts of its Tilth table (R72). -/
structure OnlyFlight (s t : State) (c : Nat) : Prop where
  apart : OnlyCore s t c
  kept : t.core c = { s.core c with
    fl := (t.core c).fl
    ct := { (s.core c).ct with tilth := (t.core c).ct.tilth } }

/-! ### What is left in flight (R159, R160) -/

/-- The write of an instruction of the issuing slot that becomes visible l cycles later. -/
def writes (s : State) (l : Nat) (dest : PDest) (val : PVal) : PWrite :=
  ⟨s.cyc s.ic + l, s.ik.fl.seq, s.issue.cur.kind, s.issue.cur.bundle, dest, val⟩

/-- The landing of the writes of a cycle is due at its beginning, and not before now. -/
def landsAt (s : State) (r : Nat) : Due :=
  ⟨Nat.max s.now (s.inst s.ic r), 3, .ev (.pendingWriteLand s.ic)⟩

/-- A state has, beside what another has in flight on its issuing core, these writes pending, each with its landing due, and these
accesses to the tile store to come, and its last issued tags follow the writes (R188); nothing else is different. -/
structure Adds (s t : State) (ps : List PWrite) (ops : List TOp) : Prop where
  only : OnlyFlight s t s.ic
  regs : (t.core s.ic).fl.regs = ps.foldl (fun l p => insertPW p l) s.ik.fl.regs
  tags : (t.core s.ic).fl.vtags = ps.foldl (fun m p => noteTag m p.dest p.val) s.ik.fl.vtags
  ops : (t.core s.ic).fl.ops = s.ik.fl.ops ++ ops
  frozen : (t.core s.ic).fl.frozen = s.ik.fl.frozen
  stopped : (t.core s.ic).fl.stopped = s.ik.fl.stopped
  seq : (t.core s.ic).fl.seq = s.ik.fl.seq
  lands : ∀ p ∈ ps, landsAt s p.due ∈ t.agenda

/-- An outcome is a next state that adds these writes and accesses and is otherwise as before. -/
def Issues (s : State) (o : Out) (ps : List PWrite) (ops : List TOp) : Prop := ∃ t, o = .next t ∧ Adds s t ps ops

/-- The pending writes of an s register: none for s0, whose writes are discarded (R159). -/
def sWrites (s : State) (d : Fin 32) (l : Nat) (x : W64) : List PWrite :=
  if d = 0 then [] else [writes s l (s.ik.sDest d) (.w x)]

/-- The pending flags of an instruction: none where it raises none (R112). -/
def flagWrites (s : State) (l : Nat) (f : Flags) : List PWrite :=
  if f = 0 then [] else [writes s l .flags (.w (BitVec.ofNat 64 f.toNat))]

/-- An instruction whose one effect is a value for an s register, l cycles later. -/
def SResult (s : State) (o : Out) (d : Fin 32) (l : Nat) (x : W64) : Prop := Issues s o (sWrites s d l x) []

/-- An instruction whose effect is a value for an s register with its flags. -/
def SFResult (s : State) (o : Out) (d : Fin 32) (l : Nat) (r : W64 × Flags) : Prop :=
  Issues s o (sWrites s d l r.1 ++ flagWrites s l r.2) []

/-- What a V form latches of its sources under H = 01, readable from the next cycle on (R189). -/
def latchWrites (s : State) (h : Hold) (a : VReg) (b : Option VReg) : List PWrite :=
  if h = .latch then
    writes s 1 (.la s.vslot) (.vr a (BitVec.allOnes 1024))
      :: b.toList.map (fun b => writes s 1 (.lb s.vslot) (.vr b (BitVec.allOnes 1024)))
  else []

/-- A V instruction that issues: these writes and accesses, and its slot occupied for n cycles (R186). -/
def VIssues (s : State) (o : Out) (n : Nat) (ps : List PWrite) (ops : List TOp) : Prop :=
  ∃ t, o = .next t ∧ Adds s t ps ops
    ∧ (t.core s.ic).fl.units.vU = s.ik.fl.units.vU.setIfInBounds s.vslot (s.cyc s.ic + n)

/-- A V instruction whose result, of tag t, is a value of f at each active element, l cycles later, with the flags of the active
elements; nothing is said of the inactive ones, which are not written (R188). -/
def VElems (s : State) (o : Out) (h : Hold) (a : VReg) (b : Option VReg) (vd : Fin 32) (m : Mask) (n l : Nat) (t : Tag)
    (f : Nat → Nat × Flags) : Prop :=
  ∃ d fl, VIssues s o n (latchWrites s h a b ++ writes s l (.v vd.val) (.vr (.plain t d) m) :: flagWrites s l fl) []
    ∧ (∀ e, e < 1024 → m.getLsbD e = true → d.getD e 0 = BitVec.ofNat 32 (f e).1)
    ∧ (∀ i, fl.getLsbD i = true ↔ ∃ e, e < 1024 ∧ m.getLsbD e = true ∧ (f e).2.getLsbD i = true)

/-! ### The cube (R211) -/

/-- A command that takes the pipe: it starts now, its retirement is due when its cycles are over, and of the core only the accumulators
and latches are as given, the unseen accumulators that a step leaves and the busy counts apart. -/
structure CubeTakes (s t : State) (p : PipeCmd) (acc : Vector Acc 8) (lat : Vector Latch 4) : Prop where
  apart : OnlyCore s t s.ic
  kept : t.core s.ic = { s.ik with
    cube := { s.ik.cube with acc := acc, lat := lat, pipe := some p, olds := (t.core s.ic).cube.olds }
    ct := { s.ik.ct with tilth := (t.core s.ic).ct.tilth } }
  start : p.start = s.cyc s.ic
  retires : (⟨Nat.max s.now (s.inst s.ic (p.start + p.len)), 4, .ev (.cubeStepRetire s.ic)⟩ : Due) ∈ t.agenda

/-! ### Where an instruction stops at its own exception (R144, R294) -/

/-- An outcome is the entry to the exception of a cause, in the slot that issues. -/
def Raises (s : State) (o : Out) (cause : Nat) (faddr : W64) : Prop :=
  o = .next (s.takeTrap s.ic ⟨cause, faddr, s.issue.cur.kind, false, none⟩ s.issue.base)

/-! ### Events -/

/-- An outcome is a next state of which something holds. -/
def Gives (o : Out) (P : State → Prop) : Prop := ∃ t, o = .next t ∧ P t

/-- An act is due at an instant; its rank within the instant is the model's own (log 5). -/
def DueAt (t : State) (u : Nat) (i : Instr) : Prop := ∃ r, (⟨u, r, .ev i⟩ : Due) ∈ t.agenda

/-- An act is due at an instant, or at once where a cycle of now began at it. -/
def DueBy (t : State) (u : Nat) (i : Instr) : Prop := DueAt t (Nat.max t.now u) i

/-- An act is due at some instant not before another: the delay is a free value (log 4). -/
def DueFrom (t : State) (n : Nat) (i : Instr) : Prop := ∃ u, n ≤ u ∧ DueAt t u i

/-- Only cores, the agenda and the next free value differ, and only the named cores, but for the bank cycles that a multicast store
claims at its members (R255, R85). -/
def OnlyCores (s t : State) (cs : List Nat) : Prop :=
  t = { s with cores := t.cores, agenda := t.agenda, freeCtr := t.freeCtr }
  ∧ ∀ d, d ∉ cs → t.core d = { s.core d with fl := { (s.core d).fl with claims := (t.core d).fl.claims } }

/-! ### Control (R145, R170) -/

/-- An outcome is a next state that differs in what the issuing group does at its end, and in nothing outside the issuing core. -/
def InGroup (s : State) (o : Out) (P : State → Prop) : Prop :=
  ∃ t, o = .next t ∧ OnlyCore { s with issue := t.issue } t s.ic ∧ P t

/-- An outcome is a committed transfer of control: NGP takes the target, and fetch goes there at the end of the group. -/
def Transfers (s : State) (o : Out) (target : W64) : Prop :=
  InGroup s o fun t => t.issue = { s.issue with target := some target }
    ∧ t.core s.ic = { s.ik with tr := { s.ik.tr with ngp := target } }

/-! ### Bits -/

/-- The low k bits of a number in reverse order. -/
def reversed (k n : Nat) : Nat := ((List.range k).map (fun i => if n.testBit i then 2 ^ (k - 1 - i) else 0)).sum

end Sys2Proof.Safety
end

