-- ==== Sys2Proof/Certificates/Slice0/Obligations.lean ====
section
/-! DEFINITION. The statements put to the provers. Each says of every state and every operand what the rules give; where a rule leaves a
value or a delay open, the statement holds whatever the free value is (log 4). -/

open Sys2Proof Sys2Proof.Machine Sys2Proof.Safety

/-! ### Scalar integers -/

/-- R163, the forms of latency 1 and, with latency 3, the multiplies but MULI (R162): the value that each writes, and that nothing else
is written; a write of s0 is discarded (R159). -/
def Obligations.IntegerForms : Prop := ∀ (s : State) (d a b c : Fin 32),
  let x := s.gs a
  let y := s.gs b
  SResult s (exec (.add d a b) s) d 1 (x + y)
  ∧ SResult s (exec (.sub d a b) s) d 1 (x - y)
  ∧ SResult s (exec (.and d a b) s) d 1 (x &&& y)
  ∧ SResult s (exec (.or d a b) s) d 1 (x ||| y)
  ∧ SResult s (exec (.xor d a b) s) d 1 (x ^^^ y)
  ∧ SResult s (exec (.shl d a b) s) d 1 (x <<< (y.toNat % 64))
  ∧ SResult s (exec (.shr d a b) s) d 1 (x >>> (y.toNat % 64))
  ∧ SResult s (exec (.sar d a b) s) d 1 (x.sshiftRight (y.toNat % 64))
  ∧ SResult s (exec (.min d a b) s) d 1 (if x.toInt ≤ y.toInt then x else y)
  ∧ SResult s (exec (.max d a b) s) d 1 (if x.toInt ≤ y.toInt then y else x)
  ∧ SResult s (exec (.minu d a b) s) d 1 (if x.toNat ≤ y.toNat then x else y)
  ∧ SResult s (exec (.maxu d a b) s) d 1 (if x.toNat ≤ y.toNat then y else x)
  ∧ SResult s (exec (.slt d a b) s) d 1 (if x.toInt < y.toInt then 1 else 0)
  ∧ SResult s (exec (.sltu d a b) s) d 1 (if x.toNat < y.toNat then 1 else 0)
  ∧ SResult s (exec (.seq d a b) s) d 1 (if x = y then 1 else 0)
  ∧ SResult s (exec (.sel d a b c) s) d 1 (if s.gs c ≠ 0 then x else y)
  ∧ SResult s (exec (.mul d a b) s) d 3 (BitVec.ofNat 64 (x.toNat * y.toNat % 2 ^ 64))
  ∧ SResult s (exec (.mulh d a b) s) d 3 (((x.signExtend 128) * (y.signExtend 128)).extractLsb' 64 64)
  ∧ SResult s (exec (.mulhu d a b) s) d 3 (((x.zeroExtend 128) * (y.zeroExtend 128)).extractLsb' 64 64)

/-- R163: the bit forms. CLZ and CTZ count the zeros before the first one bit, POPC the ones; BREV, EXTB and INSB place bits. -/
def Obligations.BitForms : Prop := ∀ (s : State) (d a b : Fin 32) (n : Fin 8),
  let x := s.gs a
  let y := s.gs b
  (∃ k ≤ 64, SResult s (exec (.clz d a) s) d 1 (BitVec.ofNat 64 k)
    ∧ (∀ i, i < k → x.getLsbD (63 - i) = false) ∧ (k < 64 → x.getLsbD (63 - k) = true))
  ∧ (∃ k ≤ 64, SResult s (exec (.ctz d a) s) d 1 (BitVec.ofNat 64 k)
    ∧ (∀ i, i < k → x.getLsbD i = false) ∧ (k < 64 → x.getLsbD k = true))
  ∧ SResult s (exec (.popc d a) s) d 1 (BitVec.ofNat 64 ((List.range 64).filter (fun i => x.getLsbD i)).length)
  ∧ (∃ v : W64, SResult s (exec (.brev d a) s) d 1 v ∧ ∀ i, i < 64 → v.getLsbD i = x.getLsbD (63 - i))
  ∧ (∃ v : W64, SResult s (exec (.extb d a n) s) d 1 v
    ∧ ∀ i, i < 64 → v.getLsbD i = (decide (i < 8) && x.getLsbD (8 * n.val + i)))
  ∧ (∃ v : W64, SResult s (exec (.insb d a b n) s) d 1 v
    ∧ ∀ i, i < 64 → v.getLsbD i =
        if 8 * n.val ≤ i ∧ i < 8 * n.val + 8 then y.getLsbD (i - 8 * n.val) else x.getLsbD i)

/-- R163 with the divide class of R162 and R113: with the divider of the slot free the quotient or the remainder is written 18 cycles
later and the divider is busy until then; a zero divisor gives all ones or the dividend, with DZ. With it occupied the slot raises
SLOT_BUSY. -/
def Obligations.DivideForms : Prop := ∀ (s : State) (d a b : Fin 32),
  let x := s.gs a
  let y := s.gs b
  let z := decide (y = 0)
  let forms : List (Instr × W64) :=
    [(.div d a b, if z then BitVec.allOnes 64 else BitVec.ofInt 64 (x.toInt.tdiv y.toInt)),
     (.divu d a b, if z then BitVec.allOnes 64 else x / y),
     (.rem d a b, if z then x else BitVec.ofInt 64 (x.toInt - y.toInt * x.toInt.tdiv y.toInt)),
     (.remu d a b, if z then x else x % y)]
  ∀ f ∈ forms,
    (s.divBusy = false → SFResult s (exec f.1 s) d 18 (f.2, if z then flDZ else 0)
      ∧ ∃ t, exec f.1 s = .next t ∧ (t.core s.ic).fl.units.divU =
          s.ik.fl.units.divU.setIfInBounds s.divSlot (s.cyc s.ic + 18))
    ∧ (s.divBusy = true → Raises s (exec f.1 s) 0x04 0)

/-- R164: the immediate forms, with their opcodes and fields; a shift amount of more than six bits raises ILLEGAL_FIELD, and MULI has
latency 3. -/
def Obligations.ImmediateForms : Prop := ∀ (s : State) (d a : Fin 32) (imm : BitVec 14) (n : Fin 64) (u : BitVec 19),
  let x := s.gs a
  SResult s (exec (.addi d a imm) s) d 1 (x + imm.signExtend 64)
  ∧ SResult s (exec (.andi d a imm) s) d 1 (x &&& imm.zeroExtend 64)
  ∧ SResult s (exec (.ori d a imm) s) d 1 (x ||| imm.zeroExtend 64)
  ∧ SResult s (exec (.xori d a imm) s) d 1 (x ^^^ imm.zeroExtend 64)
  ∧ SResult s (exec (.shli d a n) s) d 1 (x <<< n.val)
  ∧ SResult s (exec (.shri d a n) s) d 1 (x >>> n.val)
  ∧ SResult s (exec (.sari d a n) s) d 1 (x.sshiftRight n.val)
  ∧ SResult s (exec (.slti d a imm) s) d 1 (if x.toInt < (imm.signExtend 64).toInt then 1 else 0)
  ∧ SResult s (exec (.lui d u) s) d 1 (u.signExtend 64 * 2 ^ 14)
  ∧ SResult s (exec (.muli d a imm) s) d 3 (BitVec.ofInt 64 (x.toInt * (imm.signExtend 64).toInt))
  ∧ (let si := fun (op v : Nat) => decodeSlot .s0 (op * 2 ^ 24 + d.val * 2 ^ 19 + a.val * 2 ^ 14 + v)
    si 0x20 imm.toNat = .ok (.addi d a imm) ∧ si 0x21 imm.toNat = .ok (.andi d a imm) ∧ si 0x22 imm.toNat = .ok (.ori d a imm)
    ∧ si 0x23 imm.toNat = .ok (.xori d a imm) ∧ si 0x24 n.val = .ok (.shli d a n) ∧ si 0x25 n.val = .ok (.shri d a n)
    ∧ si 0x26 n.val = .ok (.sari d a n) ∧ si 0x27 imm.toNat = .ok (.slti d a imm) ∧ si 0x29 imm.toNat = .ok (.muli d a imm)
    ∧ decodeSlot .s0 (0x28 * 2 ^ 24 + d.val * 2 ^ 19 + u.toNat) = .ok (.lui d u)
    ∧ (64 ≤ imm.toNat → ∀ op ∈ [0x24, 0x25, 0x26], si op imm.toNat = .bad .illegalField))

/-! ### Scalar floating point -/

/-- R165 to R167: the low bits of the registers are the operands, the exact result is rounded once into the format, the upper bits are
clear, and the flags come with the result 4 cycles later. FMIN, FMAX and FCMP ignore the mode. -/
def Obligations.FloatForms : Prop := ∀ (s : State) (f : FFmt) (m : RMode) (c : FCond) (ty : IntTy) (st : CvtSrc) (d a b : Fin 32),
  let w := f.fmt.w
  let lo := fun (n : Fin 32) => (s.gs n).toNat % 2 ^ w
  let val := fun (n : Fin 32) => f.fmt.decode (lo n)
  let g := srG s.ik.sc.seed 0
  let ex := fun (r : FVal × Flags) => let q := f.fmt.round m g r.1; ((BitVec.ofNat 64 q.1 : W64), q.2 ||| r.2)
  let cmp := cmpVal c (val a) (val b)
  let int := roundRange m g (intRange ty).1 (intRange ty).2 (val a)
  let mm := fun (mx : Bool) => let q := f.fmt.minmax mx (lo a) (lo b); ((BitVec.ofNat 64 q.1 : W64), q.2)
  SFResult s (exec (.fadd f m d a b) s) d 4 (ex (addX m (val a) (val b)))
  ∧ SFResult s (exec (.fsub f m d a b) s) d 4 (ex (addX m (val a) (val b).neg))
  ∧ SFResult s (exec (.fmul f m d a b) s) d 4 (ex (mulX (val a) (val b)))
  ∧ SFResult s (exec (.ffma f m d a b) s) d 4 (ex (fmaX m (val a) (val b) (val d)))
  ∧ SFResult s (exec (.fmin f m d a b) s) d 4 (mm false)
  ∧ SFResult s (exec (.fmax f m d a b) s) d 4 (mm true)
  ∧ SFResult s (exec (.fcmp f m c d a b) s) d 4 (if cmp.1 then 1 else 0, cmp.2)
  ∧ SFResult s (exec (.fcvti f m ty d a) s) d 4 (BitVec.ofInt 64 int.1, int.2)
  ∧ SFResult s (exec (.fcvtf f m st d a) s) d 4
      (let q := cvtToFloat f.fmt m g st (s.gs a); (BitVec.ofNat 64 q.1, q.2))

/-- R111, R166, R167, R106: an operation on a NaN. Add, subtract, multiply and fused multiply-add give the canonical quiet NaN of the
format, with NV exactly when an operand is signalling, or for the fused form when the product is 0 × ∞. FMIN and FMAX give the other
operand, or the canonical NaN for two NaNs; EQ, LT and LE do not hold, NE and UN do, and LT and LE raise NV for any NaN; a conversion to
an integer gives 0 with NV. -/
def Obligations.NanResults : Prop := ∀ (f : FFmt) (m : RMode) (g a b d : Nat) (lo hi : Int),
  let x := f.fmt.decode a
  let y := f.fmt.decode b
  let z := f.fmt.decode d
  let nv := flIf (x.isSig || y.isSig) flNV
  let r : Nat × Flags := (f.fmt.nanCode, nv)
  let invalid := decide ((∃ n, x = .inf n) ∧ y.isZero = true ∨ x.isZero = true ∧ ∃ n, y = .inf n)
  f.fmt.nanCode = (match f with | .fp32 => 0x7FC00000 | .bf16 => 0x7FC0 | .fp16 => 0x7E00)
  ∧ (x.isNan = true ∨ y.isNan = true →
    f.fmt.add m g a b = r ∧ f.fmt.sub m g a b = r ∧ f.fmt.mul m g a b = r
    ∧ (∀ c ∈ [FCond.eq, .lt, .le], (cmpVal c x y).1 = false)
    ∧ (∀ c ∈ [FCond.ne, .un], (cmpVal c x y).1 = true)
    ∧ (∀ c ∈ [FCond.lt, .le], (cmpVal c x y).2 = flNV)
    ∧ ∀ c ∈ [FCond.eq, .ne, .un], (cmpVal c x y).2 = nv)
  ∧ (x.isNan = true ∨ y.isNan = true ∨ z.isNan = true →
    f.fmt.fma m g a b d = (f.fmt.nanCode, flIf (x.isSig || y.isSig || z.isSig || invalid) flNV))
  ∧ (∀ mx, (x.isNan = true → y.isNan = true → f.fmt.minmax mx a b = r)
    ∧ (x.isNan = true → y.isNan = false → f.fmt.minmax mx a b = (b % 2 ^ f.fmt.w, nv))
    ∧ (x.isNan = false → y.isNan = true → f.fmt.minmax mx a b = (a % 2 ^ f.fmt.w, nv)))
  ∧ (x.isNan = true → roundRange m g lo hi x = (0, flNV))

/-! ### Scalar access to the tile store -/

/-- R168, R169: an SLD or SST that passes its checks takes its bank cycle, and nothing else changes at issue: SLD's write becomes visible
at t + 5 and is filled in bank cycle t + 1, and SST commits in cycle t + 2 the bytes of its element. The checks are made in their order,
and the first that fails is raised in the slot. -/
def Obligations.TileAccess : Prop := ∀ (s : State) (d : Fin 32) (h : Fin 256) (a b : Fin 32),
  let k := s.ik
  let e := k.vEnt h.val
  let i := (s.gs a).toNat
  let view : W64 := BitVec.ofNat 64 h.val
  let op := fun (l : Nat) (act : TAct) => (⟨s.cyc s.ic + l, k.fl.seq, s.issue.cur.kind, s.issue.cur.bundle, act⟩ : TOp)
  let ld := exec (.sld d h a) s
  let st := exec (.sst h a b) s
  let chain := fun (o : Out) (wr : Bool) (r : Nat) (done : Prop) =>
    (k.viewOk h.val = false → Raises s o 0x08 view)
    ∧ (k.viewOk h.val = true →
      (entTag e = .none ∨ entTag e = .sn4 → Raises s o 0x07 (BitVec.ofNat 64 (entTag e).code))
      ∧ (entTag e ≠ .none ∧ entTag e ≠ .sn4 →
        (k.permits 0 h.val wr = false → Raises s o 0x0C (BitVec.ofNat 64 (h.val * 2 ^ 8 + if wr then 2 ^ 16 else 0)))
        ∧ (k.permits 0 h.val wr = true →
          (entRows e * entCols e ≤ i → Raises s o 0x09 view)
          ∧ (i < entRows e * entCols e →
            (k.bankBusy (elemUse e r i) = true → Raises s o 0x04 0) ∧ (k.bankBusy (elemUse e r i) = false → done)))))
  chain ld false (s.cyc s.ic + 1) (Issues s ld (sWrites s d 5 0) [op 1 (.load h.val e (.sld i))])
  ∧ chain st true (s.cyc s.ic + 2)
      (Issues s st [] [op 2 (.commit h.val (k.vIdx h.val) e (entPut e i (s.gs b).toNat))])

/-- R168, R204, the reads of SLD, VLD, VLDB and VLDX in their bank cycles: the pending write of the load's order takes what is read, a
scalar sign-extended for INT32, INT16 and INT8, a block with its scale bytes, a row of the indexed form; no register and no byte of a
memory changes. -/
def Obligations.TileLoads : Prop := ∀ (s : State) (c h q kind due : Nat) (e : TEntry) (pc : W64),
  let k := s.core c
  let eb := entHalf e / 2
  let read := fun (a : LoadKind) (f : PVal → PVal → Prop) =>
    let t := s.tileAct c ⟨due, q, kind, pc, .load h e a⟩
    OnlyFlight s t c ∧ (t.core c).fl.ops = k.fl.ops ∧ (t.core c).fl.seq = k.fl.seq
      ∧ List.Forall₂ (fun p p' => if p.seq = q then f p.val p'.val ∧ { p with val := p'.val } = p' else p' = p)
          k.fl.regs (t.core c).fl.regs
  let block := fun (a stride : Nat) (v w : PVal) => ∀ x m, v = .vr x m → ∃ y, w = .vr y m
    ∧ y.tag = x.tag ∧ y.sc = x.sc ∧ y.teo = x.teo
    ∧ (∀ i j, i < 16 → j < 64 → y.cell (64 * i + j) = BitVec.ofNat 32 (k.elem e (a + i * stride + j)))
    ∧ (entScaled e = true → ∀ i b, i < 16 → b < 2 →
        y.scale (64 * i + 32 * b) = k.imgByte e (entScaleAt e (a + i * stride + 32 * b)))
  (∀ i, entEb e ≠ 0 → read (.sld i) fun _ w => w = .w (
    let raw := k.imgNum e (i * eb) eb
    if entTag e = .int32 ∨ entTag e = .int16 ∨ entTag e = .int8
    then BitVec.signExtend 64 (BitVec.ofNat (entTag e).bits raw) else BitVec.ofNat 64 raw))
  ∧ (∀ a, read (.vld a) (block a (entCols e)) ∧ read (.vldb a) (block a 0))
  ∧ (∀ r idx, r < 16 → read (.vldx r idx) fun v w => ∀ x m, v = .vr x m → ∃ y, w = .vr y m ∧ y.tag = x.tag
    ∧ (∀ j, j < 64 → m.getLsbD (64 * r + j) = true → y.cell (64 * r + j) = BitVec.ofNat 32 (k.elem e (idx.getD j 0)))
    ∧ (∀ i j, i < 16 → i ≠ r → j < 64 → y.cell (64 * i + j) = x.cell (64 * i + j)))

/-- R168 and R84, the commit of a store: what is written to an element is read back from it, and every other byte of the tile store reads
as before. The bytes written are those at entByte of the element's own offsets. -/
def Obligations.TileStoreCommit : Prop := ∀ (k : Core) (e : TEntry) (i code : Nat),
  let eb := entHalf e / 2
  let t := k.store e (entPut e i code)
  entEb e ≠ 0 →
    t.elem e i = code % 2 ^ (8 * eb)
    ∧ (∀ a, (∀ j, j < eb → a ≠ entByte e (i * eb + j)) → Mem.read t.tile.mem a = Mem.read k.tile.mem a)
    ∧ t = { k with tile := { k.tile with mem := t.tile.mem } }
    ∧ (Mem.wf k.tile.mem = true → Mem.wf t.tile.mem = true)

/-! ### Control -/

/-- R170, R145: a branch whose comparison holds is a transfer of control to bundle + 2 × off14, and one whose comparison does not hold
changes nothing. JMP and JR transfer control; JAL also writes s23 with the address after its group, visible at t + 1. -/
def Obligations.ControlTransfers : Prop := ∀ (s : State) (a b : Fin 32) (off : BitVec 14) (far : BitVec 24),
  let x := s.gs a
  let y := s.gs b
  let near := s.issue.cur.bundle + 2 * off.signExtend 64
  let target := s.issue.cur.bundle + 2 * far.signExtend 64
  let forms : List (Instr × Bool) :=
    [(.beq a b off, x = y), (.bne a b off, x ≠ y), (.blt a b off, x.toInt < y.toInt), (.bge a b off, y.toInt ≤ x.toInt),
     (.bltu a b off, x.toNat < y.toNat), (.bgeu a b off, y.toNat ≤ x.toNat)]
  (∀ f ∈ forms, if f.2 then Transfers s (exec f.1 s) near else exec f.1 s = .next s)
  ∧ Transfers s (exec (.jmp far) s) target
  ∧ Transfers s (exec (.jr a) s) (s.gs a)
  ∧ InGroup s (exec (.jal far) s) fun t => t.issue = { s.issue with target := some target }
      ∧ t.core s.ic = { s.ik with
          tr := { s.ik.tr with ngp := target }
          fl := { s.ik.fl with regs := insertPW (writes s 1 (.s 23) (.w s.issue.next)) s.ik.fl.regs } }
      ∧ landsAt s (s.cyc s.ic + 1) ∈ t.agenda

/-- R171: LOOP raises ILLEGAL_FIELD inside a loop or for an end within its own group; a count of 0 skips the body; any other count arms
the loop from the first byte after the group up to the label. At the end of a group whose last byte lies at LE - 1 with LC not 0, a
transfer of the group is taken with LC unchanged; else fetch goes on at LS with LC one less while LC > 1, and at LE with LC 0 after the
last pass, and NGP takes where it goes on (R145). -/
def Obligations.LoopRule : Prop := ∀ (s : State) (a : Fin 32) (off : BitVec 14) (k : Core) (g : Issue),
  let target := s.issue.cur.bundle + 2 * off.signExtend 64
  let n := s.gs a
  let o := exec (.loop a off) s
  (s.ik.sc.lc ≠ 0 ∨ target.toNat < s.issue.next.toNat → Raises s o 0x03 s.image)
  ∧ (s.ik.sc.lc = 0 → s.issue.next.toNat ≤ target.toNat →
    (n = 0 → Transfers s o target)
    ∧ (n ≠ 0 → InGroup s o fun t => t.issue = s.issue
      ∧ t.core s.ic = { s.ik with sc := { s.ik.sc with lc := n, ls := s.issue.next, le := target } }))
  ∧ (∀ t, g.target = some t → k.follow g = (t, k))
  ∧ (g.target = none → g.next = k.sc.le → k.sc.lc ≠ 0 →
    (1 < k.sc.lc.toNat → k.follow g =
      (k.sc.ls, { k with sc := { k.sc with lc := k.sc.lc - 1 }, tr := { k.tr with ngp := k.sc.ls } }))
    ∧ (k.sc.lc = 1 → k.follow g = (k.sc.le, { k with sc := { k.sc with lc := 0 }, tr := { k.tr with ngp := k.sc.le } })))
  ∧ (g.target = none → (g.next ≠ k.sc.le ∨ k.sc.lc = 0) → k.follow g = (g.next, k))
  ∧ (∀ b : Fin 32, decodeSlot .s0 (0x59 * 2 ^ 24 + a.val * 2 ^ 19 + b.val * 2 ^ 14 + off.toNat)
    = if b = 0 then .ok (.loop a off) else .bad .illegalField)

/-- R172, R174, R176: END (with LC := 0), UIRET and RETT act at the end of their group, UIRET as a transfer of control to where the
handler's window was entered (R145); each raises the cause that the rule names where it is not allowed. -/
def Obligations.GroupEnders : Prop := ∀ (s : State) (a : Fin 32),
  (s.ik.inui = true → Raises s (exec .endTask s) 0x02 s.image)
  ∧ (s.ik.inui = false → InGroup s (exec .endTask s) fun t =>
      t.issue = { s.issue with ends := true } ∧ t.core s.ic = { s.ik with sc := { s.ik.sc with lc := 0 } })
  ∧ (s.ik.inui = false ∨ s.ik.priv = true → Raises s (exec .uiret s) 0x02 s.image)
  ∧ (s.ik.inui = true → s.ik.priv = false → InGroup s (exec .uiret s) fun t =>
      t.issue = { s.issue with target := some s.ik.ui.ret, uiret := true }
      ∧ t.core s.ic = { s.ik with tr := { s.ik.tr with ngp := s.ik.ui.ret } })
  ∧ (s.ik.priv = false → Raises s (exec (.rett a) s) 0x18 s.image)
  ∧ (s.ik.priv = true →
      exec (.rett a) s = .next { s with issue := { s.issue with back := some (s.gs a, s.issue.cur.bundle) } })

/-- R174, R69: UIWIN n opens a window over the cycles t + 1 to t + n, at whose end its group is left; in a user-interrupt handler (R174)
or at supervisor privilege (R295) it raises ILLEGAL_OP. -/
def Obligations.UserWindowOpens : Prop := ∀ (s : State) (n : BitVec 14),
  (s.ik.inui = true ∨ s.ik.priv = true → Raises s (exec (.uiwin n) s) 0x02 s.image)
  ∧ (s.ik.inui = false → s.ik.priv = false → InGroup s (exec (.uiwin n) s) fun t =>
      t.issue = { s.issue with uiwin := some n.toNat }
      ∧ t.core s.ic = { s.ik with ui := { s.ik.ui with
          win := some (s.cyc s.ic + n.toNat), opened := s.now, pc := s.issue.cur.bundle, overrun := false } }
      ∧ (⟨Nat.max s.now (s.inst s.ic (s.cyc s.ic + 1)), 12, .ev (.userInterrupt s.ic)⟩ : Due) ∈ t.agenda
      ∧ (⟨Nat.max s.now (s.inst s.ic (s.cyc s.ic + n.toNat + 1)), 8, .ev (.uiwinClose s.ic)⟩ : Due) ∈ t.agenda)

/-- R64: PHASE of a descriptor that is not installed raises ILLEGAL_FIELD, one whose effective sets overlap, with what its own group
carries into the new phase and what commits in its cycle among them (R270, log 31), raises RW_OVERLAP with SLOTRES 0; any other governs
from the next cycle on. -/
def Obligations.PhaseChanges : Prop := ∀ (s : State) (n : BitVec 14),
  (AMap.get? s.ik.prog.descs n.toNat = none → Raises s (exec (.phase n) s) 0x03 s.image)
  ∧ (∀ p f, AMap.get? s.ik.prog.descs n.toNat = some p → s.ik.overlap p s.groupCarries = some f →
      exec (.phase n) s = .next (s.takeTrap s.ic ⟨0x0B, f, 0, false, none⟩ s.issue.base))
  ∧ (∀ p, AMap.get? s.ik.prog.descs n.toNat = some p → s.ik.overlap p s.groupCarries = none →
      ∃ t, exec (.phase n) s = .next t ∧ t.mem = s.mem
        ∧ (⟨Nat.max s.now (s.inst s.ic (s.cyc s.ic + 1)), 1, .mi (.phaseLoad s.ic n.toNat)⟩ : Due) ∈ t.agenda)
  ∧ (∀ c p, AMap.get? (s.core c).prog.descs n.toNat = some p →
      ((s.loadPhase c n.toNat).core c).prog.phase = some (n.toNat, p))

/-- R61, R173: a CHK whose earlier completions all ended without a fault passes without effect when the count has reached n, and raises
CHK_FAIL with the channel and the counter when it has not; a completion's fault comes first, deferred, and is raised once; which
completions a CHK with n = 0 looks at is log 36's reading. Only channels 0 to 10 exist. -/
def Obligations.CheckForms : Prop := ∀ (s : State) (a : Fin 32) (ch : Fin 16),
  let n : W32 := (s.gs a).truncate 32
  let cc := s.ik.ct.cc[ch]
  let count := cc - s.ik.ccBase ch.val
  (s.ik.deferred ch.val n = none → n.toNat ≤ count.toNat → exec (.chk a ch) s = .next s)
  ∧ (s.ik.deferred ch.val n = none → count.toNat < n.toNat →
      Raises s (exec (.chk a ch) s) 0x06 (BitVec.ofNat 64 (ch.val + cc.toNat * 2 ^ 32)))
  ∧ (∀ u, s.ik.deferred ch.val n = some u →
      let s1 := s.modCore s.ic (fun k => { k with ct := { k.ct with unraised := k.ct.unraised.erase u } })
      exec (.chk a ch) s = .next (s1.takeTrap s.ic ⟨u.code, u.faddr, 0, false, some ch.val⟩ s.issue.base))
  ∧ (∀ d v : Nat, d < 32 → v < 2 ^ 10 → decodeSlot .s0 (0x5B * 2 ^ 24 + d * 2 ^ 19 + a.val * 2 ^ 14 + v * 2 ^ 4 + ch.val)
    = if d = 0 ∧ v = 0 ∧ ch.val ≤ 10 then .ok (.chk a ch) else .bad .illegalField)

/-! ### Exceptions -/

/-- R294: a fault at user privilege enters the handler. CAUSE, FADDR, EPC and SLOTRES are set, STEP goes to PSTEP and is cleared, PRIV is
set and TIMED cleared and the rest of STATUS is kept; pending writes freeze; the first group of the handler is reached at SVEC in the
next cycle; the registers of the core, its tile store and device memory are as they were, and so are its engines, behind whose records
the fault's own may wait (R291). -/
def Obligations.TrapEntry : Prop := ∀ (s : State) (c : Nat) (f : FaultInfo) (epc : W64),
  let k := s.core c
  let t := s.takeTrap c f epc
  let u := t.core c
  k.priv = false → (k.dbg.attach = false ∨ f.code ≠ 0x17) → f.code < 256 → f.slotres < 16 → (∀ ch ∈ f.defer, ch < 16) →
    getF u.tr.cause 0 8 = f.code ∧ getB u.tr.cause 8 = f.straddle ∧ getB u.tr.cause 9 = k.stepBit
    ∧ getB u.tr.cause 14 = f.defer.isSome ∧ getF u.tr.cause 10 4 = f.defer.getD 0
    ∧ u.tr.faddr = f.faddr ∧ u.tr.epc = epc
    ∧ getF u.tr.status 0 4 = f.slotres ∧ u.priv = true ∧ u.timed = false ∧ u.stepBit = false
    ∧ (∀ i, i ≠ 8 → 6 ≤ i → getB u.tr.status i = getB k.tr.status i)
    ∧ u.fl.regs = [] ∧ u.fl.frozen = k.fl.frozen ++ k.fl.regs.map (fun p => { p with due := p.due - (s.cyc c + 1) })
    ∧ u.seq.st = .trap ∧ u.seq.pc = k.tr.svec ∧ u.seq.reach = s.cyc c + 1 ∧ u.seq.armed = true ∧ u.seq.counting = false
    ∧ u.tr.svec = k.tr.svec ∧ u.tr.ssp = k.tr.ssp ∧ u.tr.cause2 = k.tr.cause2 ∧ u.tr.faddr2 = k.tr.faddr2
    ∧ u.sc = k.sc ∧ u.vec = k.vec ∧ u.cube = k.cube ∧ u.tile = k.tile ∧ u.sub = k.sub
    ∧ (∃ ms, u.eng = { k.eng with misc := k.eng.misc ++ ms, nextId := u.eng.nextId } ∧ ∀ m ∈ ms, m.record.isSome = true ∧ m.hw = true)
    ∧ t.issue.active = false ∧ t.mem = s.mem

/-- R67: a fault in a timed task halts its running gang Dmax + 16 cycles after the cycle of the fault. -/
def Obligations.TimedFaultHaltsGang : Prop := ∀ (s : State) (c g : Nat) (x : Gang) (f : FaultInfo) (epc : W64),
  let k := s.core c
  k.priv = false → k.timed = true → (k.dbg.attach = false ∨ f.code ≠ 0x17) → s.gangOf c = some (g, x) → x.st = .running →
    ∃ y, AMap.get? (s.takeTrap c f epc).gangs g = some y ∧ y.st = .halting ∧ c ∈ y.trapped
      ∧ y.haltT = s.inst c (s.cyc c) + (s.dmax x.cores + 16) * tbCycle
      ∧ (⟨Nat.max s.now y.haltT, 8, .ev (.gangHalt g)⟩ : Due) ∈ (s.takeTrap c f epc).agenda

/-- R299: a fault at supervisor privilege is a double fault: CAUSE, FADDR, EPC, SLOTRES and TNGP keep their values, CAUSE2 and FADDR2
take the second fault, marked EARLY before the handler has read all three, and the core is HALTED_DF. -/
def Obligations.DoubleFault : Prop := ∀ (s : State) (c : Nat) (f : FaultInfo) (epc : W64),
  let k := s.core c
  let u := (s.takeTrap c f epc).core c
  k.priv = true → (k.dbg.attach = false ∨ f.code ≠ 0x17) → f.code < 256 →
    u.tr.cause = k.tr.cause ∧ u.tr.faddr = k.tr.faddr ∧ u.tr.epc = k.tr.epc ∧ u.tr.status = k.tr.status ∧ u.tr.tngp = k.tr.tngp
    ∧ getF u.tr.cause2 0 8 = f.code ∧ u.tr.faddr2 = f.faddr
    ∧ getB u.tr.cause2 15 = !(k.tr.rdCause && k.tr.rdFaddr && k.tr.rdEpc)
    ∧ u.seq.st = .haltedDf ∧ u.seq.armed = false ∧ u.fl.regs = []

/-- R175: TRAP and BKPT at user privilege take their exception with FADDR the code, EPC the group and SLOTRES 1. -/
def Obligations.SoftwareTraps : Prop := ∀ (s : State) (code : BitVec 14),
  let entry := fun (cause : Nat) (o : Out) => ∃ t, o = .next t
    ∧ getF (t.core s.ic).tr.cause 0 8 = cause ∧ (t.core s.ic).tr.faddr = code.zeroExtend 64
    ∧ (t.core s.ic).tr.epc = s.issue.base ∧ getF (t.core s.ic).tr.status 0 4 = 1
    ∧ (t.core s.ic).priv = true ∧ (t.core s.ic).seq.pc = s.ik.tr.svec
  s.ik.priv = false →
    entry 0x16 (exec (.trap code) s) ∧ (s.ik.dbg.attach = false → entry 0x17 (exec (.bkpt code) s))

/-! ### Landing -/

/-- R159, R160, R185: at the beginning of a cycle the pending writes due by then land and are no longer pending; those that stay are as
they were, but that a pending MTS to STATUS takes the flags raised (R112). Each s and a register
holds the last of the writes to it in issue order, and one with no write due holds what it held; s0 is never written. Nothing outside the
core changes, and no byte of its tile store. s0 and k0 read as their constants whatever they hold, and s24 to s31 are the shadow copies
while INUI is set. -/
def Obligations.WritesLand : Prop := ∀ (s : State) (c : Nat),
  let k := s.core c
  let due := k.fl.regs.filter (fun p => p.due ≤ s.cyc c)
  let last := fun (d : PDest) (old : W64) => (due.filterMap (fun p =>
    if p.dest = d then (match p.val with | .w x => some x | _ => none) else none)).getLast?.getD old
  let raised : Flags := (due.filterMap (fun p => match p.dest, p.val with
    | .flags, .w x => some (x.truncate 6)
    | _, _ => none)).foldl (· ||| ·) 0
  (∃ t, exec (.pendingWriteLand c) s = .next t ∧ OnlyCore s t c
    ∧ (t.core c).fl.regs = (k.fl.regs.filter (fun p => s.cyc c < p.due)).map (fun p => p.withFlags raised)
    ∧ (∀ n : Fin 32, n ≠ 0 → (t.core c).sc.s[n] = last (.s n.val) k.sc.s[n])
    ∧ (t.core c).sc.s[0] = k.sc.s[0]
    ∧ (∀ n : Fin 16, (t.core c).sc.a[n] = (last (.a n.val) (k.sc.a[n].zeroExtend 64)).truncate 32)
    ∧ (t.core c).tile = k.tile ∧ (t.core c).eng = k.eng ∧ (t.core c).cube.acc = k.cube.acc)
  ∧ k.rs 0 = 0 ∧ k.rk 0 = BitVec.allOnes 1024
  ∧ (∀ n : Fin 8, k.inui = true → k.rs ⟨24 + n.val, by omega⟩ = k.sc.sh[n])
  ∧ (∀ n : Fin 32, n ≠ 0 → (k.inui = false ∨ n.val < 24) → k.rs n = k.sc.s[n])

/-! ### System registers and handles -/

/-- R177, R178: what MFS reads of every register, visible at t + 1, and RDFC. A supervisor register is read at supervisor privilege
alone; at user privilege MFS raises PRIV. A read of CAUSE, FADDR or EPC is noted for EARLY (R299), and changes nothing else. That SLOTMAP
reads the group that stands at EPC when MFS reads it, and a free value where it cannot be fetched, is the model's choice (log 25). -/
def Obligations.SystemReads : Prop := ∀ (s : State) (d : Fin 32) (n : Fin 16),
  let k := s.ik
  let user : List (SysReg × W64) :=
    [(.status, k.tr.status), (.uivec, k.sc.uivec), (.ngp, if k.priv then k.tr.tngp else k.tr.ngp),
     (.cif, (s.cifNow s.ic).zeroExtend 64), (.fn, k.seq.fn.zeroExtend 64), (.flen, BitVec.ofNat 64 (s.frameLen k)), (.gm, k.ct.gm),
     (.coreid, BitVec.ofNat 64 s.ic), (.launchid, k.ct.launchid.zeroExtend 64), (.seed, k.sc.seed), (.lc, k.sc.lc), (.ls, k.sc.ls),
     (.le, k.sc.le), (.cc n, k.ct.cc[n].zeroExtend 64), (.dcr n, k.ct.dcr[n]), (.wrap n, k.sc.wrap[n].zeroExtend 64)]
  let supervisor : List (SysReg × W64) :=
    [(.cause, k.tr.cause), (.faddr, k.tr.faddr), (.epc, k.tr.epc), (.cause2, k.tr.cause2), (.faddr2, k.tr.faddr2),
     (.svec, k.tr.svec), (.ssp, k.tr.ssp), (.slotmap, (s.slotmap s.ic).zeroExtend 64)]
  (∀ r ∈ user, SResult s (exec (.mfs d r.1) s) d 1 r.2)
  ∧ SResult s (exec (.rdfc d) s) d 1 (k.seq.fn.truncate 32 ++ s.cifNow s.ic)
  ∧ ∀ r ∈ supervisor,
    (k.priv = false → Raises s (exec (.mfs d r.1) s) 0x18 s.image)
    ∧ (k.priv = true → InGroup (if r.1 = .slotmap then s.drawn else s) (exec (.mfs d r.1) s) fun t => t.issue = s.issue
      ∧ (t.core s.ic).fl.regs = (sWrites s d 1 r.2).foldl (fun l p => insertPW p l) k.fl.regs
      ∧ t.core s.ic = { k with
          fl := { k.fl with regs := (t.core s.ic).fl.regs }
          tr := { k.tr with
            rdCause := k.tr.rdCause || r.1 = .cause
            rdFaddr := k.tr.rdFaddr || r.1 = .faddr
            rdEpc := k.tr.rdEpc || r.1 = .epc } })

/-- R177, R178: MTS of a register with write access is a pending write for cycle t + 1; the flags raised in the cycle of an MTS to STATUS
are in what it writes (R112). The checks come first: PRIV for a supervisor register at user privilege, then ILLEGAL_FIELD for a register
with no write access. -/
def Obligations.SystemWrites : Prop := ∀ (s : State) (a : Fin 32) (n : Fin 16),
  let k := s.ik
  let x := s.gs a
  let writes1 := fun (r : SysReg) (v : W64) => Issues s (exec (.mts r a) s) [writes s 1 (.sys r) (.w v)] []
  (∀ r ∈ ([.uivec, .seed, .lc, .ls, .le, .wrap n] : List SysReg), writes1 r x)
  ∧ writes1 .status (setB x 63 k.priv ||| flagBits (k.flagsIn (s.cyc s.ic)))
  ∧ (k.priv = true → ∀ r ∈ ([.cause, .faddr, .epc, .svec, .ssp] : List SysReg), writes1 r x)
  ∧ (k.priv = false → ∀ r ∈ ([.cause, .faddr, .epc, .cause2, .faddr2, .svec, .ssp, .slotmap] : List SysReg),
      Raises s (exec (.mts r a) s) 0x18 s.image)
  ∧ (k.priv = true → ∀ r ∈ ([.cause2, .faddr2, .slotmap] : List SysReg), Raises s (exec (.mts r a) s) 0x03 s.image)
  ∧ (∀ r ∈ ([.ngp, .cif, .fn, .flen, .gm, .coreid, .launchid, .cc n, .dcr n] : List SysReg),
      Raises s (exec (.mts r a) s) 0x03 s.image)

/-- R179: what a write of STATUS changes when it lands: the sticky flags and UIE; STEP and SLOTRES only when it was made at supervisor
privilege, with 8 to 14 stored as 15 (R296); every other bit is kept. -/
def Obligations.StatusWriteLands : Prop := ∀ (k : Core) (x : W64) (p : PWrite),
  p.dest = .sys .status → p.val = .w x →
    let z := (k.land p).tr.status
    let sup := getB x 63
    k.land p = { k with tr := { k.tr with status := z } }
    ∧ (∀ i, (16 ≤ i ∧ i ≤ 21) ∨ i = 6 → getB z i = getB x i)
    ∧ getB z 8 = (if sup then getB x 8 else getB k.tr.status 8)
    ∧ getF z 0 4 = (if sup then (if 8 ≤ getF x 0 4 then 15 else getF x 0 4) else getF k.tr.status 0 4)
    ∧ (∀ i, i = 4 ∨ i = 5 ∨ i = 7 ∨ (9 ≤ i ∧ i ≤ 15) ∨ 22 ≤ i → getB z i = getB k.tr.status i)

/-- R180: HALLOC that passes its checks makes entry s[d] valid with the fields of a and b and its old GEN, and binds the view to it;
otherwise ILLEGAL_FIELD. Bits [63:55] of a are ignored, and f[8] must be zero. -/
def Obligations.HandleAllocate : Prop := ∀ (s : State) (h : Fin 256) (d a b : Fin 32),
  let k := s.ik
  let i := (s.gs d).toNat
  let old := k.ent i
  let e := formEntry old (s.gs a) (s.gs b)
  let ok := i < 256 ∧ getF (s.gs a) 0 14 = 0 ∧ getF (s.gs b) 22 42 = 0 ∧ entV old = false ∧ entLegal k.tile.ents.toList e = true
  let word := 0x65 * 2 ^ 24 + d.val * 2 ^ 19 + a.val * 2 ^ 14 + b.val * 2 ^ 9 + h.val
  decodeSlot .s0 word = .ok (.halloc h d a b) ∧ decodeSlot .s0 (word + 2 ^ 8) = .bad .illegalField
  ∧ (ok → InGroup s (exec (.halloc h d a b) s) fun t => t.issue = s.issue
    ∧ t.core s.ic = { k with tile := { k.tile with
        ents := k.tile.ents.setIfInBounds i e
        views := k.tile.views.set h.val ⟨true, BitVec.ofNat 8 (entGen old), BitVec.ofNat 8 i⟩ } }
    ∧ entV e = true ∧ entGen e = entGen old ∧ (∀ j, j < 55 → getB e.w0 j = getB (s.gs a) j) ∧ e.w1 = s.gs b)
  ∧ (¬ ok → Raises s (exec (.halloc h d a b) s) 0x03 s.image)

/-- R181: HFREE of a bound view whose entry nothing holds clears V and advances GEN; a stale view and a busy entry are raised. HINFO
reads a word of the entry. -/
def Obligations.HandleFree : Prop := ∀ (s : State) (d : Fin 32) (h : Fin 256),
  let k := s.ik
  let i := k.vIdx h.val
  (k.viewOk h.val = false → Raises s (exec (.hfree h) s) 0x08 (BitVec.ofNat 64 h.val)
    ∧ ∀ w, Raises s (exec (.hinfo d h w) s) 0x08 (BitVec.ofNat 64 h.val))
  ∧ (k.viewOk h.val = true → s.entryBusy s.ic i = true → Raises s (exec (.hfree h) s) 0x0A (BitVec.ofNat 64 h.val))
  ∧ (k.viewOk h.val = true → s.entryBusy s.ic i = false → InGroup s (exec (.hfree h) s) fun t => t.issue = s.issue
    ∧ ∃ e : TEntry, entV e = false ∧ entGen e = (entGen (k.ent i) + 1) % 256 ∧ e.w1 = (k.ent i).w1
      ∧ (∀ j, j < 55 → getB e.w0 j = getB (k.ent i).w0 j)
      ∧ t.core s.ic = { k with tile := { k.tile with ents := k.tile.ents.setIfInBounds i e } })
  ∧ (k.viewOk h.val = true →
      SResult s (exec (.hinfo d h 0) s) d 1 (k.vEnt h.val).w0 ∧ SResult s (exec (.hinfo d h 1) s) d 1 (k.vEnt h.val).w1)

/-! ### Address registers -/

/-- R182, R183: the forms of the A slot but AINC and AINC2, visible at t + 1. -/
def Obligations.AddressForms : Prop := ∀ (s : State) (ad : Fin 16) (d : Fin 32) (imm : BitVec 16),
  let x := s.ik.ra ad
  let y := s.gs d
  let wrA := fun (o : Out) (v : W32) => Issues s o [writes s 1 (.a ad.val) (.w (v.zeroExtend 64))] []
  let len := getF y 24 24
  let bad := getF y 62 2 ≠ 0 ∧ len = 0 ∨ getF y 62 2 = 3 ∧ ¬ ∃ n, len = 2 ^ n
  wrA (exec (.amov ad imm) s) (imm.zeroExtend 32)
  ∧ SResult s (exec (.aget d ad) s) d 1 (x.zeroExtend 64)
  ∧ wrA (exec (.aadd ad imm) s) (x + imm.signExtend 32)
  ∧ wrA (exec (.aadds ad d) s) (x + y.truncate 32)
  ∧ (¬ bad → Issues s (exec (.asetb ad d) s) [writes s 1 (.b ad.val) (.w y)] [])
  ∧ (bad → Raises s (exec (.asetb ad d) s) 0x03 s.image)

/-- R184: AINC by the MODE of its descriptor, with exact arithmetic until the result is stored; AINC2 is AINC twice in the cycle. A
wrapping MODE comes with a LEN that is not 0, as ASETB checks; of a descriptor at reset nothing is said (log 28). -/
def Obligations.AddressAdvance : Prop := ∀ (s : State) (ad bd : Fin 16),
  (getF s.ik.sc.b[bd] 62 2 = 0 ∨ getF s.ik.sc.b[bd] 24 24 ≠ 0) →
  let b := s.ik.sc.b[bd]
  let mode := getF b 62 2
  let base : Int := (getF b 0 24 : Nat)
  let len : Int := (getF b 24 24 : Nat)
  let stp : Int := (b.extractLsb' 48 14).toInt
  let adv := fun (r : W32 × W32) =>
    let x : Int := (r.1.toNat : Int) + stp
    let k := Nat.log2 (getF b 24 24)
    let j := reversed k (((r.1.toNat : Int) - base) % len).toNat
    (if mode = 0 then BitVec.ofInt 32 x
      else if mode = 3 then BitVec.ofInt 32 (base + (reversed k (((j : Int) + stp) % len).toNat : Nat))
      else BitVec.ofInt 32 (base + (x - base) % len),
     if mode = 2 then r.2 + BitVec.ofInt 32 ((x - base) / len) else r.2)
  let from_ := (s.ik.ra ad, s.ik.sc.wrap[bd])
  let ws := fun (r : W32 × W32) => writes s 1 (.a ad.val) (.w (r.1.zeroExtend 64))
    :: (if mode = 2 then [writes s 1 (.wrap bd.val) (.w (r.2.zeroExtend 64))] else [])
  Issues s (exec (.ainc ad bd) s) (ws (adv from_)) []
  ∧ Issues s (exec (.ainc2 ad bd) s) (ws (adv (adv from_))) []

/-! ### Vectors -/

/-- R192, R188, R186: the arithmetic forms. A form whose slot, ports and multiplier are free, whose sources carry one unscaled float or
integer tag and whose destination has that tag or is written whole, gives each active element its value beats + 3 cycles later, floats
rounded once and integers wrapped, with the flags of the active elements. A busy slot raises SLOT_BUSY before anything else, and a
masked write of a destination of another tag, or of a scaled one, FORMAT_TAG. -/
def Obligations.VectorArithmetic : Prop := ∀ (s : State) (vd va vb : Fin 32) (k : Fin 8) (h : Hold) (m : RMode),
  let a := s.srcA va h
  let b := s.srcB vb h
  let d := s.ik.v vd
  let t := a.tag
  let n := t.bytes
  let val := fun (f : Fmt) (x : Nat) => f.decode x
  let ex := fun (f : Fmt) (e : Nat) (r : FVal × Flags) => let q := f.round m (srG s.ik.sc.seed e) r.1; (q.1, q.2 ||| r.2)
  let sgn := fun (f : Fmt) (flip : Bool) (x : Nat) =>
    if (val f x).isNan then (f.nanCode, flIf (val f x).isSig flNV)
    else (x % 2 ^ (f.w - 1) + (if flip && !x.testBit (f.w - 1) then 2 ^ (f.w - 1) else 0), 0)
  let forms : List (Instr × Nat × (Fmt → Nat → Nat → Nat → Nat → Nat × Flags) × (Int → Int → Int → Int)) :=
    [(.vadd vd va vb k h m, 2, fun f e x y _ => ex f e (addX m (val f x) (val f y)), fun x y _ => x + y),
     (.vsub vd va vb k h m, 2, fun f e x y _ => ex f e (addX m (val f x) (val f y).neg), fun x y _ => x - y),
     (.vmul vd va vb k h m, 3, fun f e x y _ => ex f e (mulX (val f x) (val f y)), fun x y _ => x * y),
     (.vfma vd va vb k h m, 4, fun f e x y z => ex f e (fmaX m (val f x) (val f y) (val f z)), fun x y z => x * y + z),
     (.vfms vd va vb k h m, 4, fun f e x y z => ex f e (fmaX m (val f x) (val f y) (val f z).neg), fun x y z => x * y - z),
     (.vmin vd va vb k h, 2, fun f _ x y _ => f.minmax false x y, fun x y _ => if x ≤ y then x else y),
     (.vmax vd va vb k h, 2, fun f _ x y _ => f.minmax true x y, fun x y _ => if x ≤ y then y else x),
     (.vabs vd va k h, 1, fun f _ x _ _ => sgn f false x, fun x _ _ => if x < 0 then -x else x),
     (.vneg vd va k h, 1, fun f _ x _ _ => sgn f true x, fun x _ _ => -x)]
  -- one source; two; two with the FP32 multiplier; three with it
  ∀ f ∈ forms,
    let ports := (if f.2.1 = 1 then ports1 h else ports2 h) + (if f.2.1 = 4 then 1 else 0)
    let tags := if f.2.1 = 1 then [t] else if f.2.1 = 4 then [t, b.tag, d.tag] else [t, b.tag]
    let busy := s.vBusy (beats tags) ports (3 ≤ f.2.1 && t = .fp32)
    let free := busy = false
    let ok := (t.isFloat = true ∨ t.isInt = true) ∧ a.sc = false ∧ (2 ≤ f.2.1 → b.tag = t ∧ b.sc = false)
      ∧ (f.2.1 = 4 → d.tag = t ∧ d.sc = false)
    let last := s.ik.lastTag vd.val
    let dest := k = 0 ∨ last.1 = t ∧ last.2.1 = false
    (free → ok → dest →
      VElems s (exec f.1 s) h a (if f.2.1 = 1 then none else some b) vd (s.ik.rk k) n (n + 3) t fun e =>
        let x := (a.cell e).toNat
        let y := (b.cell e).toNat
        let z := (d.cell e).toNat
        match t.fmt with
        | some fm => f.2.2.1 fm e x y z
        | none => ((f.2.2.2 (t.int x) (t.int y) (t.int z) % 2 ^ t.bits).toNat, 0))
    ∧ (busy = true → Raises s (exec f.1 s) 0x04 0)
    ∧ (free → ok → ¬ dest → Raises s (exec f.1 s) 0x07 (BitVec.ofNat 64 last.1.code))

/-- R192, the forms on bits and on integers alone: logic on any unscaled tag, shifts on integers and RAW32, the high product and the
saturating forms on integers, where a clamp raises SAT. -/
def Obligations.VectorBits : Prop := ∀ (s : State) (vd va vb : Fin 32) (k : Fin 8) (h : Hold),
  let a := s.srcA va h
  let b := s.srcB vb h
  let t := a.tag
  let n := t.bytes
  let w := t.bits
  let wrap := fun (i : Int) => (i % 2 ^ w).toNat
  let sat := fun (i : Int) =>
    if i < t.range.1 then (wrap t.range.1, flSAT) else if t.range.2 < i then (wrap t.range.2, flSAT) else (wrap i, 0)
  let forms : List (Instr × Bool × (Nat → Nat → Nat × Flags)) :=
    [(.vand vd va vb k h, t ≠ .none, fun x y => (x &&& y, 0)),
     (.vor vd va vb k h, t ≠ .none, fun x y => (x ||| y, 0)),
     (.vxor vd va vb k h, t ≠ .none, fun x y => (x ^^^ y, 0)),
     (.vshl vd va vb k h, t.isInt || t = .raw32, fun x y => (x * 2 ^ (y % w) % 2 ^ w, 0)),
     (.vshr vd va vb k h, t.isInt || t = .raw32, fun x y => (x / 2 ^ (y % w), 0)),
     (.vsar vd va vb k h, t.isInt || t = .raw32, fun x y =>
       (if t = .uint8 ∨ t = .raw32 then x / 2 ^ (y % w) else wrap (t.int x / 2 ^ (y % w)), 0)),
     (.vmulh vd va vb k h, t.isInt, fun x y => (wrap (t.int x * t.int y / 2 ^ w), 0)),
     (.vadds vd va vb k h, t.isInt, fun x y => sat (t.int x + t.int y)),
     (.vsubs vd va vb k h, t.isInt, fun x y => sat (t.int x - t.int y))]
  ∀ f ∈ forms, s.vBusy n (ports2 h) false = false → f.2.1 = true → b.tag = t → a.sc = false → b.sc = false →
    (k = 0 ∨ (s.ik.lastTag vd.val).1 = t ∧ (s.ik.lastTag vd.val).2.1 = false) →
    VElems s (exec f.1 s) h a (some b) vd (s.ik.rk k) n (n + 3) t fun e => f.2.2 (a.cell e).toNat (b.cell e).toNat

/-- R193, R194: VCMP writes the active bits of a mask register beats + 3 cycles later; the mask forms write every bit at t + 1, and KPOP
a count at t + 2. A write of k0 is discarded. -/
def Obligations.VectorMasks : Prop := ∀ (s : State) (kd ka kb : Fin 8) (d va vb : Fin 32) (k : Fin 8) (h : Hold) (c : FCond)
    (imm : BitVec 14),
  let a := s.srcA va h
  let b := s.srcB vb h
  let t := a.tag
  let n := t.bytes
  let m := s.ik.rk k
  let x := s.ik.rk ka
  let y := s.ik.rk kb
  let cmp := fun (e : Nat) => cmpVal c (t.value (a.cell e).toNat) (t.value (b.cell e).toNat)
  let kWrites := fun (l : Nat) (v m : Mask) => if kd = 0 then [] else [writes s l (.k kd.val) (.mask v m)]
  let all := BitVec.allOnes 1024
  (s.vBusy n (ports2 h) false = false → (t.fmt.isSome = true ∨ t.isInt = true) → b.tag = t → a.sc = false → b.sc = false →
    ∃ v fl, VIssues s (exec (.vcmp kd va vb k h c) s) n
        (latchWrites s h a (some b) ++ kWrites (n + 3) v m ++ flagWrites s (n + 3) fl) []
      ∧ (∀ e, e < 1024 → m.getLsbD e = true → v.getLsbD e = (cmp e).1)
      ∧ (∀ i, fl.getLsbD i = true ↔ ∃ e, e < 1024 ∧ m.getLsbD e = true ∧ (cmp e).2.getLsbD i = true))
  ∧ (s.vBusy 1 0 false = false →
    VIssues s (exec (.kand kd ka kb) s) 1 (kWrites 1 (x &&& y) all) []
    ∧ VIssues s (exec (.kor kd ka kb) s) 1 (kWrites 1 (x ||| y) all) []
    ∧ VIssues s (exec (.kxor kd ka kb) s) 1 (kWrites 1 (x ^^^ y) all) []
    ∧ VIssues s (exec (.knot kd ka) s) 1 (kWrites 1 (~~~ x) all) []
    ∧ VIssues s (exec (.kpop d ka) s) 1
        (sWrites s d 2 (BitVec.ofNat 64 ((List.range 1024).filter (fun e => x.getLsbD e)).length)) []
    ∧ (∃ v : Mask, VIssues s (exec (.kset kd imm) s) 1 (kWrites 1 v all) []
      ∧ ∀ e, e < 1024 → v.getLsbD e = decide (e < imm.toNat)))

/-- R195, R119: a special function of FP32 or BF16 gives each active element its value beats + 11 cycles later: NaNs, infinities, zeros
and numbers outside a function's domain as the table of R119 has them, and RCP of any other number as the exact quotient rounded once to
nearest. Of the other functions' values at numbers within their domain no more is said; where the interval evaluation does not decide a
rounding the value is free (log 7). -/
def Obligations.VectorSpecials : Prop :=
  (∀ (s : State) (vd va : Fin 32) (k : Fin 8) (h : Hold),
    let a := s.srcA va h
    let t := a.tag
    let n := t.bytes
    let forms : List (Instr × SpFn) :=
      [(.vrcp vd va k h, .rcp), (.vsqrt vd va k h, .sqrt), (.vrsq vd va k h, .rsq), (.vexp2 vd va k h, .exp2),
       (.vlog2 vd va k h, .log2), (.vtanh vd va k h, .tanh)]
    ∀ f ∈ forms, ∀ fm, t.fmt = some fm → (t = .fp32 ∨ t = .bf16) → a.sc = false → s.vBusy n (ports1 h) false = false →
      (k = 0 ∨ (s.ik.lastTag vd.val).1 = t ∧ (s.ik.lastTag vd.val).2.1 = false) →
      VElems s (exec f.1 s) h a none vd (s.ik.rk k) n (n + 11) t fun e => special fm f.2 (a.cell e).toNat)
  ∧ (∀ (f : Fmt) (x : Nat), f = fmt32 ∨ f = fmtBf16 →
      let one := 127 * 2 ^ (f.p - 1)
      let inf := 255 * 2 ^ (f.p - 1)
      let neg := 2 ^ (f.w - 1)
      let nan := (f.nanCode, flNV)
      let all := fun (r : List (Nat × Flags)) =>
        r = [special f .rcp x, special f .sqrt x, special f .rsq x, special f .exp2 x, special f .log2 x, special f .tanh x]
      (∀ sg, f.decode x = .nan sg → all (List.replicate 6 (f.nanCode, flIf sg flNV)))
      ∧ (f.decode x = .inf false → all [(0, 0), (inf, 0), (0, 0), (inf, 0), (inf, 0), (one, 0)])
      ∧ (f.decode x = .inf true → all [(neg, 0), nan, nan, (0, 0), nan, (neg + one, 0)])
      ∧ (∀ n e, f.decode x = .fin n 0 e →
          let z := if n then neg else 0
          all [(z + inf, flDZ), (z, 0), (z + inf, flDZ), (one, 0), (neg + inf, flDZ), (z, 0)])
      ∧ (∀ n m e, f.decode x = .fin n m e → m ≠ 0 →
          let r := roundMag f .rne 0 n 1 m (-e)
          special f .rcp x = ((if n then neg else 0) + r.1, r.2))
      ∧ (∀ m e, f.decode x = .fin true m e → m ≠ 0 →
          special f .sqrt x = nan ∧ special f .rsq x = nan ∧ special f .log2 x = nan))

/-- R196 to R199, R107: conversions. VCVT rounds the exact value of each active element into the target, or packs whole blocks into a
scaled one; VPACK4 packs, VUNPACK4 unpacks to BF16; VTAG keeps the bits. That VCVT converts from integer to integer only where its source
is unscaled, and a scaled integer as the real number it stands for, is the model's reading (log 35). -/
def Obligations.VectorConversions : Prop := ∀ (s : State) (vd va : Fin 32) (k : Fin 8) (h : Hold) (tgt : Tag) (ty : Sn4Ty) (m : RMode),
  let a := s.srcA va h
  let t := a.tag
  let mk := s.ik.rk k
  let g := fun (e : Nat) => srG s.ik.sc.seed e
  let value := fun (e : Nat) => elemValue t a.sc a.teo (a.cell e).toNat (a.scale e)
  let last := s.ik.lastTag vd.val
  let dest := fun (r : Tag) => k = 0 ∨ last.1 = r ∧ last.2.1 = false
  let packed := fun (p : PackTo) (b : Nat) => packBlock p m 0 ((List.range 32).map (fun i => g (32 * b + i)))
    ((List.range 32).map (fun i => value (32 * b + i)))
  -- the codes and the scale bytes of 32 blocks, with the type in bits [7:6], and their flags
  let isPacked := fun (p : PackTo) (code : Nat) (x : VReg) (fl : Flags) =>
    (∀ b i, b < 32 → i < 32 → x.cell (32 * b + i) = BitVec.ofNat 32 ((packed p b).2.1.getD i 0))
    ∧ (∀ b, b < 32 → x.scale (32 * b) = BitVec.ofNat 8 ((packed p b).1 + 64 * code))
    ∧ (∀ i, fl.getLsbD i = true ↔ ∃ b, b < 32 ∧ (packed p b).2.2.getLsbD i = true)
  (∀ n, n = Nat.max t.bytes tgt.bytes → s.vBusy n (ports1 h) false = false → t ≠ .none → t ≠ .raw32 → dest tgt →
    VElems s (exec (.vcvt vd va k h tgt false m) s) h a none vd mk n (n + 4) tgt fun e =>
      tgt.convert m (g e) (t.isInt && !a.sc) (value e))
  ∧ (∀ n, n = Nat.max t.bytes tgt.bytes → s.vBusy n (ports1 h) false = false → t ≠ .none → t ≠ .raw32 →
    ∃ x fl, VIssues s (exec (.vcvt vd va 0 h tgt true m) s) n (latchWrites s h a none
        ++ writes s (n + 4) (.v vd.val) (.vr x (BitVec.allOnes 1024)) :: flagWrites s (n + 4) fl) []
      ∧ x.tag = tgt ∧ x.sc = true ∧ x.teo = 0 ∧ isPacked (.tag tgt) 0 x fl)
  ∧ (s.vBusy t.bytes (ports1 h) false = false → t.isFloat = true →
    ∃ x fl, VIssues s (exec (.vpack4 vd va h ty m) s) t.bytes (latchWrites s h a none
        ++ writes s (t.bytes + 4) (.v vd.val) (.vr x (BitVec.allOnes 1024)) :: flagWrites s (t.bytes + 4) fl) []
      ∧ x.tag = .sn4 ∧ x.sc = true ∧ x.teo = 0 ∧ isPacked (.sn4 ty) ty.code x fl)
  ∧ (s.vBusy 2 (ports1 h) false = false → t = .sn4 → dest .bf16 →
    VElems s (exec (.vunpack4 vd va k h m) s) h a none vd mk 2 6 .bf16 fun e => fmtBf16.round m (g e) (value e))
  ∧ (s.vBusy t.bytes (ports1 h) false = false → t ≠ .none → a.sc = false → t.bytes = tgt.bytes → dest tgt →
    VIssues s (exec (.vtag vd va k h tgt) s) t.bytes
      (latchWrites s h a none ++ [writes s (t.bytes + 3) (.v vd.val) (.vr (.plain tgt a.data) mk)]) [])

/-- R200, R201, R203: movement and construction. Each form writes, its latency later, the container of the element of its source that the
rule names, or the value that it builds; no flag is raised. -/
def Obligations.VectorMoves : Prop := ∀ (s : State) (vd va vb d : Fin 32) (k : Fin 8) (h : Hold) (n : Fin 64) (r : Fin 16) (tag : Tag)
    (imm : BitVec 14),
  let a := s.srcA va h
  let b := s.srcB vb h
  let t := a.tag
  let beat := t.bytes
  let same := (s.ik.lastTag vd.val).1 = t ∧ (s.ik.lastTag vd.val).2.1 = false
  let dest := k = 0 ∨ same
  let all := BitVec.allOnes 1024
  -- row and column of an element, and back
  let row := fun (e : Nat) => e / 64
  let col := fun (e : Nat) => e % 64
  let at_ := fun (i j : Nat) => 64 * i + j
  let built := fun (o : Out) (occ l : Nat) (hold : List PWrite) (t : Tag) (m : Mask) (f : Nat → W32) =>
    ∃ x, VIssues s o occ (hold ++ [writes s l (.v vd.val) (.vr (.plain t x) m)]) []
      ∧ ∀ e, e < 1024 → m.getLsbD e = true → x.getD e 0 = f e
  let moves : List (Instr × Nat × (Nat → Nat)) :=
    [(.vbrow vd va r k h, 5, fun e => at_ r.val (col e)),
     (.vbcol vd va n k h, 9, fun e => at_ (row e) n.val),
     (.vrotr vd va n k h, 5, fun e => at_ (row e) ((col e + (64 - n.val)) % 64)),
     (.vrotc vd va r k h, 9, fun e => at_ ((row e + (16 - r.val)) % 16) (col e)),
     (.vtrn vd va k h, 9, fun e => at_ (col e % 16) (16 * (col e / 16) + row e))]
  let key := getF (s.gs d) 0 32
  let base := getF (s.gs d) 32 32
  (s.vBusy beat (ports1 h) false = false → t ≠ .none →
    (a.sc = false → dest → ∀ f ∈ moves,
      built (exec f.1 s) beat (beat + f.2.1) (latchWrites s h a none) t (s.ik.rk k) (fun e => a.cell (f.2.2 e)))
    ∧ (k = 0 ∨ (a.sc = false ∧ same) →
      VIssues s (exec (.vmov vd va k h) s) beat
        (latchWrites s h a none ++ [writes s (beat + 3) (.v vd.val) (.vr a (s.ik.rk k))]) []))
  ∧ (s.vBusy (Nat.max beat b.tag.bytes) (ports2 h) false = false → t ≠ .none → a.sc = false → b.sc = false →
    (b.tag = t → built (exec (.vsel vd va vb k h) s) beat (beat + 3) (latchWrites s h a (some b)) t all
      (fun e => if (s.ik.rk k).getLsbD e then a.cell e else b.cell e))
    ∧ (b.tag.isInt = true → dest → built (exec (.vperm vd va vb k h) s) (Nat.max beat b.tag.bytes) (Nat.max beat b.tag.bytes + 5)
      (latchWrites s h a (some b)) t (s.ik.rk k) (fun e => a.cell (at_ (row e) ((b.cell e).toNat % 64)))))
  ∧ (s.vBusy tag.bytes 0 false = false →
    built (exec (.vbcs vd d tag) s) tag.bytes (tag.bytes + 3) [] tag all
      (fun _ => BitVec.ofNat 32 ((s.gs d).toNat % 2 ^ tag.bits)))
  ∧ (s.vBusy 4 0 false = false →
    built (exec (.viota vd imm) s) 4 7 [] .int32 all (fun e => imm.signExtend 32 + BitVec.ofNat 32 e)
    ∧ built (exec (.vrand vd d) s) 4 10 [] .int32 all (fun e => BitVec.ofNat 32 (genG key ((base + e) % 2 ^ 32))))

/-- R202, R120: every element of a reduction is the tree of its row or column, and of a scan the fold of the columns up to its own,
whatever the mask, whose first element is its input with a NaN made canonical (R111); a sum is of FP32 or of INT32. -/
def Obligations.VectorReductions : Prop := ∀ (s : State) (vd va : Fin 32) (op : RedOp) (k : Fin 8) (h : Hold),
  let a := s.srcA va h
  let t := a.tag
  let res : Tag := match op with
    | .sum => if t.isFloat then .fp32 else .int32
    | _ => t
  let n := Nat.max t.bytes res.bytes
  let x := fun (i j : Nat) => redIn op t ((s.ik.rk k).getLsbD (64 * i + j)) (a.cell (64 * i + j)).toNat
  -- a pairwise tree of 2^l leaves, the lower half on the left
  let join := fun (p q : Nat × Flags) => let r := redOp op t p.1 q.1; (r.1, r.2 ||| p.2 ||| q.2)
  let rec_ := fun (f : Nat → Nat × Flags) (half : Nat) => fun i => join (f i) (f (i + half))
  let tree6 := fun (f : Nat → Nat × Flags) => rec_ (rec_ (rec_ (rec_ (rec_ (rec_ f 32) 16) 8) 4) 2) 1 0
  let tree4 := fun (f : Nat → Nat × Flags) => rec_ (rec_ (rec_ (rec_ f 8) 4) 2) 1 0
  let first := fun (c : Nat) => match res.fmt with
    | some f => if (f.decode c).isNan then f.nanCode else c
    | none => c
  let scan := fun (i j : Nat) => (List.range j).foldl (fun p c => (redOp op t p (x i (c + 1)).1).1) (first (x i 0).1)
  let forms : List (Instr × Nat × (Nat → Nat → Nat)) :=
    [(.vredr vd va op k h, 5, fun i _ => (tree6 (x i)).1),
     (.vredc vd va op k h, 9, fun _ j => (tree4 (fun i => x i j)).1),
     (.vscanr vd va op k h, 5, scan)]
  ∀ f ∈ forms, s.vBusy n (ports1 h) false = false → (t.isFloat = true ∨ t.isInt = true) → a.sc = false →
    ∃ d fl, VIssues s (exec f.1 s) n (latchWrites s h a none
        ++ writes s (n + f.2.1) (.v vd.val) (.vr (.plain res d) (BitVec.allOnes 1024)) :: flagWrites s (n + f.2.1) fl) []
      ∧ ∀ i j, i < 16 → j < 64 → d.getD (64 * i + j) 0 = BitVec.ofNat 32 (f.2.2 i j)

/-- R204 to R206: the vector memory forms that pass the checks of R190 in their order. VLD and VLDB read their block in bank cycle t + 1
for a write at t + 8, VLDX its rows from t + 1 on for a write at t + 24; VST commits the active elements, with the scale byte of every
block with one, in t + 4, and VSTX row r in t + 4 + r. A register 31, a busy slot, a stale view and an access outside the handle are
raised. -/
def Obligations.VectorAccess : Prop := ∀ (s : State) (v : Fin 32) (h : Fin 256) (a : Fin 16) (k : Fin 8),
  let c := s.ik
  let e := c.vEnt h.val
  let t := entTag e
  let i := (s.ik.ra a).toNat
  let cols := entCols e
  let m := c.rk k
  let x := c.v v
  let y := c.v (v + 1)
  let op := fun (l : Nat) (act : TAct) => (⟨s.cyc s.ic + l, c.fl.seq, s.issue.cur.kind, s.issue.cur.bundle, act⟩ : TOp)
  let idx := fun (r : Nat) => (List.range 64).map (fun j => i + (y.cell (64 * r + j)).toNat)
  let active := fun (n : Nat) => m.getLsbD n
  let lanes := fun (r : Nat) => ((List.range 64).map (64 * r + ·)).filter active
  let at_ := fun (n : Nat) => i + n / 64 * cols + n % 64
  let dest := fun (sc : Bool) => k = 0 ∨ (sc = false ∧ (c.lastTag v.val).1 = t ∧ (c.lastTag v.val).2.1 = false)
  let free := fun (us : Option (List BankUse)) => ∃ l, us = some l ∧ c.bankBusy l = false
  let aligned := fun (row : Bool) => entScaled e = true → i % 32 = 0 ∧ (row = true → cols % 32 = 0)
  let tagged := fun (r : VReg) => r.tag = t ∧ r.sc = entSc e ∧ (entSc e = true → r.teo = entTeo e)
  let read := fun (stride rows : Nat) (row : Bool) => c.viewOk h.val = true ∧ t ≠ .none ∧ dest (entSc e) ∧ c.permits 1 h.val false = true
    ∧ i + (rows - 1) * stride + 63 < entRows e * cols ∧ aligned row
  let inside := ∀ n, n < 1024 → active n = true → i + (y.cell n).toNat < entRows e * cols
  let plain := t ≠ .none ∧ entScaled e = false ∧ y.tag = .int32
  let rows := fun (from_ : Nat) => (List.range 16).map (fun r => footprint e (s.cyc s.ic + from_ + r) 1
    ((lanes r).map (fun n => (i + (y.cell n).toNat) * (entHalf e / 2) / 64)))
  let empty := fun (sc : Bool) => (⟨[], t, sc, entTeo e, []⟩ : VReg)
  (s.vBusy 1 0 false = false → read cols 16 true → free (footprint e (s.cyc s.ic + 1) 2 (blockLines e i cols 16)) →
    VIssues s (exec (.vld v h a k) s) 1 [writes s 8 (.v v.val) (.vr (empty (entSc e)) m)] [op 1 (.load h.val e (.vld i))])
  ∧ (s.vBusy 1 0 false = false → read 0 1 false → free (footprint e (s.cyc s.ic + 1) 1 (blockLines e i 0 1)) →
    VIssues s (exec (.vldb v h a k) s) 1 [writes s 8 (.v v.val) (.vr (empty (entSc e)) m)] [op 1 (.load h.val e (.vldb i))])
  ∧ (v ≠ 31 → s.vBusy 16 1 false = false → c.viewOk h.val = true → plain → dest false → c.permits 1 h.val false = true → inside →
    (∃ us : List (List BankUse), rows 1 = us.map some ∧ c.bankBusy us.flatten = false) →
    VIssues s (exec (.vldx v h a k) s) 16 [writes s 24 (.v v.val) (.vr (empty false) m)]
      ((List.range 16).map (fun r => op (1 + r) (.load h.val e (.vldx r (idx r))))))
  ∧ (s.vBusy (beats [x.tag]) 1 false = false → c.viewOk h.val = true → x.tag ≠ .none → tagged x → c.permits 1 h.val true = true →
    i + 15 * cols + 63 < entRows e * cols → aligned true → free (footprint e (s.cyc s.ic + 3) 2 (blockLines e i cols 16)) →
    VIssues s (exec (.vst v h a k) s) (beats [x.tag]) [] [op 4 (.commit h.val (c.vIdx h.val) e
      (((List.range 1024).filter active).flatMap (fun n => entPut e (at_ n) (x.cell n).toNat)
        ++ (if entScaled e then ((List.range 32).filter (fun b => (List.range 32).any (fun j => active (32 * b + j)))).map
              (fun b => ⟨entScaleAt e (at_ (32 * b)), x.scale (32 * b), 0xFF⟩) else [])))])
  ∧ (v ≠ 31 → s.vBusy 16 2 false = false → c.viewOk h.val = true → plain → x.tag ≠ .none → tagged x → c.permits 1 h.val true = true →
    inside → (∃ us : List (List BankUse), rows 4 = us.map some ∧ c.bankBusy us.flatten = false) →
    VIssues s (exec (.vstx v h a k) s) 16 [] ((List.range 16).map (fun r => op (4 + r) (.commit h.val (c.vIdx h.val) e
      ((lanes r).flatMap (fun n => entPut e (i + (y.cell n).toNat) (x.cell n).toNat))))))
  ∧ (v = 31 → Raises s (exec (.vldx v h a k) s) 0x03 s.image ∧ Raises s (exec (.vstx v h a k) s) 0x03 s.image)
  ∧ (s.vBusy 1 0 false = true → Raises s (exec (.vld v h a k) s) 0x04 0 ∧ Raises s (exec (.vldb v h a k) s) 0x04 0)
  ∧ (s.vBusy 1 0 false = false → c.viewOk h.val = false → Raises s (exec (.vld v h a k) s) 0x08 (BitVec.ofNat 64 h.val))
  ∧ (s.vBusy 1 0 false = false → c.viewOk h.val = true → t ≠ .none → k = 0 → c.permits 1 h.val false = true →
    entRows e * cols ≤ i + 15 * cols + 63 → Raises s (exec (.vld v h a k) s) 0x09 (BitVec.ofNat 64 h.val))

/-! ### The cube -/

/-- R209, R213, R215, R225, R226: the forms of the M slot but loads, steps and drains. MCFG, MSETF and NSET are pending writes for the
next cycle, NADV moves a ring's head, NCHK passes or raises, MSTEP reads; MZERO clears an accumulator and takes the pipe for a cycle. In
an ASYNC or an exchange phase each raises SLOT_BUSY after its field checks, and so does NSET of a ring that an executing command reads. -/
def Obligations.CubeControl : Prop := ∀ (s : State) (st : BitVec 20) (word : W32) (n : Fin 8) (r : Fin 16) (h : Fin 256) (d : Fin 32)
    (off count : BitVec 16) (depth : Fin 16),
  let k := s.ik
  let e := k.vEnt h.val
  let ring := k.ring r.val
  let busy := s.mBusy s.ic = true
  let zero := exec (.mzero st n) s
  let image := k.elem e off.toNat + k.elem e (off.toNat + 1) * 2 ^ 32
  let good := entTag e = .raw32 ∧ off.toNat + 1 < entRows e * entCols e
  let accepted := getF (BitVec.ofNat 64 image) 36 20 = 0xFFFFF
    ∧ getF (BitVec.ofNat 64 image) 56 8 ∈ ([2, 3, 4, 5, 6, 7, 8, 9, 10, 13] : List Nat)
  let rows := entRows e / (depth.val + 1)
  let fits := entLevel e = 1 ∧ entRows e % (depth.val + 1) = 0 ∧ (rows = 32 ∨ rows = 1)
    ∧ entCols e ∈ ([32, 64, 128, 256] : List Nat)
  (Wf.cfg word.toNat = false → Raises s (exec (.mcfg st word) s) 0x03 s.image)
  ∧ (Wf.cfg word.toNat = true → busy → Raises s (exec (.mcfg st word) s) 0x04 0)
  ∧ (Wf.cfg word.toNat = true → ¬ busy → Issues s (exec (.mcfg st word) s) [writes s 1 .ccfg (.w (word.zeroExtend 64))] [])
  ∧ (busy ∨ k.cube.mtile.isSome = true ∨ s.pipeBusy s.ic = true → Raises s zero 0x04 0)
  ∧ (¬ busy → k.cube.mtile = none → s.pipeBusy s.ic = false → ∃ t p, zero = .next t ∧ CubeTakes s t p
      (k.cube.acc.set n.val ⟨[], if stepInt false k.cube.ccfg then .int32 else .fp32, false⟩) k.cube.lat
      ∧ p.len = 1 ∧ p.acc = some n.val)
  ∧ (busy → Raises s (exec (.msetf st n h off) s) 0x04 0)
  ∧ (¬ busy → k.viewOk h.val = true → k.permits 2 h.val false = true → good →
      (accepted → Issues s (exec (.msetf st n h off) s) [writes s 1 (.fol n.val) (.w (BitVec.ofNat 64 image))] [])
      ∧ (¬ accepted → Raises s (exec (.msetf st n h off) s) 0x03 s.image))
  ∧ (depth = 0 → Raises s (exec (.nset st r h depth) s) 0x03 s.image)
  ∧ (depth ≠ 0 → busy ∨ s.ringRead s.ic r.val = true → Raises s (exec (.nset st r h depth) s) 0x04 0)
  ∧ (depth ≠ 0 → ¬ busy → s.ringRead s.ic r.val = false → k.viewOk h.val = true →
      (fits → Issues s (exec (.nset st r h depth) s)
        [writes s 1 (.ring r.val) (.ringIs ⟨true, h.val, k.vIdx h.val, depth.val + 1, rows, entCols e, 0, 0, []⟩)] [])
      ∧ (¬ fits → Raises s (exec (.nset st r h depth) s) 0x03 s.image))
  ∧ (ring.bound = false ∨ count = 0 ∨ 16 < count.toNat → Raises s (exec (.nadv st r count) s) 0x03 s.image)
  ∧ (ring.bound = true → count.toNat ≤ 16 → busy →
      (count ≠ 0 → Raises s (exec (.nadv st r count) s) 0x04 0) ∧ Raises s (exec (.nchk st r count) s) 0x04 0)
  ∧ (ring.bound = true → count ≠ 0 → count.toNat ≤ 16 → ¬ busy →
      (ring.depth < ring.fill + count.toNat → Raises s (exec (.nadv st r count) s) 0x0E (BitVec.ofNat 64 r.val))
      ∧ (ring.fill + count.toNat ≤ ring.depth →
        Issues s (exec (.nadv st r count) s) [writes s 1 (.ring r.val) (.adv count.toNat)] []))
  ∧ (ring.bound = true → count.toNat ≤ 16 → ¬ busy →
      (ring.fill < count.toNat + s.popsPending s.ic r.val → Raises s (exec (.nchk st r count) s) 0x0D (BitVec.ofNat 64 r.val))
      ∧ (count.toNat + s.popsPending s.ic r.val ≤ ring.fill → exec (.nchk st r count) s = .next s))
  ∧ (busy → Raises s (exec (.mstep st d) s) 0x04 0)
  ∧ (¬ busy → SResult s (exec (.mstep st d) s) d 1 (BitVec.ofNat 64 (k.cube.qidx.toNat + k.satBits (s.cyc s.ic) * 2 ^ 32)))

/-- R213, R214, R216 to R220: MLOAD, MLATCH and the steps that pass the checks of R212 take the pipe and act at once on the accumulator
or the latch; that a step reads its planes and has its effect at its issue is the model's choice (log 31). The value of a step is that of
R114 to R118: an integer sum that wraps at 32 bits, or is clamped after every chunk of 32, and a float sum by chunks, whose first factors
are rounded to the pair format in a trilinear step. -/
def Obligations.CubeSteps : Prop :=
  (∀ (s : State) (st : BitVec 20) (n : Fin 8) (l : Fin 4) (h : Fin 256) (a b w : Sel) (pa pb pw : Bool) (kv : Fin 256),
    let k := s.ik
    let e := k.vEnt h.val
    let cfg := k.cube.ccfg
    let free := s.mBusy s.ic = false ∧ k.cube.mtile = none ∧ s.pipeBusy s.ic = false
    let read := k.viewOk h.val = true ∧ k.permits 2 h.val false = true
    let kt := fun (c : Nat) => c = 32 ∨ c = 64 ∨ c = 128 ∨ c = 256
    let acc := k.acc n.val
    let fits := fun (p : Plane) (o : OpFmt) => p.tag = o.tag ∧ p.sc = o.c
    let A := k.plane a
    let B := k.plane b
    let W := k.plane w
    let rings := fun (l : List Sel) => ∀ x, Sel.ring x ∈ l → (k.ring x.val).bound = true ∧ 1 ≤ (k.ring x.val).fill
      ∧ k.permits 2 (k.ring x.val).view false = true
    let both := fits A (cfgA cfg) ∧ fits B (cfgB cfg) ∧ kt A.cols ∧ B.cols = A.cols ∧ A.rows = 32 ∧ B.rows = 32
      ∧ okPair (cfgA cfg) (cfgB cfg) = true ∧ kv.val + 1 ≤ A.cols
    let rep := cfgReplaced cfg
    let third := fits W (cfgW cfg) ∧ W.cols = A.cols ∧ W.rows = (if cfgBind cfg = 2 then 1 else 32)
      ∧ (∀ p, p = A ∨ p = B ∨ p = W → p.sc = false ∧ p.tag ≠ .sn4)
      ∧ (cfgWide cfg = true → rep.f = 2 ∨ rep.f = 3)
      ∧ (if rep.f = 4 then (cfgW cfg).f = 4 ∧ (cfgW cfg).s = true else (cfgW cfg).f = rep.f)
    let steps := fun (i : Instr) (tri : Bool) (pops : List (Bool × Sel)) => ∃ t p, exec i s = .next t
      ∧ (let r := stepAcc tri cfg A B (if tri then W else ⟨0, 0, .none, false, 0, [], []⟩) (kv.val + 1) acc.elems
         CubeTakes s t p (k.cube.acc.set n.val ⟨r.1, acc.tag, acc.sat || r.2.getLsbD 5⟩) k.cube.lat ∧ p.flags = r.2)
      ∧ p.acc = some n.val
      ∧ p.len = Nat.max 1 (Nat.max (cdiv ((if tri && cfgWide cfg then 2 else 1) * A.cols) (stepK tri cfg)) (maxCount p.banks))
      ∧ (∀ x : Fin 16, x.val ∈ p.pops ↔ (true, Sel.ring x) ∈ pops)
    (free → read → (entTag e = .fp32 ∨ entTag e = .int32) → entSc e = false → entRows e = 32 → entCols e = 32 →
      ∃ t p d, exec (.mload st n h) s = .next t ∧ CubeTakes s t p (k.cube.acc.set n.val ⟨d, entTag e, false⟩) k.cube.lat
        ∧ (∀ i j, i < 32 → j < 32 → d.getD (32 * i + j) 0 = BitVec.ofNat 32 (k.elem e (32 * i + j))) ∧ p.acc = some n.val)
    ∧ (free → read → entTag e ≠ .none → kt (entCols e) → (entRows e = 32 ∨ entRows e = 1) → entLevel e = 1 →
      ∃ t p x, exec (.mlatch st l h) s = .next t ∧ CubeTakes s t p k.cube.acc (k.cube.lat.set l.val x)
        ∧ x.rows = entRows e ∧ x.cols = entCols e ∧ x.tag = entTag e ∧ x.sc = entSc e ∧ x.teo = entTeo e
        ∧ (∀ i, i < entRows e * entCols e → x.data.getD i 0 = BitVec.ofNat 32 (k.elem e i)) ∧ p.acc = none)
    ∧ (free → both → rings [a, b] → acc.tag = (if stepInt false cfg then .int32 else .fp32) →
      steps (.mmul st n a b pa pb kv) false [(pa, a), (pb, b)])
    ∧ (free → both → third → rings [a, b, w] → acc.tag = (if stepInt true cfg then .int32 else .fp32) →
      steps (.mmul3 st n a b w pa pb pw kv) true [(pa, a), (pb, b), (pw, w)]))
  ∧ (∀ (cfg : W32) (A B W : Plane) (kv : Nat) (acc : List W32) (i j : Nat), A.rows = 32 → B.rows = 32 → acc.length = 1024 →
      i < 32 → j < 32 →
      let old := acc.getD (32 * i + j) 0
      let new := fun (tri : Bool) => (stepAcc tri cfg A B W kv acc).1.getD (32 * i + j) 0
      let sum := fun (f : Nat → Int) => ((List.range kv).map f).sum
      let clamped := fun (f : Nat → Int) => (List.range (cdiv kv 32)).foldl (fun (x : Int) c =>
        max (-2 ^ 31) (min (2 ^ 31 - 1) (x + ((List.range (min 32 (kv - 32 * c))).map (fun m => f (32 * c + m))).sum))) old.toInt
      let wrow := fun (n : Nat) => if cfgBind cfg = 2 then 0 else n
      let w := fun (n m : Nat) => W.int (wrow n) m
      let two := fun (m : Nat) => A.int i m * B.int j m
      let three := fun (m : Nat) => if cfgBind cfg = 1 then A.int i m * (B.int j m * w j m) else A.int i m * w i m * B.int j m
      let pairs := if cfgWide cfg then fmtBf16 else ((if cfgBind cfg = 1 then B else A).tag.fmt.getD fmt32)
      let pair := fun (m : Nat) =>
        if cfgBind cfg = 1 then pairFloat pairs (B.value j m) (W.value (wrow j) m) else pairFloat pairs (A.value i m) (W.value (wrow i) m)
      let term := fun (m : Nat) =>
        if cfgBind cfg = 1 then termX false (A.value i m) (pair m).1 else termX false (pair m).1 (B.value j m)
      (stepInt false cfg = true → cfgSat cfg = false → new false = BitVec.ofInt 32 (old.toInt + sum two))
      ∧ (stepInt false cfg = true → cfgSat cfg = true → new false = BitVec.ofInt 32 (clamped two))
      ∧ (stepInt false cfg = false →
        new false = BitVec.ofNat 32 (accFloat kv (fun m => termX (4 ≤ (cfgA cfg).f) (A.value i m) (B.value j m)) old.toNat).1)
      ∧ (stepInt true cfg = true → cfgSat cfg = false → new true = BitVec.ofInt 32 (old.toInt + sum three))
      ∧ (stepInt true cfg = true → cfgSat cfg = true → new true = BitVec.ofInt 32 (clamped three))
      ∧ (stepInt true cfg = false →
        new true = BitVec.ofNat 32 (accFloat kv (fun m => ((term m).1, (pair m).2 ||| (term m).2)) old.toNat).1))

/-- R221, R222, R223: a drain that passes the checks of R212 takes the drain unit for 16 cycles with its snapshot, whose bytes commit at
t + 24, or becomes a pending write of vd for t + 24. A macro tile that passes them starts its first tile: its accumulator is zeroed, QIDX
is 1 and its first step is due in the next cycle. Its own shape is detail 12, behind the views and tags of its first step and of its drains
and behind every other detail (R218, log 38). -/
def Obligations.CubeDrains : Prop := ∀ (s : State) (st : BitVec 20) (n : Fin 8) (vd : Fin 32) (hout hdesc : Fin 256) (off : BitVec 16),
  let k := s.ik
  let free := s.mBusy s.ic = false ∧ k.cube.mtile = none ∧ s.drainBusy s.ic = false
  let acc := k.acc n.val
  let int := acc.tag = .int32
  let de := k.vEnt hdesc.val
  let oe := k.vEnt hout.val
  let d := drainDesc (k.imgBytes de 0 64)
  let t := d.otag.getD .none
  let uses : List VecUse := [⟨d.bias, d.biasV, if int then .int32 else .fp32, 32⟩, ⟨d.zp, d.colV, .int32, 32⟩,
    ⟨d.zp, d.rowV, .int32, 32⟩, ⟨d.req, d.mulV, .int32, 64⟩]
  let vec := fun (u : VecUse) => if u.on then (List.range u.n).map (fun i => k.elem (k.vEnt u.view) i) else []
  let vecs : DrainVecs := ⟨vec ⟨d.bias, d.biasV, .none, 32⟩, vec ⟨d.zp, d.colV, .none, 32⟩, vec ⟨d.zp, d.rowV, .none, 32⟩,
    vec ⟨d.req, d.mulV, .none, 64⟩⟩
  let desc := k.viewOk hdesc.val = true ∧ entTag de = .raw32 ∧ 16 ≤ entRows de * entCols de ∧ k.permits 2 hdesc.val false = true
  let reads := ∀ u ∈ uses, u.on = true → k.viewOk u.view = true ∧ entTag (k.vEnt u.view) = u.tag
    ∧ u.n ≤ entRows (k.vEnt u.view) * entCols (k.vEnt u.view) ∧ k.permits 2 u.view false = true
  let legal := d.zero = true ∧ (t = .fp32 ∨ t = .bf16 ∨ t = .fp16 ∨ t = .e4m3f ∨ t = .e5m2f ∨ t.isInt = true)
    ∧ (d.osc = true → t.narrow = true) ∧ (¬ int → d.zp = false ∧ d.req = false ∧ d.ozp = false) ∧ 1 ≤ d.kz ∧ d.kz ≤ 2 ^ 24
    ∧ ∀ x ∈ vecs.mul.drop 32, -31 ≤ Tag.int32.int x ∧ Tag.int32.int x ≤ 31
  let out := k.viewOk hout.val = true ∧ entTag oe = t ∧ entSc oe = d.osc ∧ 32 ≤ entCols oe
    ∧ (d.osc = true → off.toNat % 32 = 0 ∧ entCols oe % 32 = 0)
    ∧ off.toNat + 31 * entCols oe + 31 < entRows oe * entCols oe ∧ k.permits 2 hout.val true = true
  let x := drainOut d vecs (cfgDrm k.cube.ccfg) k.sc.seed (acc.tag = .int32) acc.elems
  let r := s.cyc s.ic
  let at_ := fun (i : Nat) => off.toNat + i / 32 * entCols oe + i % 32
  let drains := fun (o : Out) (ps : List PWrite) (dst : Option Nat) (bs : List MByte) => ∃ u c, o = .next u ∧ OnlyCore s u s.ic
    ∧ c.start = r ∧ c.late = 0 ∧ c.out = dst.map (fun v => (v, k.vIdx v)) ∧ c.bytes = bs ∧ c.flags = x.2.2 ∧ c.pc = s.issue.cur.bundle
    ∧ c.follow = false ∧ c.rviews = hdesc.val :: (uses.filter (·.on)).map (·.view) ∧ c.rents = c.rviews.map k.vIdx
    ∧ u.core s.ic = { k with
        cube := { k.cube with drainUntil := r + 16, drains := k.cube.drains ++ [c] }
        ct := { k.ct with tilth := (u.core s.ic).ct.tilth }
        fl := { k.fl with
          regs := ps.foldl (fun l p => insertPW p l) k.fl.regs
          vtags := ps.foldl (fun m p => noteTag m p.dest p.val) k.fl.vtags } }
    ∧ (⟨Nat.max s.now (s.inst s.ic (r + 24)), 4, .ev (.drainCommit s.ic)⟩ : Due) ∈ u.agenda
  (free → s.accBusy s.ic n.val = false → desc → reads → legal → acc.tag ≠ .none →
    (out → drains (exec (.mdrain st n hout hdesc off) s) [] (some hout.val)
      ((List.range 1024).flatMap (fun i => entPut oe (at_ i) (x.1.getD i 0).toNat)
        ++ (if d.osc then (List.range 32).map (fun i => ⟨entScaleAt oe (at_ (32 * i)), x.2.1.getD i 0, 0xFF⟩) else [])))
    ∧ drains (exec (.mdrainv st n vd hdesc) s)
        [writes s 24 (.v vd.val) (.vr ⟨x.1, t, d.osc, 0, x.2.1⟩ (BitVec.allOnes 1024))] none [])
  ∧ (∀ tri : Bool,
    let o := exec (if tri then .mtile3 st hdesc else .mtile st hdesc) s
    let td := mtileDesc (k.imgBytes de 0 64)
    let tag := if stepInt false k.cube.ccfg then .int32 else .fp32
    let plan := s.planMtile s.ic tri hdesc.val s.byM
    (s.mBusy s.ic = true ∨ k.cube.mtile.isSome = true ∨ s.pipeBusy s.ic = true ∨ s.drainBusy s.ic = true → Raises s o 0x04 0)
    ∧ (free → s.pipeBusy s.ic = false → desc → (∀ c ∈ plan.chks.stale ++ plan.chks.tag ++ plan.chks.shape.dropLast, c = none) →
      mtileBad tri (k.imgBytes de 0 64) = true → Raises s o 0x0F 12)
    ∧ (free → s.pipeBusy s.ic = false → desc → plan.chk = none → ∃ u m, o = .next u
      ∧ OnlyCore s u s.ic ∧ (u.core s.ic).cube.acc = k.cube.acc.setIfInBounds td.cA ⟨[], tag, false⟩
      ∧ (u.core s.ic).cube.qidx = 1 ∧ (u.core s.ic).cube.mtile = some m
      ∧ m.tri = tri ∧ m.q = 0 ∧ m.step = 1 ∧ m.start = r ∧ m.next = r + 1 ∧ m.desc = k.imgBytes de 0 64 ∧ m.ccfg = k.cube.ccfg
      ∧ (u.core s.ic).sc = k.sc ∧ (u.core s.ic).vec = k.vec ∧ (u.core s.ic).tile = k.tile ∧ (u.core s.ic).tr = k.tr
      ∧ (⟨Nat.max s.now (s.inst s.ic (r + 1)), 8, .ev (.mtileExpansion s.ic)⟩ : Due) ∈ u.agenda))

/-! ### Engines -/

/-- R227, R231: a copy that passes the checks of R227 joins its channel with its descriptor as it stands, behind the copies before it, and
starts no sooner than the descriptor has been read; with a ring, a slot is reserved. It waits for the fences in flight, and CPYA for the
SUBSYNCs in flight too (R275). A ninth command and a stale descriptor view are raised. Nothing is moved at issue. Where a delay is not
stated it is a free value (log 4), and the order of acts within one instant is the model's own (log 5). -/
def Obligations.CopyIssues : Prop := ∀ (s : State) (st : BitVec 20) (ch : Fin 4) (n : Bool) (hd hc : Fin 256) (dir : Dir) (f : Fin 8)
    (op : CpyaOp) (e : Fin 64) (p : Fin 16),
  let k := s.ik
  let d := copyDesc (k.imgBytes (k.vEnt hd.val) 0 64)
  let table := k.imgBytes (k.vEnt hc.val) 0 (k.tableLen (k.vEnt hc.val))
  let way : CopyOp := if dir = .inn then .inn else .out
  let chan := k.eng.chans[ch]
  let ring := k.ring d.ringn
  let forms : List (Instr × CopyOp × CopyOp × Option Nat × Option Nat) :=
    [(.cpy st ch n hd dir, way, way, none, none), (.cpym st ch n hd dir f, way, way, some f.val, none),
     (.cpyx st ch n hd, .x, .x, none, none), (.cpya st ch n hd op e, .red op e.val, .red op e.val, none, none),
     (.cpyd st ch n hd hc, .huff [], .huff table, none, some hc.val), (.cpyi st ch n hd p, .input p.val, .input p.val, none, none),
     (.cpyc st ch n hd, .loc, .loc, none, none)]
  ∀ q ∈ forms,
    let o := exec q.1 s
    (8 ≤ chan.length → Raises s o 0x04 0)
    ∧ (chan.length < 8 → q.2.2.2.1 = none → k.viewOk hd.val = false → Raises s o 0x08 (BitVec.ofNat 64 hd.val))
    ∧ (s.chkCopy ⟨ch.val, n, hd.val, q.2.1, q.2.2.2.1, q.2.2.2.2⟩ = none → InGroup s o fun t => t.issue = s.issue ∧ ∃ x : CopyCmd,
      t.core s.ic = { k with
        eng := { k.eng with nextId := k.eng.nextId + 1, chans := k.eng.chans.setIfInBounds ch.val (chan ++ [x]) }
        fl := { k.fl with claims := (t.core s.ic).fl.claims }
        cube := { k.cube with rings :=
          if d.ring then k.cube.rings.setIfInBounds d.ringn { ring with resv := ring.resv ++ [⟨k.eng.nextId, false⟩] }
          else k.cube.rings } }
      ∧ x.id = k.eng.nextId ∧ x.op = q.2.2.1 ∧ x.fol = q.2.2.2.1 ∧ x.notify = n ∧ x.pc = s.issue.cur.bundle ∧ x.priv = k.priv
      ∧ x.g = k.ct.g ∧ x.view = hd.val ∧ x.desc = d ∧ x.dindex = k.vIdx hd.val ∧ x.lindex = k.vIdx d.lv ∧ x.findex = k.vIdx d.fv
      ∧ x.waits = k.eng.fences.map (·.id) ++ (if q.2.2.1 = .red op e.val then k.sub.syncs.map (·.id) else [])
      ∧ x.table = q.2.2.2.2.map (fun v => (v, k.vIdx v)) ∧ x.started = false ∧ x.pos = 0 ∧ x.perf = false ∧ x.code = 0 ∧ x.flags = 0
      ∧ (⟨Nat.max s.now (s.inst s.ic (s.cyc s.ic + 2)), 10, .ev (.copyCommandStart s.ic ch.val)⟩ : Due) ∈ t.agenda)

/-- R239 to R242: an AMO is queued behind the earlier ones with its operands; an SC form takes the first position that its core owns on
the wheel at or after the next cycle and after every earlier one, with no position raises SC_SLOT and as a fifth SLOT_BUSY, and executes
256 wheel cycles later; a FENCE covers every command in flight, and what Kamrex or Ethernet has still to acknowledge (R284, log 30). Where a delay is not stated it is a free value (log 4), and the order of
acts within one instant is the model's own (log 5). -/
def Obligations.OrderIssues : Prop := ∀ (s : State) (st : BitVec 20) (n : Bool) (op : AmoOp) (sa sb sc : Fin 32) (q : Scope),
  let k := s.ik
  let id := k.eng.nextId
  let fields := fun (x : AmoCmd) (addr : W64) => x.id = id ∧ x.addr = addr ∧ x.notify = n ∧ x.pc = s.issue.cur.bundle ∧ x.priv = k.priv
    ∧ x.g = k.ct.g ∧ x.waits = k.eng.fences.map (·.id) ∧ x.performed = false ∧ x.code = 0 ∧ x.flags = 0
  let scForms : List (Instr × (AmoCmd → Prop)) :=
    [(.scld st n sa sc, fun x => x.isLoad = true ∧ x.isStore = false ∧ x.dest = sc.val),
     (.scst st n sa sb, fun x => x.isLoad = false ∧ x.isStore = true ∧ x.opnd = s.gs sb),
     (.scamo st n op sa sb sc, fun x => x.isLoad = false ∧ x.isStore = false ∧ x.op = op ∧ x.opnd = s.gs sb ∧ x.cmp = s.gs sc
       ∧ x.dest = sc.val)]
  (InGroup s (exec (.amo st n op sa sb sc) s) fun t => t.issue = s.issue ∧ ∃ x,
    t.core s.ic = { k with eng := { k.eng with nextId := id + 1, amos := k.eng.amos ++ [x] } }
    ∧ fields x (s.gs sa) ∧ x.isLoad = false ∧ x.isStore = false ∧ x.op = op ∧ x.opnd = s.gs sb ∧ x.cmp = s.gs sc ∧ x.dest = sc.val
    ∧ x.issued = false
    ∧ (⟨Nat.max s.now s.now, 10, .mi (.kick s.ic)⟩ : Due) ∈ t.agenda)
  ∧ (∀ f ∈ scForms, (∀ p ∈ k.eng.wheel, p < 4096) →
    let pending := (k.eng.scs.filter (fun x => !x.performed)).length
    let owned := fun (w : Nat) => s.cyc s.ic + 1 ≤ w ∧ k.eng.lastPos < w ∧ ∃ p ∈ k.eng.wheel, w % 16384 = 4 * p
    (4 ≤ pending → Raises s (exec f.1 s) 0x04 0)
    ∧ (pending < 4 → k.eng.wheel = [] → Raises s (exec f.1 s) 0x14 0)
    ∧ (pending < 4 → k.eng.wheel ≠ [] → ∃ w, owned w ∧ (∀ v, owned v → w ≤ v)
      ∧ InGroup s (exec f.1 s) fun t => t.issue = s.issue ∧ ∃ x,
        t.core s.ic = { k with eng := { k.eng with nextId := id + 1, scs := k.eng.scs ++ [x], lastPos := w } }
        ∧ fields x (s.gs sa) ∧ f.2 x ∧ x.w0 = w ∧ x.issued = true
        ∧ (⟨Nat.max s.now ((w + 256) * tbCycle), 5, .ev (.scExecute s.ic id)⟩ : Due) ∈ t.agenda))
  ∧ (InGroup s (exec (.fence st q) s) fun t => t.issue = s.issue
    ∧ t.core s.ic = { k with eng := { k.eng with
        nextId := id + 1, fences := k.eng.fences ++ [⟨id, q, k.inFlight ++ k.eng.acks, s.issue.cur.bundle⟩], rendez := (t.core s.ic).eng.rendez } }
    ∧ (⟨Nat.max s.now s.now, 10, .ev (.fenceComplete s.ic id)⟩ : Due) ∈ t.agenda)

/-- R243 to R246, R49, R257: semaphores are set and grow in the next cycle, and SEMCHK compares without waiting; TWAIT holds the next
group until the tick and raises ILLEGAL_FIELD in a sample-locked region; TSTAMP reads the tick; REALIGN is noted by every member of a
whole group of timebase cores, whose frames restart at the tick, or, late, is logged alone; TRACE sends a user record. Where a delay is
not stated it is a free value (log 4), and the order of acts within one instant is the model's own (log 5). -/
def Obligations.TimeIssues : Prop := ∀ (s : State) (st : BitVec 20) (e : Fin 64) (a d : Fin 32) (imm : BitVec 19) (z : Bool)
    (g : Fin 256) (ty : BitVec 8),
  let k := s.ik
  let low : W32 := (s.gs a).truncate 32
  let sem := k.ct.sem[e]
  let x := s.gs a
  let r := s.cyc s.ic
  let locked := (s.lockedRegion k).isSome = true
  let late := x.toNat * tick < s.inst s.ic r
  let same := fun (t : State) => (∀ c, c ≠ s.ic → t.core c = s.core c) ∧ t.mem = s.mem ∧ (t.core s.ic).sc = k.sc
    ∧ (t.core s.ic).vec = k.vec ∧ (t.core s.ic).tile = k.tile ∧ (t.core s.ic).cube = k.cube ∧ (t.core s.ic).tr = k.tr
  let members := s.groupOf s.ic g.val
  let l := s.launchNo s.ic
  let bad := s.ic ∉ members ∨ ∃ m ∈ members, (s.lockedRegion (s.coreIn l m)).isSome = true
  let noted := fun (m : Nat) (c : Core) =>
    if m ∈ members ∧ c.seq.launch = some l then
      { c with seq := { c.seq with realign := if x.toNat ∈ c.seq.realign then c.seq.realign else x.toNat :: c.seq.realign } }
    else c
  (∀ v : SemSrc, ∀ inc set : W32, (v = .reg a → inc = low ∧ set = low) → (v = .imm imm → inc = imm.signExtend 32 ∧ set = imm.zeroExtend 32) →
    v = .reg a ∨ v = .imm imm →
    Issues s (exec (.seminc st e v) s) [writes s 1 (.e e.val) (.semInc inc)] []
    ∧ Issues s (exec (.semset st e v) s) [writes s 1 (.e e.val) (.semSet set)] []
    ∧ (set.toNat ≤ sem.toNat → exec (.semchk st e v) s = .next s)
    ∧ (sem.toNat < set.toNat → Raises s (exec (.semchk st e v) s) 0x1A (BitVec.ofNat 64 (e.val + sem.toNat * 2 ^ 32))))
  ∧ (∀ (c : Core) (p : PWrite) (y : W32), p.dest = .e e.val →
    (p.val = .semInc y → (c.land p).ct.sem[e] = c.ct.sem[e] + y) ∧ (p.val = .semSet y → (c.land p).ct.sem[e] = y))
  ∧ (locked → Raises s (exec (.twait st a z) s) 0x03 s.image)
  ∧ (¬ locked → late → s.latefault s.ic = true → Raises s (exec (.twait st a z) s) 0x1B x)
  ∧ (¬ locked → ¬ (late ∧ s.latefault s.ic = true) →
    let q := Nat.max (r + 1) (s.first s.ic (x.toNat * tick))
    ∃ t, exec (.twait st a z) s = .next t ∧ same t ∧ t.issue = { s.issue with twait := some q }
      ∧ (t.core s.ic).seq.twLeave = some (x, z) ∧ (t.core s.ic).seq.twLate = cdiv (s.inst s.ic r - x.toNat * tick) tick
      ∧ (⟨Nat.max s.now (s.inst s.ic q), 1, .ev (.twaitLeave s.ic)⟩ : Due) ∈ t.agenda)
  ∧ (¬ locked → SResult s (exec (.tstamp st d) s) d 2 (BitVec.ofNat 64 s.ptc))
  ∧ (locked → ∃ t v, exec (.tstamp st d) s = .next t ∧ same t
      ∧ (t.core s.ic).fl.regs = (sWrites s d 2 (BitVec.ofNat 64 v)).foldl (fun l p => insertPW p l) k.fl.regs
      ∧ (s.now - s.cycLen s.ic) / tick ≤ v ∧ v ≤ (s.now + s.cycLen s.ic) / tick)
  ∧ (bad → Raises s (exec (.realign st g a) s) 0x03 s.image)
  ∧ (¬ bad → x.toNat * tick < s.now + 788 * tick →
    ∃ t, exec (.realign st g a) s = .next t ∧ same t
      ∧ (t.core s.ic).ct.dcr = dcrAdd k.ct.dcr 0x06 s.issue.cur.bundle.toNat (cdiv (s.now + 788 * tick - x.toNat * tick) tick))
  ∧ (¬ bad → s.now + 788 * tick ≤ x.toNat * tick → ∃ t, exec (.realign st g a) s = .next t
      ∧ t = { s with agenda := t.agenda, cores := t.cores, gangs := t.gangs }
      ∧ (∀ m, t.core m = noted m (s.core m)) ∧ (∀ u ∈ s.agenda, u ∈ t.agenda)
      ∧ ∀ m ∈ members, ∃ u ∈ t.agenda, u.act = .ev (.realignTick m x.toNat))
  ∧ (ty.toNat < 0x80 → Raises s (exec (.trace st ty a) s) 0x03 s.image)
  ∧ (0x80 ≤ ty.toNat → InGroup s (exec (.trace st ty a) s) fun t => t.issue = s.issue
    ∧ t.core s.ic = { k with eng := { k.eng with nextId := k.eng.nextId + 1, misc := k.eng.misc ++
        [⟨k.eng.nextId, k.eng.fences.map (·.id), some (s.coreRec s.ic ty x), 0, none, none, s.now, none, false⟩] } }
    ∧ (⟨Nat.max s.now s.now, 10, .mi (.kick s.ic)⟩ : Due) ∈ t.agenda)

/-- R251, R254, R255, R256: subscriptions, multicast windows and slip crossings at issue. Each form that passes its checks makes its
entry or its request, due at the instant that the rule gives, and changes nothing else; the checks are raised in their order. Where a
delay is not stated it is a free value (log 4), and the order of acts within one instant is the model's own (log 5). -/
def Obligations.SharingIssues : Prop := ∀ (s : State) (st : BitVec 20) (hl hp hs ht g : Fin 256) (core : BitVec 12) (win : Fin 4)
    (x : Fin 64) (a : Fin 32),
  let k := s.ik
  let c := s.ic
  let p := core.toNat
  let id := k.eng.nextId
  let stale := fun (h : Fin 256) (o : Out) => k.viewOk h.val = false → Raises s o 0x08 (BitVec.ofNat 64 h.val)
  let noted := fun (o : Out) (q : Core) (more : State → Prop) => InGroup s o fun t => t.issue = s.issue ∧ t.core c = q ∧ more t
  let numbered := fun (o : Out) (q : Core) (more : State → Prop) => Gives o fun t =>
    OnlyCore { s with nextKey := s.nextKey + 1 } t c ∧ t.core c = q ∧ more t
  let len := match win with | 0 => 0 | 1 => 8 | 2 => 32 | _ => 128
  let may := s.peer c p = true ∧ s.shareGroup c p = true ∧ k.sub.byView hl.val = none ∧ k.sub.subs.length < 32
  let members := s.groupOf c g.val
  let opens := c ∈ members ∧ (∀ w ∈ k.sub.mcs, w.index ≠ k.vIdx hs.val) ∧ k.sub.mcs.length < 8
  let window : McWin := ⟨k.vIdx hs.val, (k.view hs.val).gen, g.val, ht.val, s.cyc c + 1, s.issue.cur.bundle⟩
  let entry : SubEnt := ⟨hl.val, k.vIdx hl.val, (k.view hl.val).gen, p, hp.val, len, .pending, s.issue.cur.bundle⟩
  let off := getF (s.gs a) 0 32
  let e := k.vEnt hl.val
  let count := entRows e * entCols e
  let slips := fun (o : Out) (r : SlipRes) => noted o
    { k with eng := { k.eng with nextId := id + 1, slips := k.eng.slips ++ [r] } }
    fun t => (⟨Nat.max s.now s.now, 10, .mi (.kick c)⟩ : Due) ∈ t.agenda
  let waits := k.eng.fences.map (·.id)
  stale hl (exec (.subon st hl hp core win) s)
  ∧ (k.viewOk hl.val = true → ¬ may → Raises s (exec (.subon st hl hp core win) s) 0x03 s.image)
  ∧ (k.viewOk hl.val = true → may → numbered (exec (.subon st hl hp core win) s)
      { k with sub := { k.sub with subs := AMap.put k.sub.subs s.nextKey entry } }
      fun t => (⟨Nat.max s.now (s.inst c (s.cyc c + s.latC c p)), 2, .ev (.subonRequest p c s.nextKey)⟩ : Due) ∈ t.agenda)
  ∧ stale hl (exec (.suboff st hl) s)
  ∧ (k.viewOk hl.val = true → k.sub.byView hl.val = none → Raises s (exec (.suboff st hl) s) 0x03 s.image)
  ∧ (∀ i y, k.viewOk hl.val = true → k.sub.byView hl.val = some (i, y) →
      (y.st = .closing → Raises s (exec (.suboff st hl) s) 0x03 s.image)
      ∧ (y.st ≠ .closing → noted (exec (.suboff st hl) s)
        { k with sub := { k.sub with subs := AMap.put k.sub.subs i { y with st := .closing } } }
        fun t => (⟨Nat.max s.now (s.inst c (s.cyc c + s.latC c y.pub)), 2, .ev (.suboffRequest y.pub c i)⟩ : Due) ∈ t.agenda))
  ∧ stale hp (exec (.subsync st hp) s)
  ∧ (k.viewOk hp.val = true → ∃ t y, exec (.subsync st hp) s = .next t ∧ (t.core c).sub.syncs = k.sub.syncs ++ [y] ∧ y.id = id
      ∧ t.mem = s.mem ∧ (t.core c).sc = k.sc ∧ (t.core c).tile = k.tile
      ∧ (∀ w ∈ y.waits, ∃ f, (w.1, f) ∈ k.sub.fwds ∧ f.index = k.vIdx hp.val ∧ f.gen = (k.view hp.val).gen)
      ∧ (y.waits = [] → (⟨Nat.max s.now (s.inst c (s.cyc c + 1)), 11, .ev (.subsyncCompletion c id)⟩ : Due) ∈ t.agenda))
  ∧ stale hs (exec (.mcwin st hs ht g) s)
  ∧ (k.viewOk hs.val = true → k.viewOk ht.val = true →
      (¬ opens → Raises s (exec (.mcwin st hs ht g) s) 0x03 s.image)
      ∧ (∀ m, opens → s.outside c members = some m → Raises s (exec (.mcwin st hs ht g) s) 0x15 (BitVec.ofNat 64 m))
      ∧ (opens → s.outside c members = none → noted (exec (.mcwin st hs ht g) s)
        { k with sub := { k.sub with mcs := k.sub.mcs ++ [window] } } fun _ => True))
  ∧ stale hs (exec (.mcoff st hs) s)
  ∧ (k.viewOk hs.val = true →
      ((∀ w ∈ k.sub.mcs, w.index ≠ k.vIdx hs.val) → Raises s (exec (.mcoff st hs) s) 0x03 s.image)
      ∧ ((∃ w ∈ k.sub.mcs, w.index = k.vIdx hs.val) → noted (exec (.mcoff st hs) s)
        { k with sub := { k.sub with mcs := k.sub.mcs.filter (fun w => w.index ≠ k.vIdx hs.val) } } fun _ => True))
  ∧ stale hl (exec (.slpwr st x hl a) s)
  ∧ (∀ y us, k.viewOk hl.val = true → entTag e = .fp32 → s.crossingOf c x.val = some y → y.desc.pisl = coreIsland c →
      k.permits 0 hl.val false = true → off + y.desc.ch ≤ count →
      footprint e (s.cyc c + 1) 1 (linesOf (off * 8) (y.desc.ch * 8)) = some us → k.bankBusy us = false →
      InGroup s (exec (.slpwr st x hl a) s) fun t => t.issue = s.issue ∧ t.core c = { k with
        eng := { k.eng with nextId := id + 1, misc := k.eng.misc ++ [⟨id, waits, none, x.val, some (hl.val, k.vIdx hl.val), none, s.now, none, false⟩] }
        fl := { k.fl with
          claims := (t.core c).fl.claims
          ops := k.fl.ops ++ [⟨s.cyc c + 1, k.fl.seq, s.issue.cur.kind, s.issue.cur.bundle, .load hl.val e (.slp id off y.desc.ch)⟩] } })
  ∧ (∀ y, k.viewOk hl.val = true → s.crossingOf c x.val = some y → k.permits 8 hl.val true = true →
      (entTag e = .fp32 → y.desc.cisl = coreIsland c → getF (s.gs a) 32 32 + y.desc.ch ≤ count →
        slips (exec (.slprd st x hl a) s)
          ⟨id, waits, hl.val, k.vIdx hl.val, x.val, off, getF (s.gs a) 32 32, false, false, none, none⟩)
      ∧ (entTag e = .raw32 → y.desc.cisl = coreIsland c ∨ y.desc.pisl = coreIsland c → off + 4 ≤ count →
        slips (exec (.slpst st x hl a) s) ⟨id, waits, hl.val, k.vIdx hl.val, x.val, 0, off, true, false, none, none⟩))

/-- R247, R248: a COLL that passes its checks joins its channel with its descriptor; where no instance of its launch, group and number is
there it makes one of the fields that it names and posts its deadline, and else it adds itself to that instance's participants. A ROOT at
or beyond the number of ranks, and a participant that differs from the first arrival, ends the instance with COLL_MISMATCH. Where a
delay is not stated it is a free value (log 4), and the order of acts within one instant is the model's own (log 5). When a collective
takes its operands is log 11. -/
def Obligations.CollectiveIssues : Prop := ∀ (s : State) (st : BitVec 20) (kind : CollKind) (ch : Fin 4) (n : Bool) (g hd : Fin 256)
    (op : CollOp) (x : XcidCtx),
  let k := s.ik
  let c := s.ic
  let de := k.vEnt hd.val
  let bs := k.imgBytes de 0 64
  let members := s.groupOf c g.val
  let num := (AMap.get? k.eng.collK g.val).getD 0 + 1
  let l := s.launchNo c
  let field := fun (o m : Nat) => ofLe ((bs.drop o).take m)
  let dead := BitVec.ofNat 64 (field 24 8)
  let same := fun (y : CollInst) => y.launch = l ∧ y.g = g.val ∧ y.k = num
  let matches_ := fun (y : CollInst) => y.kind = kind ∧ y.op = op ∧ y.count = field 16 4 ∧ y.xcid = field 20 2 ∧ y.root = field 22 2
    ∧ y.deadline = dead ∧ y.m = members.length ∧ y.devRank = x.rank ∧ y.devCount = x.count
  let named := fun (y : CollInst) => y.kind = kind ∧ y.op = op ∧ y.count = field 16 4 ∧ y.xcid = field 20 2 ∧ y.root = field 22 2
    ∧ y.deadline = dead ∧ y.m = x.m
  let rank := x.rank * x.m + (members.filter (fun d => d < c)).length
  let part : CollPart := ⟨c, rank, k.eng.nextId, s.issue.cur.bundle, none⟩
  let o := exec (.coll st kind ch n g hd op) s
  (4 ≤ (k.eng.colls[ch]).length → Raises s o 0x04 0)
  ∧ ((k.eng.colls[ch]).length < 4 → k.viewOk hd.val = false → Raises s o 0x08 (BitVec.ofNat 64 hd.val))
  ∧ ((k.eng.colls[ch]).length < 4 → k.viewOk hd.val = true → entTag de = .raw32 → 16 ≤ entRows de * entCols de → c ∈ members →
    1 ≤ field 16 4 → field 16 4 ≤ 2 ^ 24 → field 32 28 = 0 → s.xcidOf c (field 20 2) members.length = some x →
    x.m = members.length →
    k.permits 0 hd.val true = true → k.bankBusy (descUse de (s.cyc c + 1)) = false → s.now ≤ dead.toNat * tick →
    let joined := fun (t : State) (i : Nat) => ∃ y : CollCmd,
      t.core c = { k with
        eng := { k.eng with
          nextId := k.eng.nextId + 1
          collK := AMap.put k.eng.collK g.val num
          colls := k.eng.colls.setIfInBounds ch.val (k.eng.colls[ch] ++ [y]) }
        fl := { k.fl with claims := (t.core c).fl.claims } }
      ∧ y.id = k.eng.nextId ∧ y.inst = i ∧ y.notify = n ∧ y.view = hd.val ∧ y.dindex = k.vIdx hd.val ∧ y.sva = BitVec.ofNat 64 (field 0 8)
      ∧ y.dva = BitVec.ofNat 64 (field 8 8) ∧ y.count = field 16 4 ∧ y.sent = false ∧ y.code = none
      ∧ (∀ d, d ≠ c → t.core d = s.core d) ∧ t.mem = s.mem ∧ (⟨Nat.max s.now s.now, 10, .mi (.kick c)⟩ : Due) ∈ t.agenda
    let rooted := field 22 2 < x.count * x.m
    let first := ∀ q ∈ s.insts, ¬ same q.2
    let there := fun (i : Nat) (y : CollInst) => i ≠ s.nextKey ∧ y.st = .open_
      ∧ s.insts.find? (fun q => q.2.launch = l && q.2.g = g.val && q.2.k = num) = some (i, y)
    let ended := fun (i : Nat) => Gives o fun t => ∃ z, AMap.get? t.insts i = some z ∧ z.st = .mismatch ∧ part ∈ z.parts
      ∧ ∀ p ∈ z.parts, (s.core p.core).seq.launch = some l → (s.core p.core).seq.st ≠ .suspend →
        p.core = c ∨ (∃ ws ∈ (s.core p.core).eng.colls.toList, ∃ w ∈ ws, w.inst = i) → DueAt t s.now (.collCompletion i p.core)
    (first → rooted → ∃ t y, o = .next t ∧ joined t s.nextKey ∧ t.nextKey = s.nextKey + 1
      ∧ t.insts = AMap.put s.insts s.nextKey y ∧ same y ∧ matches_ y ∧ y.parts = [part] ∧ y.st = .open_
      ∧ (⟨Nat.max s.now (dead.toNat * tick), 7, .ev (.collDeadline s.nextKey)⟩ : Due) ∈ t.agenda)
    ∧ (∀ i y, there i y → matches_ y → rooted → ∃ t, o = .next t ∧ joined t i
        ∧ t.insts = AMap.put s.insts i { y with parts := y.parts ++ [part] } ∧ t.nextKey = s.nextKey)
    ∧ (first → ¬ rooted → ended s.nextKey)
    ∧ (∀ i y, there i y → ¬ rooted ∨ ¬ named y → ended i))

/-- R258 to R260: XBEGIN and XEND open and close an exchange phase, each once and not while its units are at work; XTX, XRX and XSEL are
taken up for the rows from the next cycle on. Outside a phase, a clash of ports or a register with no tag to drive, or a scaled one, is
raised; XTX is judged by the tags that its registers hold when it issues (log 32). Where a delay is not stated it is a free value (log 4),
and the order of acts within one instant is the model's own (log 5). -/
def Obligations.ExchangeIssues : Prop := ∀ (s : State) (port p2 : Fin 16) (v : Fin 32) (row : Fin 16) (count : BitVec 11) (m : BitVec 16),
  let k := s.ik
  let c := s.ic
  let r := s.cyc c
  let occupied := (∃ t ∈ k.fl.units.vU.toList, r < t) ∨ s.pipeBusy c = true ∨ s.drainBusy c = true
  let cmd := fun (op a b w i n : Nat) => (⟨op, a, b, w, i, n, 0, r + 1, k.fl.seq, s.issue.cur.bundle⟩ : XCmd)
  let forms : List (Instr × XCmd) :=
    [(.xtx port v row count, cmd 0 port.val 0 v.val row.val count.toNat), (.xrx port v row count, cmd 1 port.val 0 v.val row.val count.toNat),
     (.xsel port p2 m, cmd 2 port.val p2.val 0 0 m.toNat)]
  let named := fun (i : Nat) => i < (row.val + count.toNat + 15) / 16
  let drives := fun (i : Nat) => let y := k.vec.v.toArray.getD (v.val + i) .zero; y.tag ≠ .none ∧ y.sc = false
  (k.x.on = true → Raises s (exec .xbegin s) 0x02 s.image)
  ∧ (k.x.on = false → occupied → Raises s (exec .xbegin s) 0x04 0)
  ∧ (k.x.on = false → ¬ occupied → InGroup s (exec .xbegin s) fun t => t.issue = s.issue
      ∧ t.core c = { k with x := { k.x with on := true, cmds := [] } })
  ∧ (k.x.on = false → Raises s (exec .xend s) 0x02 s.image)
  ∧ (k.x.on = true → (∃ n ∈ k.x.cmds, n.active r = true) → Raises s (exec .xend s) 0x04 0)
  ∧ (k.x.on = true → (∀ n ∈ k.x.cmds, n.active r = false) → InGroup s (exec .xend s) fun t => t.issue = s.issue
      ∧ t.core c = { k with x := { k.x with on := false, cmds := [] } })
  ∧ (∀ f ∈ forms,
      (k.x.on = false → Raises s (exec f.1 s) 0x02 s.image)
      ∧ (k.x.on = true → f.1.wellFormed = true → k.x.clash f.2 = true → Raises s (exec f.1 s) 0x04 0)
      ∧ (k.x.on = true → f.1.wellFormed = true → k.x.clash f.2 = false →
        (∀ i, f.2.op = 0 → named i → ¬ drives i → (∀ j, j < i → drives j) →
          Raises s (exec f.1 s) 0x07 (BitVec.ofNat 64 (k.vec.v.toArray.getD (v.val + i) .zero).tag.code))
        ∧ ((f.2.op = 0 → ∀ i, named i → drives i) → InGroup s (exec f.1 s) fun t => t.issue = s.issue
          ∧ t.core c = { k with x := { k.x with cmds := k.x.cmds.filter (fun n => n.active r) ++ [f.2] } }
          ∧ (⟨Nat.max s.now (s.inst c (r + 1)), 5, .ev (.exchangeRow c)⟩ : Due) ∈ t.agenda)))

/-! ### Events of launches and gangs -/

/-- R320, R53, R54, R347: queues and launches. QCTL is written while EN = 0 or HEAD = TAIL and QERR set otherwise; a tail write outside
the linear view or past the entries is refused with QERR; a queue head is rejected with its record, left, or its admission begun; an
admission completes into RUNNING, or is rejected in the order lost command processor, links, lost cores, cap, predecessors and start
(log 41); a launch with nothing left
retires with its record over the entry at the head, where the target lets its command processor write it (R97). Where a delay is not
stated it is a free value (log 4), and the order of acts within one instant is the model's own (log 5). How an admission is carried out is
log 13. -/
def Obligations.LaunchQueues : Prop := ∀ (s : State) (q : Fin 256) (v : W64) (w : W32) (ctx : Fin 8) (l : Nat) (x : Launch),
  let y := s.queue q.val
  let en := getB y.ctl 8
  let base := getF y.ctl 12 52 * 4096
  let n := 2 ^ getF y.ctl 4 4
  let view := 0x40000000000
  let outside := base < view ∨ view + 2 ^ 39 ≤ base ∨ view + 2 ^ 39 < base + 16 * n ∨ n < (w - y.head).toNat
  let sets := fun (o : Out) (z : CmdQueue) (pass : Bool) => Gives o fun t => t = { s with queues := t.queues, agenda := t.agenda }
    ∧ t.queue q.val = z ∧ (∀ p, p ≠ q.val → t.queue p = s.queue p)
    ∧ (pass = true → ∀ c : Fin 8, c.val = q.val / 32 → DueAt t s.now (.launchAdmission c))
  let waits := fun (p : Nat) => getB (s.queue p).ctl 8 = true ∧ (s.queue p).head ≠ (s.queue p).tail
    ∧ s.launches.all (fun l => l.2.queue ≠ p || l.2.st = .retired) = true
  let idle := fun (p : Nat) => getB (s.queue p).ctl 8 = false ∨ (s.queue p).head = (s.queue p).tail
    ∨ ∃ z ∈ s.launches, z.1 ≠ s.nextKey ∧ z.2.queue = p ∧ z.2.st ≠ .retired
  let prio := getF y.ctl 2 2
  let img := (s.entryImage q.val y.head.toNat).2
  let i := img.getD noImage
  let mine : Launch := ⟨ctx.val, q.val, prio, i, .admitting, .ok, s.gangsOver i⟩
  let cpLost := fun (c : Nat) => if c < 4 then s.pkg.lost0 else s.pkg.lost2
  -- a launch that needs a route which no live link provides is one of LAUNCH_CONFIG, whatever its cores (R316)
  let lost := cpLost ctx.val || ((imageCores i).any s.coreLost && s.routesOk mine)
  let why : Option LStatus :=
    if lost then some .aborted else if img.isNone then some .launchConfig else if !s.regionsOk i then some .regionConfig
    else if !(s.launchOk ctx.val i && s.routesOk mine) then some .launchConfig else none
  let recorded := fun (t : State) (q : Nat) (id : BitVec 16) (st : LStatus) =>
    let a := qEntry (s.queue q).ctl (s.queue q).head.toNat
    (s.agentOk (0x11B + q / 128) a none .write = true → t.mem = (s.memWrite (s.moved a)
      (leBytes 2 id.toNat ++ leBytes 1 st.code ++ leBytes 5 0 ++ leBytes 8 (s.now / tick))).mem)
    ∧ (s.agentOk (0x11B + q / 128) a none .write = false → t.mem = s.mem)
  let done := fun (t : State) (k q : Nat) (z : Launch) (id : BitVec 16) (st : LStatus) =>
    t.launches = AMap.put s.launches k { z with st := .retired, status := st, preempted := [] }
    ∧ recorded t q id st ∧ t.queue q = { s.queue q with head := (s.queue q).head + 1 } ∧ t.now = s.now
  let ready := AMap.get? s.launches l = some x ∧ x.st = .admitting ∧ x.ctx < 8
    ∧ (∀ g ∈ x.preempted, ∀ z, AMap.get? s.gangs g = some z → z.st = .saved)
    ∧ ∀ c ∈ imageCores x.img, (s.core c).seq.launch = none
  (s.hostUp = true → (en = false ∨ y.head = y.tail) →
    sets (exec (.qctlWrite q v) s)
      { y with ctl := (v &&& 0xFFFFFFFFFFFFF1FC) ||| (if getB v 9 then 0 else y.ctl &&& 0x200) } true)
  ∧ (s.hostUp = true → en = true → y.head ≠ y.tail →
    sets (exec (.qctlWrite q v) s) { y with ctl := setB y.ctl 9 true } false)
  ∧ (en = false → exec (.qtailWrite q w) s = .next s)
  ∧ (s.hostUp = true → en = true → outside →
    sets (exec (.qtailWrite q w) s) { y with ctl := setB y.ctl 9 true } false)
  ∧ (s.hostUp = true → en = true → ¬ outside → sets (exec (.qtailWrite q w) s) { y with tail := w } true)
  ∧ (getF s.pkg.bootst 0 4 ≠ 6 → exec (.launchAdmission ctx) s = .next s)
  ∧ (getF s.pkg.bootst 0 4 = 6 → (∀ p, p / 32 = ctx.val → p ≠ q.val → idle p) → q.val / 32 = ctx.val →
    (¬ waits q.val → exec (.launchAdmission ctx) s = .next s)
    ∧ (∀ st, waits q.val → why = some st → Gives (exec (.launchAdmission ctx) s) fun t => done t s.nextKey q.val mine i.launchId st)
    ∧ (waits q.val → why = none → s.mayTake prio i = false → exec (.launchAdmission ctx) s = .next s)
    ∧ (waits q.val → why = none → s.mayTake prio i = true → Gives (exec (.launchAdmission ctx) s) fun t =>
      t.launches = AMap.put s.launches s.nextKey mine ∧ t.nextKey = s.nextKey + 1 ∧ t.mem = s.mem ∧ t.queues = s.queues
      ∧ DueFrom t s.now (.admissionComplete s.nextKey)))
  ∧ (ready → ∀ st : LStatus,
      st = (if cpLost x.ctx then .aborted else if !s.routesOk x then .launchConfig
        else if (imageCores x.img).any s.coreLost then .aborted else if s.overCap x then .regionConfig
        else if !s.predsDone x || s.startPassed x.img then .lateStart else .ok) →
      (st ≠ .ok → Gives (exec (.admissionComplete l) s) fun t => done t l x.queue x x.img.launchId st)
      ∧ (st = .ok → Gives (exec (.admissionComplete l) s) fun t =>
        t.launches = AMap.put s.launches l { x with st := .running, preempted := [] }
        ∧ (t.ctx x.ctx).origins = (s.ctx x.ctx).origins.setIfInBounds x.prio ((x.queue + 1) % 32)
        ∧ t.mem = s.mem ∧ DueAt t s.now (.launchRetire l)
        ∧ ∀ c ∈ imageCores x.img, let k := t.core c
          k.seq.launch = some l ∧ k.prog.tasks = tasksOf x.img c ∧ k.prog.firstDone = false ∧ k.fl.regs = []
          ∧ getB k.tr.status 4 = false ∧ getB k.tr.status 5 = false ∧ getB k.tr.status 7 = false
          ∧ k.sc = (s.core c).sc ∧ k.vec = (s.core c).vec ∧ k.tile = (s.core c).tile))
  ∧ (AMap.get? s.launches l = some x → (x.st = .running ∨ x.st = .aborting) →
    (∀ p ∈ s.launchCores l, p.2.tasked (x.st = .aborting) = false) → s.unfinished l x = false →
    Gives (exec (.launchRetire l) s) fun t =>
      t.launches = AMap.put s.launches l { x with st := .retired, status := if x.st = .aborting then x.status else .ok }
      ∧ recorded t x.queue x.img.launchId (if x.st = .aborting then x.status else .ok)
      ∧ t.queue x.queue = { s.queue x.queue with head := (s.queue x.queue).head + 1 }
      ∧ (∀ c, (s.core c).seq.launch = some l → (t.core c).seq.launch = none ∧ (t.core c).prog.text = []
        ∧ (t.core c).sc = (s.core c).sc ∧ (t.core c).tile = (s.core c).tile)
      ∧ (∀ c, (∀ p ∈ s.cores, p.1 = c → p.2.seq.launch ≠ some l) → t.core c = s.core c)
      ∧ (∀ r ∈ t.regions, r.2.launch ≠ l))

/-- R55, R61, R64 to R68, R172, R297, R303, R352: gangs and tasks. At S the members stop, with CIF held, and the gang is saved in one act
when nothing is under way; it is put back as it was, and resumes at a tick chosen ahead, with its tasks' starts moved; a halt stops the
members that did not trap; a restart returns the trapped ones by their saved registers; and a task starts with TIMED, CBASE and its entry
bundle. That a save keeps the whole core as its context and writes no device memory, and that a restore puts that core back with an empty
instruction cache, is the model's choice (logs 34 and 40), as is that a save or restore whose area the access table denies is logged and
tried again (log 34). Where a delay is not stated it is a free value (log 4), and the order of acts within one instant is the model's own
(log 5). What the rules leave open of it is log 23. -/
def Obligations.GangMoves : Prop := ∀ (s : State) (g c l : Nat) (x : Gang) (y : Launch) (tk : TaskEnt) (rest : List TaskEnt),
  let has := AMap.get? s.gangs g = some x
  let gang := fun (t : State) (P : Gang → Prop) => ∃ z, AMap.get? t.gangs g = some z ∧ P z
  let same := fun (t : State) (c : Nat) => (t.core c).sc = (s.core c).sc ∧ (t.core c).vec = (s.core c).vec
    ∧ (t.core c).tile.mem = (s.core c).tile.mem ∧ (t.core c).cube.acc = (s.core c).cube.acc
  let stays := fun (t : State) => t.mem = s.mem ∧ t.now = s.now ∧ t.queues = s.queues
  let k := s.core c
  -- the save areas of the members lie in the HBM of their dies, and the launch's command processor accesses them (R97, R301)
  let cp := 0x11B + (((s.launchRec x.launch).map (·.queue)).getD 0) / 128
  let open_ := fun (q : XKind) => ∀ d ∈ x.cores, s.grantsKind (coreDie d) cp q = true
  let denied := fun (q : XKind) (i : Instr) (t : State) =>
    t = { s with targets := t.targets, agenda := t.agenda, freeCtr := t.freeCtr } ∧ DueFrom t (s.now + tbCycle) i
    ∧ ∀ d ∈ x.cores, s.grantsKind (coreDie d) cp q = false →
      ∃ z va n, AMap.get? t.targets (coreDie d) = some z ∧ (cp, va, n) ∈ z.log ∧ n = (match q with | .write => 1 | .atomic => 2 | _ => 0)
  (has → x.st = .stopping → x.stopT ≤ s.now → s.unsavable x = true → Gives (exec (.gangStop g) s) fun t =>
    t = { s with gangs := t.gangs, agenda := t.agenda } ∧ gang t fun z => z = { x with st := .running })
  ∧ (has → x.st = .stopping → x.stopT ≤ s.now → s.unsavable x = false →
    (∀ d ∈ x.cores, s.lockedRegion (s.core d) = none ∧ ((s.core d).seq.st = .run ∨ (s.core d).seq.st = .wait ∨ (s.core d).seq.st = .idle)) →
    Gives (exec (.gangStop g) s) fun t => stays t ∧ (gang t fun z => z = { x with st := .saving }) ∧ DueFrom t s.now (.contextSave g)
      ∧ ∀ d ∈ x.cores, (t.core d).seq.st = .suspend ∧ (t.core d).seq.counting = false
        ∧ (t.core d).seq.cif = (s.core d).cifAt (s.cyc d) ∧ (t.core d).tr = (s.core d).tr ∧ same t d)
  ∧ (has → x.st = .saving → (∀ d ∈ x.cores, (s.core d).seq.st = .suspend) → x.cores.any s.underWay = false → open_ .write → Gives (exec (.contextSave g) s) fun t => stays t
      ∧ (∀ d ∈ x.cores, (t.core d).seq.launch = none ∧ (t.core d).fl.regs = [] ∧ same t d)
      ∧ gang t fun z => z.wantBy = none ∧ ∀ d ∈ x.cores, ∃ q, AMap.get? z.saved d = some q ∧ q.sc = (s.core d).sc ∧ q.vec = (s.core d).vec
        ∧ q.tile = (s.core d).tile ∧ q.cube = (s.core d).cube ∧ q.tr = (s.core d).tr ∧ q.prog = (s.core d).prog ∧ q.fl = (s.core d).fl
        ∧ q.sub = (s.core d).sub ∧ q.ct = (s.core d).ct)
  ∧ (has → x.st = .saving → (∀ d ∈ x.cores, (s.core d).seq.st = .suspend) → x.cores.any s.underWay = false → ¬ open_ .write →
    Gives (exec (.contextSave g) s) (denied .write (.contextSave g)))
  ∧ (has → x.st = .restoring → x.saved ≠ [] → (∀ d ∈ x.cores, (s.core d).seq.launch = none) → ¬ open_ .read →
    Gives (exec (.contextRestore g) s) (denied .read (.contextRestore g)))
  ∧ (has → x.st = .restoring → x.saved ≠ [] → (∀ d ∈ x.cores, (s.core d).seq.launch = none) → open_ .read →
    Gives (exec (.contextRestore g) s) fun t => stays t ∧ (gang t fun z => z = { x with saved := [] }) ∧ DueFrom t s.now (.gangResume g)
      ∧ ∀ p ∈ x.saved, (∀ q ∈ x.saved, q.1 = p.1 → q = p) → let q := t.core p.1
        q.sc = p.2.sc ∧ q.vec = p.2.vec ∧ q.tile = p.2.tile ∧ q.cube = p.2.cube ∧ q.tr = p.2.tr ∧ q.fl = p.2.fl
        ∧ q.prog = { p.2.prog with icache := [] } ∧ q.ct = p.2.ct ∧ q.sub = p.2.sub ∧ q.seq.st = p.2.seq.st ∧ q.seq.launch = p.2.seq.launch ∧ q.seq.idle = p.2.seq.idle)
  ∧ (has → x.st = .restoring → x.saved = [] → x.cores.any s.resyncing = false → (x.resumeT = 0 ∨ s.now < x.resumeT) →
    Gives (exec (.gangResume g) s) fun t => t = { s with gangs := t.gangs, agenda := t.agenda, freeCtr := t.freeCtr }
      ∧ ∃ n, s.now < n * tick ∧ (gang t fun z => z = { x with resumeT := n * tick }) ∧ DueAt t (n * tick) (.gangResume g))
  ∧ (has → x.st = .restoring → x.saved = [] → x.cores.any s.resyncing = false → x.resumeT ≠ 0 → x.resumeT ≤ s.now → x.cores.Nodup →
    Gives (exec (.gangResume g) s) fun t => t.mem = s.mem ∧ (gang t fun z => z.st = .running ∧ z.cores = x.cores)
      ∧ ∀ d ∈ x.cores, same t d ∧ (t.core d).prog.tasks
        = (s.core d).prog.tasks.map (fun q => { q with start := q.start + (x.resumeT - x.stopT) }))
  ∧ (has → x.st = .halting → x.haltT ≤ s.now → x.step = 0 →
    (∀ d ∈ x.cores, d ∉ x.trapped → s.inst d (s.first d x.haltT) ≤ s.now) →
    Gives (exec (.gangHalt g) s) fun t => stays t ∧ (gang t fun z => z.st = .halted)
      ∧ ∀ d ∈ x.cores, same t d ∧ (d ∉ x.trapped → (s.core d).halts = true → (t.core d).seq.st = .halt ∧ (t.core d).seq.counting = false
        ∧ (t.core d).seq.cif = (s.core d).cifAt (s.cyc d)))
  ∧ (has → x.st = .halted → x.restartT ≤ s.now → x.ready = true → x.retts ≠ [] →
    Gives (exec (.gangRestart g) s) fun t => t.mem = s.mem
      ∧ (gang t fun z => z.st = .running ∧ z.trapped = [] ∧ z.retts = [] ∧ z.ended = [] ∧ z.byDebug = false)
      ∧ ∀ d ∈ x.cores, let q := s.core d
        same t d ∧ (q.seq.st = .halt → (∃ r ∈ x.retts, r.1 = d) → q.priv = true →
          (t.core d).priv = false ∧ (t.core d).timed = (match q.prog.cur with | some u => u.timed | none => false)
          ∧ (t.core d).stepBit = getB q.tr.cause 9 ∧ (t.core d).fl.frozen = []
          ∧ (t.core d).tr.ngp = (if q.tr.tngp = BitVec.allOnes 64 ∨ getF q.tr.status 0 4 = 15 then q.tr.ngp else q.tr.tngp)))
  ∧ (k.prog.tasks = tk :: rest → s.launchOf c = some (l, y) → k.seq.st = .idle → k.seq.counting = true → k.prog.cur = none →
    tk.start ≤ s.now → Gives (exec (.taskStart c) s) fun t =>
      let q := t.core c
      stays t ∧ (∀ d, d ≠ c → t.core d = s.core d) ∧ q.prog.cur = some tk ∧ q.prog.tasks = rest ∧ q.priv = false ∧ q.timed = tk.timed
      ∧ q.ct.cbase = q.ct.cc ∧ q.seq.pc = tk.entry ∧ q.seq.armed = true ∧ q.seq.reach = s.cyc c ∧ q.sc = k.sc
      ∧ DueBy t (s.inst c (s.cyc c)) (.groupReach c)
      ∧ (k.prog.firstDone = true → q.ct.cc = k.ct.cc ∧ q.vec = k.vec ∧ q.tile = k.tile ∧ q.tr.svec = k.tr.svec)
      ∧ (k.prog.firstDone = false → q.ct.cc = Vector.replicate 16 0 ∧ q.ct.dcr = Vector.replicate 16 0 ∧ q.vec.k = Vector.replicate 8 0
        ∧ q.cube.ccfg = 0 ∧ q.tr.svec = (s.ctx y.ctx).trapvec ∧ q.tr.ssp = ((s.ctx y.ctx).trapstk &&& 0xFFFFFFFF)
        ∧ q.ct.launchid = y.img.launchId ∧ q.ct.gm = gmOf y.img c ∧ getF q.tr.status 16 6 = 0))

/-! ### The timebase, regions and their sources -/

/-- R27, R28, R29, R32, R34 to R39, R322, R323, R327, R348, R349: what disciplines the PTC, the port of the best master (as log 42 has
it), and holdover; the PTC is set only while no launch is admitted, and starts from 0 with PTCERR all ones where no source comes; a
source's edges start and stop a region's relock, the samples that a port takes make port frames, each with its edge at its presentation
time, lock lets frames start it, a HELD region is STOPPED at its holdover limit and its clock gated when its engines are done; and a frame
that ends begins the next one, or leaves the region HELD. Where a delay is not stated it is a free value (log 4), and the order of acts
within one instant is the model's own (log 5). What the rules leave open of it is logs 14 and 18. -/
def Obligations.ClocksAndSources : Prop := ∀ (s : State) (port : Fin 8) (bound : W64) (x : PtpSet) (n r : Nat) (p : Fin 16)
    (src : SampleSrc) (vals : List W32) (at_ e : Nat) (g : Region) (f : PortFrame) (c : Nat),
  let has := AMap.get? s.regions r = some g
  let q := s.port p.val
  let fed := fun (st : RSt) => ∀ x ∈ s.ofPort p.val, AMap.get? s.regions x.1 = some x.2 ∧ x.2.st = st ∧ x.2.desc.q = n
  -- a bound of at most 20 ticks through one boundary clock (R323)
  let cap := fun (z : Pkg) (i : Nat) (b : W64) => match AMap.get? z.ptp i with
    | some x => if x.steps = 1 ∧ 20 < b.toNat then 20 else b
    | none => b
  let disc := fun (o : Out) (d : Discipline) (b : Option W64) => Gives o fun t =>
    t = { s with
      pkg := { s.pkg with disc := d, ptcerr := t.pkg.ptcerr, ptpBound := b.elim s.pkg.ptpBound (AMap.put s.pkg.ptpBound port.val) }
      agenda := t.agenda, freeCtr := t.freeCtr }
    ∧ (∀ e, b = some e → t.pkg.ptcerr = cap s.pkg port.val e)
    ∧ (getF s.pkg.bootst 0 4 ≠ 4 → t.agenda = s.agenda)
  let wholeTicks := fun (t : State) (n : Nat) => t.now = n * tick ∧ t.ptc = n
  let moved := fun (t : State) (keep : Due → Bool) => ∀ u ∈ s.agenda, keep u = true →
    (⟨t.now + (u.t - s.now), u.rank, u.act⟩ : Due) ∈ t.agenda
  let onPtp := ∃ i, s.pkg.disc = .ptp i
  let gone := { s.pkg with ptp := AMap.del s.pkg.ptp port.val, ptpBound := AMap.del s.pkg.ptpBound port.val }
  let heard : List (PtpMsg × Pkg) := [(.announce x, { s.pkg with ptp := AMap.put s.pkg.ptp port.val x }), (.lost, gone)]
  let takes := (src = .pins ∧ q.mode = 2 ∧ at_ = s.now / tick ∧ e = s.now)
    ∨ ((∃ fmt : Fin 4, src = .avtp q.spsid true fmt at_ ∧ fmt.val = getF q.spcfg 22 2) ∧ q.mode = 1 ∧ e = at_ * tick)
  let sample := convSample (getF q.spcfg 22 2) (getF q.spcfg 24 8) vals
  let bytes := (q.rx ++ [sample]).flatMap (fun v => v.flatMap (fun x => leBytes (sfmtBytes (getF q.spcfg 22 2)) x.toNat))
  let stopAt := g.lastLand + g.desc.holdlim * g.desc.q * g.desc.nper * nperUnit
  let ends := g.st = .running ∧ s.now = instOf (some g) (g.fbase + g.desc.p) ∧ (∀ o, g.reads = some o → o ≤ g.lastOrder)
    ∧ ∀ x ∈ s.gangsOf g, x.2.st = .running
  let k := s.core c
  let len := s.frameLen k
  let rc := s.cyc c
  (s.pkg.bestPort = some port.val → disc (exec (.ptpMessage port (.timing bound)) s) (.ptp port.val) (some bound))
  ∧ (s.pkg.bestPort ≠ some port.val → exec (.ptpMessage port (.timing bound)) s
      = .next { s with pkg := { s.pkg with ptpBound := AMap.put s.pkg.ptpBound port.val bound } })
  ∧ (∀ h ∈ heard, let o := exec (.ptpMessage port h.1) s
    (¬ onPtp ∨ h.2.bestPort = none → o = .next { s with pkg := h.2 })
    ∧ (onPtp → ∀ b, h.2.bestPort = some b → o = .next { s with pkg := { h.2 with
      disc := .ptp b, ptcerr := cap h.2 b ((AMap.get? h.2.ptpBound b).getD s.pkg.ptcerr) } }))
  ∧ disc (exec .timingReferencePulse s) .pins none
  ∧ ((∃ i, s.pkg.disc = .ptp i) ∨ s.pkg.disc = .pins → Gives (exec .holdover s) fun t =>
    t.pkg = { s.pkg with disc := .holdover s.now s.freeCtr } ∧ t.mem = s.mem ∧ t.now = s.now ∧ t.regions = s.regions)
  ∧ (s.pkg.disc = .none ∨ (∃ i m, s.pkg.disc = .holdover i m) → exec .holdover s = .next s)
  ∧ ((∀ l ∈ s.launches, l.2.st = .retired) → Gives (exec (.ptcStep n) s) fun t =>
    wholeTicks t n ∧ moved t (fun _ => true) ∧ t.mem = s.mem ∧ t.cores = s.cores)
  ∧ ((∃ l ∈ s.launches, l.2.st ≠ .retired) → exec (.ptcStep n) s = .next s)
  ∧ (getF s.pkg.bootst 0 4 = 4 → getF s.pkg.bootst 8 8 = 0 → s.pkg.disc = .none → (∀ u ∈ s.agenda, u.act ≠ .mi (.bringUp 5)) →
    Gives (exec .ptcLockTimeout s) fun t => wholeTicks t 0 ∧ t.pkg = { s.pkg with ptcerr := BitVec.allOnes 64 }
      ∧ moved t (fun u => u.act ≠ .ev .ptcLockTimeout) ∧ t.mem = s.mem ∧ t.cores = s.cores
      ∧ ∃ u ∈ t.agenda, u.act = .mi (.bringUp 5))
  ∧ ((src = .pins → q.mode ≠ 2) → (∀ sid aaf fmt u, src = .avtp sid aaf fmt u →
      ¬ (q.mode = 1 ∧ aaf = true ∧ sid = q.spsid ∧ fmt.val = getF q.spcfg 22 2)) → exec (.sampleArrival p src vals) s = .next s)
  ∧ (takes → fed .running → s.ofPort p.val ≠ [] → Gives (exec (.sampleArrival p src vals) s) fun t =>
    let u := t.port p.val
    let whole := ¬ q.rx.length + 1 < n
    t.mem = s.mem ∧ t.now = s.now ∧ (e ≤ s.now → u.edges = true ∧ u.lastEdge = e)
    ∧ (s.now < e → u.edges = q.edges ∧ u.lastEdge = q.lastEdge ∧ ∃ d ∈ t.agenda, d.t = e ∧ d.act = .mi (.sampleEdge p.val)) ∧ (∀ i, i < 16 → i ≠ p.val → t.port i = s.port i)
    ∧ (¬ whole → u.rx = q.rx ++ [sample] ∧ u.taint = q.taint ∧ u.slots = q.slots)
    ∧ (whole → u.rx = [] ∧ u.taint = false)
    ∧ (whole → q.taint = true → u.slots = q.slots)
    ∧ (whole → q.taint = false → (∃ x ∈ s.ofPort p.val, ∀ y ∈ s.gangsOf x.2, y.2.st = .running) → u.order = q.order + 1 ∧
      (let z : PortFrame := ⟨bytes, n, at_, q.order + 1⟩
       (∀ b, q.slots = (.empty, b) → u.slots = (.ready z, b)) ∧ (∀ a, a ≠ .empty → q.slots = (a, .empty) → u.slots = (a, .ready z))
       ∧ (∀ a b, q.slots = (.ready a, .ready b) → u.slots = if a.order < b.order then (.ready z, .ready b) else (.ready a, .ready z))
       ∧ (∀ a b, q.slots = (.inUse a, .ready b) → u.slots = (.inUse a, .ready z))
       ∧ (∀ a b, q.slots = (.ready a, .inUse b) → u.slots = (.ready z, .inUse b)))))
  ∧ (Gives (exec (.sourceEdgesReturn p) s) fun t => (t.port p.val) = { q with edges := true } ∧ t.mem = s.mem
    ∧ (has → g.desc.src = p.val + 1 → g.st = .stopped → ∃ m, 1 ≤ m ∧ m ≤ 64 ∧ AMap.get? t.regions r
      = some { g with st := .relocking, locked := false, lockLeft := some m, gated := false }))
  ∧ (Gives (exec (.sourceEdgesCease p) s) fun t => (t.port p.val) = { q with edges := false } ∧ t.mem = s.mem
    ∧ (has → g.desc.src = p.val + 1 → g.st = .relocking → AMap.get? t.regions r
      = some { g with st := .stopped, locked := false, lockLeft := none }))
  ∧ (has → g.st = .relocking → g.locked = false → Gives (exec (.rcgLock r) s) fun t =>
    t = { s with regions := t.regions, ports := t.ports, pkg := t.pkg } ∧ AMap.get? t.regions r = some { g with
      locked := true, lockLeft := none, lastOrder := (s.port (g.desc.src - 1)).order }
    ∧ (g.started = true → t.pkg = s.pkg) ∧ (g.started = false → t.pkg = { s.pkg with islandMv := t.pkg.islandMv }
      ∧ ∀ i ∈ g.desc.isl, AMap.get? t.pkg.islandMv i = some (s.powerEntry i).mv)
    ∧ (∀ i : Fin 16, i.val = g.desc.src - 1 → t.port i.val = { s.port i.val with taint := !(s.port i.val).rx.isEmpty }))
  ∧ (has → g.st = .held → s.now < stopAt → Gives (exec (.srcStop r) s) fun t =>
    t = { s with agenda := t.agenda } ∧ DueAt t stopAt (.srcStop r))
  ∧ (has → g.st = .held → stopAt ≤ s.now → Gives (exec (.srcStop r) s) fun t => t.mem = s.mem ∧ t.now = s.now
    ∧ AMap.get? t.regions r = some { g with st := .stopped, locked := false, lockLeft := none } ∧ DueFrom t s.now (.regionClockGate r))
  ∧ (has → g.st = .stopped → (∀ d ∈ s.liveIn r, (s.core d).working (s.cyc d) = false) → Gives (exec (.regionClockGate r) s) fun t =>
    t = { s with regions := t.regions } ∧ AMap.get? t.regions r = some { g with gated := true })
  ∧ (has → ends → (s.port (g.desc.src - 1)).oldest g.lastOrder = none → Gives (exec (.frameEnd (.region r)) s) fun t =>
    t.mem = s.mem ∧ AMap.get? t.regions r = some { g with st := .held, reads := none } ∧ DueBy t stopAt (.srcStop r)
    ∧ ∀ d, (s.core d).seq.region = some r → (t.core d).seq.counting = false)
  ∧ (has → ends → (s.port (g.desc.src - 1)).oldest g.lastOrder = some f → Gives (exec (.frameEnd (.region r)) s) fun t =>
    t.mem = s.mem ∧ ∃ h, AMap.get? t.regions r = some h ∧ h.st = .running ∧ h.anchorT = s.now ∧ h.anchorR = h.fbase
      ∧ h.fbase = firstCycle (some g) s.now ∧ h.per = g.desc.p ∧ h.fn = (if g.started then g.fn + 1 else 0) ∧ h.started = true
      ∧ h.reads = some f.order ∧ h.lastOrder = f.order ∧ tbCycle * g.desc.p ≤ h.len ∧ h.len ≤ 2129920 * g.desc.p
      ∧ (∀ x, x = s.port (g.desc.src - 1) → x.ivl ≠ 0 → (x.ivl = x.ivl2 ∨ x.ivl = g.desc.nper * nperUnit) →
        tbCycle * g.desc.p ≤ x.ivl * g.desc.q → x.ivl * g.desc.q ≤ 2129920 * g.desc.p → h.len = x.ivl * g.desc.q)
      ∧ DueBy t (instOf (some h) (h.fbase + g.desc.p)) (.frameEnd (.region r)))
  ∧ (k.seq.counting = true → len ≠ 0 → k.seq.atEnd = true ∨ k.seq.cif.toNat + (rc - k.seq.ref) = len → s.coreLost c = false →
    s.lockedRegion k = none → Gives (exec (.frameEnd (.core c)) s) fun t => OnlyCore s t c
      ∧ t.core c = { k with seq := { k.seq with cif := 0, atEnd := false, ref := rc, fn := k.seq.fn + 1 } }
      ∧ DueBy t (s.inst c (rc + len)) (.frameEnd (.core c)))

/-! ### The sequencer of a core -/

/-- R49, R58, R69, R70, R96, R142, R144, R148, R244, R277, R278, R292 to R294: REALIGN restarts the frame at its tick, in a saved context too;
TWAIT is left with G
advanced and, with Z, the frame restarted; a group idles for its GAP and its stamp, waits where a page of its text is being moved, is
raised whole where it cannot be fetched, is malformed, comes late to its stamp or meets a held fault, and else begins to issue its slots;
an open window takes the earliest pending completion, the lower channel on a tie, and closes after its last cycle. That a REALIGN acts on
a member's saved context is the model's reading (log 39), and so is that a pending completion stays pending as the window closes (log 26).
Where a delay is not stated it is a free value (log 4), and the order of acts within one instant is the model's own (log 5). Where a
pending LATE_START and held faults stand against the steps of R148, and that a held MM_RACE is met by a group without slots too, is
log 21. -/
def Obligations.SequencerEvents : Prop := ∀ (s : State) (c at_ : Nat) (x : W64) (z : Bool) (w tm : Nat) (ch : Fin 16)
    (slots : List SlotWord) (next a : W64) (b : Bool) (stamp : Option Nat) (st : Nat),
  let k := s.core c
  let r := s.cyc c
  let len := s.frameLen k
  let restart := { k with seq := { k.seq with cif := 0, atEnd := false, ref := r, fn := k.seq.fn + 1 } }
  let aligned := if at_ ∈ k.seq.realign then
      { k with seq := { k.seq with
        cif := 0, atEnd := false, ref := if k.seq.counting then r else k.seq.ref, fn := k.seq.fn + 1
        realign := k.seq.realign.filter (fun y => y ≠ at_) } }
    else k
  let goes := k.seq.armed = true ∧ (k.seq.stepDue = true → k.priv = true) ∧ k.seq.reach ≤ r ∧ (k.seq.st = .run ∨ k.seq.st = .wait ∨ k.seq.st = .trap) ∧
    (k.seq.counting = true ∨ k.priv = true)
  let gap := if k.seq.kind = .none ∨ k.seq.kind = .twait then s.headGap c k.seq.pc else 0
  let comes := goes ∧ gap = 0 ∧ k.seq.late = none
  let met := comes ∧ s.fetchHeld c k.seq.pc = none
  let o := exec (.groupReach c) s
  let raised := fun (code : Nat) (straddle : Bool) (faddr : W64) => Gives o fun t => let q := t.core c
    (∀ d, d ≠ c → t.core d = s.core d) ∧ t.mem = s.mem ∧ t.now = s.now ∧ t.issue.active = false
    ∧ q.tr.cause = BitVec.ofNat 64 (code + b2n straddle * 2 ^ 8 + b2n k.stepBit * 2 ^ 9) ∧ q.tr.faddr = faddr ∧ q.tr.epc = k.seq.pc
    ∧ q.priv = true ∧ q.timed = false ∧ q.stepBit = false ∧ q.seq.pc = k.tr.svec ∧ q.sc = k.sc ∧ q.vec = k.vec ∧ q.tile = k.tile
    ∧ q.fl.regs = []
  let late := (st + 2 ^ 20 - (k.cifAt r).toNat % 2 ^ 20) % 2 ^ 20
  let stamped := k.timed = true ∧ k.inui = false ∧ k.seq.kind ≠ .stamp
  let since := if k.seq.kind = .stamp ∧ k.seq.reenter = none then k.seq.reachedAt else r
  let free := (k.ui.overrun = false ∨ k.inui = false ∨ k.priv = true)
    ∧ (k.seq.held = [] ∨ k.priv = true ∧ ∀ h ∈ k.seq.held, h.1 = cMmRace)
    ∧ (k.priv = false ∨ startsRett slots = false ∨ k.fl.regs = [] ∧ k.oldsOut = false)
  let v : W64 := BitVec.ofNat 64 (ch.val + (k.ct.cc[ch]).toNat * 16)
  let logged := (k.ui.pend.filter (fun p => k.ui.opened < p.1)).foldl (fun d _ => dcrAdd d 0x0D k.ui.pc.toNat 1) k.ct.dcr
  (Gives (exec (.realignTick c at_) s) fun t => OnlyCore { s with gangs := t.gangs } t c ∧ t.core c = aligned
    ∧ (at_ ∈ k.seq.realign → k.seq.counting = true → len ≠ 0 → DueBy t (s.inst c (r + len)) (.frameEnd (.core c)))
    ∧ ∀ n g y, AMap.get? s.gangs n = some g → AMap.get? g.saved c = some y → ∃ g' y', AMap.get? t.gangs n = some g'
      ∧ AMap.get? g'.saved c = some y' ∧ (at_ ∈ y.seq.realign → y'.seq.cif = 0 ∧ y'.seq.fn = y.seq.fn + 1)
      ∧ (at_ ∉ y.seq.realign → y' = y))
  ∧ (k.seq.twLeave = some (x, z) → k.seq.kind = .twait → k.seq.reach = r → k.seq.armed = true →
    (k.seq.st = .wait ∨ k.seq.st = .run ∨ k.seq.st = .trap) → Gives (exec (.twaitLeave c) s) fun t => OnlyCore s t c
      ∧ t.core c = { (if z then restart else k) with
        eng := (t.core c).eng
        ct := { k.ct with g := k.ct.g + 1 }
        seq := { (if z then restart else k).seq with twLeave := none } })
  ∧ (k.seq.twLeave = none → exec (.twaitLeave c) s = .next s)
  ∧ (k.seq.armed = false → o = .next s)
  ∧ (goes → gap ≠ 0 → k.seq.late = none → Gives o fun t => OnlyCore s t c
      ∧ (t.core c).seq = { k.seq with kind := .gap, reach := r + gap, armed := true }
      ∧ (t.core c).sc = k.sc ∧ (t.core c).tr = k.tr ∧ (t.core c).fl = k.fl ∧ DueBy t (s.inst c (r + gap)) (.groupReach c))
  ∧ (goes → k.priv = false → k.seq.late = some (x, b) → raised 0x1B false x)
  ∧ (comes → s.fetchHeld c k.seq.pc ≠ none → Gives o fun t => t = { s with cores := t.cores, dies := t.dies }
    ∧ (∀ d, d ≠ c → t.core d = s.core d) ∧ (t.core c).sc = k.sc ∧ (t.core c).tr = k.tr ∧ (t.core c).fl = k.fl
    ∧ (t.core c).seq = { k.seq with kind := if k.seq.kind = .none ∨ k.seq.kind = .twait then .gap else k.seq.kind }
    ∧ ∃ d m, m ∈ (t.die d).migr ∧ (.groupReach c ∈ m.held ∨ .groupReach c ∈ m.direct))
  ∧ (met → k.priv = false → s.fetch c k.seq.pc = .fault a b → raised 0x10 b a)
  ∧ (met → k.priv = false → s.fetch c k.seq.pc = .illegal a → raised 0x01 false a)
  ∧ (met → k.priv = true → startsRett slots = true → stamp = none → s.fetch c k.seq.pc = .group slots next stamp →
      k.fl.regs ≠ [] ∨ k.oldsOut = true → Gives o fun t => t.issue.active = s.issue.active ∧ (t.core c).sc = k.sc ∧ (t.core c).tr = k.tr
        ∧ (t.core c).seq.armed = true ∧ r < (t.core c).seq.reach ∧ DueBy t (s.inst c (t.core c).seq.reach) (.groupReach c))
  ∧ (met → s.fetch c k.seq.pc = .group slots next stamp → free →
      (stamp = some st → stamped → 2 ^ 19 ≤ late → k.priv = false →
        raised 0x05 false (BitVec.ofNat 64 (st + (k.cifAt r).toNat * 2 ^ 20)))
      ∧ (stamp = some st → stamped → late ≠ 0 → late < 2 ^ 19 → Gives o fun t => OnlyCore s t c
        ∧ (t.core c).seq.kind = .stamp ∧ (t.core c).seq.reach = r + late ∧ (t.core c).seq.pc = k.seq.pc ∧ (t.core c).sc = k.sc
        ∧ (t.core c).tr = k.tr ∧ DueBy t (s.inst c (r + late)) (.groupReach c))
      ∧ ((stamp = none ∨ ¬ stamped ∨ (stamp = some st ∧ late = 0)) → k.seq.reenter = none → Gives o fun t =>
        OnlyCore { (if k.timed then s else { s with freeCtr := t.freeCtr, dies := t.dies, targets := t.targets }) with issue := t.issue } t c
        ∧ t.issue = { Issue.none with active := true, core := c, base := k.seq.pc, next := next, slots := slots, s0pc := k.seq.pc }
        ∧ (t.core c).tr = { k.tr with ngp := next } ∧ (t.core c).seq.armed = false ∧ (t.core c).sc = k.sc ∧ (t.core c).vec = k.vec
        ∧ (t.core c).tile = k.tile ∧ (t.core c).fl.regs = k.fl.regs))
  ∧ (met → k.priv = false → s.fetch c k.seq.pc = .group slots next none → (k.ui.overrun = false ∨ k.inui = false) →
      (∀ code n, k.seq.held = [(code, a, n)] → code < 256 → (code = cMmRace → n ≤ since ∨ n = r) → (code = cLateStart → n ≤ since) →
        raised code false a))
  ∧ (k.ui.win = some w → (tm, ch.val) ∈ k.ui.pend → (∀ p ∈ k.ui.pend, tm < p.1 ∨ (tm = p.1 ∧ ch.val ≤ p.2)) →
      k.inui = false → k.priv = false → r ≤ w → k.ui.opened < s.now → (k.seq.st = .run ∨ k.seq.st = .wait) → k.seq.kind = .uiwin →
      Gives (exec (.userInterrupt c) s) fun t => OnlyCore s t c ∧ (t.core c).sc = { k.sc with sh := k.sc.sh.set 7 v }
        ∧ (t.core c).tr = { k.tr with status := setB k.tr.status 7 true } ∧ (t.core c).ui = { k.ui with pend := k.ui.pend.erase (tm, ch.val) }
        ∧ (t.core c).seq = { k.seq with pc := k.sc.uivec, kind := .none, st := .run, reach := r + 1, armed := true }
        ∧ DueBy t (s.inst c (r + 1)) (.groupReach c))
  ∧ (k.ui.pend = [] → exec (.userInterrupt c) s = .next s)
  ∧ (k.ui.win = some w → w < r → Gives (exec (.uiwinClose c) s) fun t => OnlyCore s t c
      ∧ t.core c = { k with
        eng := (t.core c).eng
        ct := { k.ct with dcr := logged }
        ui := { k.ui with win := none, overrun := k.inui } })

/-! ### Engines at work -/

/-- R60, R61, R93, R94, R228, R229, R231, R233 to R236, R277, R283: a copy starts, moves its lines, performs its accesses with the checks
of its target, lands its beats at a receiver that is checked first, in the entry that a beat's view named when it came, and completes: the status word is written at the 60th byte of the
descriptor, the counter of its channel grows, the fault is left for a CHK, and the next command may start. Each access to a tile store
asks for its bank in a cycle and takes effect in the one in which the bank serves it (R71, R85); no padding is written (R84), and what a
copy finds there is a free value (log 37). That a copy takes its lines one after another, each translated, sent, checked and performed
before the next, is the model's choice, and so is how its beats ask for their banks (log 29). Memory is read and written under the key of the page (R98), and a read that races is left out
here (R281). Where a delay is not stated it is a free value (log 4), and the order of acts within one instant is the model's own
(log 5). -/
def Obligations.CopyEvents : Prop := ∀ (s : State) (c : Nat) (ch : Fin 4) (x : CopyCmd) (rest : List CopyCmd) (b : Beat) (q : Req)
    (tl : TlbEnt) (tr : Trans) (a target : Nat),
  let k := s.core c
  let head := k.eng.chans[ch] = x :: rest
  let runs := head ∧ x.started = true
  let with_ := fun (t : State) (y : CopyCmd) (l : Nat) =>
    t.core c = { k with eng := { k.eng with chans := k.eng.chans.set ch.val (y :: rest), lastPerf := l } }
  let perf := if x.perf then k.eng.lastPerf else s.now
  let line := fun (va : Nat) => BitVec.ofNat 64 (va / 64 * 64)
  let ends := fun (o : Out) (code : Nat) (faddr : W64) => Gives o fun t => OnlyCores s t [c]
    ∧ with_ t { x with code := code, faddr := faddr, rq := none, perf := true } perf ∧ DueAt t s.now (.copyCompletion c ch.val)
  let closes := fun (o : Out) => k.held = false → Gives o fun t => OnlyCores s t [c] ∧ with_ t { x with perf := true } perf
    ∧ DueAt t s.now (.copyCompletion c ch.val)
  let start := fun (d : Nat) => s.now = s.inst d (s.cyc d)
  let turn := fun (d : Nat) (id : Nat × Nat) (e : TEntry) (j : Nat) => start d ∧ (s.core d).asking id (s.cyc d) = true
    ∧ (s.core d).served id (entBank e j) (s.cyc d) = true
  let writable := fun (e : TEntry) (bs : List MByte) => bs.filter (fun b => !entPad e b.off)
  let le := k.ent x.lindex
  let next := exec (.copyLine c ch.val) s
  let mine := turn c (ch.val, 0) le (k.localAt x x.pos / 64)
  let n := Nat.min (k.piece x) (x.bits.length - x.pos)
  let landed : List MByte := ((x.bits.drop x.pos).take n).zipIdx.map (fun p => ⟨k.localAt x (x.pos + p.2), p.1, 0xFF⟩)
  let xn := k.piece x
  let off := x.desc.far x.desc.foff x.pos
  let beat := fun (op : Option CpyaOp) => (⟨c, ch.val, x.id, x.desc.fv, if off < 0 then 2 ^ 40 else off.toNat,
    (k.source x xn s.free).zipIdx.map (fun p => (p.2, p.1)), op⟩ : Beat)
  let va := (k.nextReq x).1
  let asks : Prop := runs ∧ x.rq = some q ∧ s.dpa q.dpa = some (target, a) ∧ s.migrOf a true = none ∧ s.migrOf a false = none
  let perform := exec (.memoryAccessPerform c ch.val) s
  let grants := s.grants target (s.masterOf c) x.op.kind (pteKey q.pte)
  let code := x.final
  let done := exec (.copyCompletion c ch.val) s
  -- the sender of a beat, and the receiver
  let w := s.core b.src
  let y := w.eng.chans.toArray.getD b.ch []
  let answers := fun (code : Nat) => Gives (exec (.remoteBeatArrival c b) s) fun t => OnlyCores s t [c, b.src]
    ∧ (∃ z, (t.core b.src).running b.ch = some z ∧ z.code = code ∧ z.pos = x.pos) ∧ (t.core c).tile = k.tile
    ∧ DueFrom t s.now (.copyLine b.src b.ch)
  let sent := w.running b.ch = some x ∧ x.id = b.cmd ∧ y ≠ [] ∧ start c
  let here := s.receives c = true ∧ k.seq.launch = w.seq.launch
  let bid := (5, b.src * 4 + b.ch)
  let found := fun (p : Nat × BitVec 8 × TEntry) => k.gotOf bid = some p
    ∨ (k.gotOf bid = none ∧ x.rent = none ∧ k.viewOk b.view = true
      ∧ p = ((k.view b.view).index.toNat, (k.view b.view).gen, k.ent (k.view b.view).index.toNat))
  let arrive := exec (.remoteBeatArrival c b) s
  (head → x.started = false → x.waits = [] → k.seq.st ≠ .suspend → k.held = false → (∀ p, x.op ≠ .input p) →
    Gives (exec (.copyCommandStart c ch.val) s) fun t => OnlyCores s t [c]
      ∧ with_ t { x with started := true, startC := s.cyc c } k.eng.lastPerf
      ∧ DueFrom t s.now (.copyLine c ch.val))
  ∧ (head → x.started = true ∨ x.waits ≠ [] ∨ k.seq.st = .suspend → exec (.copyCommandStart c ch.val) s = .next s)
  ∧ (∀ p, head → x.started = false → x.waits = [] → k.seq.st ≠ .suspend → k.held = false → x.op = .input p → (s.port p).mode = 3 → (s.port p).units = [] →
    Gives (exec (.copyCommandStart c ch.val) s) fun t => OnlyCores s t [c] ∧ DueAt t s.now (.copyCompletion c ch.val)
      ∧ ∃ z, (t.core c).running ch.val = some z ∧ z.code = 8)
  ∧ (runs → (x.op = .out ∨ x.op = .loc ∨ x.op = .x) → x.pos = x.desc.total → closes next)
  ∧ (runs → k.held = false → (∃ p, x.op = .input p) ∧ x.pos ≠ x.bits.length ∨ (x.op = .out ∨ x.op = .x) ∧ x.pos ≠ x.desc.total ∧ x.code = 0 →
    let id := (ch.val, 0)
    let again := fun (u : Nat) => Gives next fun t => OnlyCores s t [c] ∧ (t.core c).tile = k.tile ∧ (t.core c).running ch.val = some x
      ∧ DueBy t u (.copyLine c ch.val)
    (start c → k.asking id (s.cyc c) = false → again s.now)
    ∧ (start c → k.asking id (s.cyc c) = true → k.served id (entBank le (k.localAt x x.pos / 64)) (s.cyc c) = false →
      again (s.inst c (s.cyc c + 1))))
  ∧ (runs → ∀ p, x.op = .input p →
    (x.pos = x.bits.length → closes next)
    ∧ (x.pos ≠ x.bits.length → k.held = false → mine → Gives next fun t => OnlyCores s t [c]
      ∧ (t.core c).tile = (k.store le (writable le landed)).tile ∧ (t.core c).sc = k.sc
      ∧ (∃ z, (t.core c).running ch.val = some z ∧ z.pos = x.pos + ((x.bits.drop x.pos).take n).length)
      ∧ DueBy t (s.inst c (s.cyc c + 1)) (.copyLine c ch.val)))
  ∧ (runs → ∀ op, (x.op = .x ∧ op = none ∨ ∃ f g, x.op = .red f g ∧ op = some f) → x.pos ≠ x.desc.total → x.code = 0 →
    k.held = false → mine → Gives next fun t => OnlyCores s t [c] ∧ (t.core c).tile = k.tile
      ∧ DueFrom t (s.now + s.latT c x.desc.fcore) (.remoteBeatArrival x.desc.fcore (beat op)))
  ∧ (runs → x.rq = none → x.code = 0 → s.walk (s.ctxOf c) va = none →
    ends (exec (.translationWalk c (.copy ch.val)) s) 1 (line va))
  ∧ (runs → x.rq = none → x.code = 0 → fld va 57 7 = 0 → s.walk (s.ctxOf c) va = some tl →
    (s.through (s.ctxOf c) va tl x.op.kind x.priv = some tr → Gives (exec (.translationWalk c (.copy ch.val)) s) fun t =>
      t = { s with cores := t.cores, dies := t.dies, agenda := t.agenda, freeCtr := t.freeCtr } ∧ tl ∈ (t.core c).eng.tlb
      ∧ (∃ z, (t.core c).running ch.val = some z ∧ z.rq = some ⟨va, tr.dpa, tr.pte, tr.size⟩ ∧ z.pos = x.pos)
      ∧ DueFrom t s.now (.memoryAccessPerform c ch.val))
    ∧ (s.through (s.ctxOf c) va tl x.op.kind x.priv = none → Gives (exec (.translationWalk c (.copy ch.val)) s) fun t =>
      (∃ z, (t.core c).running ch.val = some z ∧ z.code = 1 ∧ z.faddr = line va) ∧ DueAt t s.now (.copyCompletion c ch.val)))
  ∧ (asks → grants = false → Gives perform fun t => t.mem = s.mem ∧ (t.core c).tile = k.tile
      ∧ (∃ z, (t.core c).running ch.val = some z ∧ z.code = 3 ∧ z.faddr = line q.va ∧ z.pos = x.pos) ∧ DueAt t s.now (.copyCompletion c ch.val))
  ∧ (asks → grants = true → (pteChk q.pte = false ∨ 9 ≤ target) →
    (x.op = .out → Gives perform fun t => t.mem = (s.memPut (pteKey q.pte) a x.buf).mem
      ∧ (∃ z, (t.core c).running ch.val = some z ∧ z.pos = x.pos + x.buf.length ∧ z.rq = none ∧ z.buf = [])
      ∧ DueBy t (s.inst c (s.cyc c + 1)) (.copyLine c ch.val))
    ∧ (x.op = .inn → s.racing (s.launchNo c) c x.g a = false → Gives perform fun t => t.mem = s.mem ∧ (t.core c).tile = k.tile
      ∧ (∃ z, (t.core c).running ch.val = some z ∧ z.buf = s.memRead (pteKey q.pte) a (k.piece x) ∧ z.rq = none ∧ z.pos = x.pos)
      ∧ DueFrom t s.now (.copyLine c ch.val)))
  ∧ (sent → ¬ here → answers 5)
  ∧ (sent → here → k.gotOf bid = none → x.rent = none → k.viewOk b.view = false → answers 4)
  ∧ (∀ p, sent → here → found p → entSize p.2.2 < b.off + b.bytes.length → answers 12)
  ∧ (∀ p op, sent → here → found p → b.off + b.bytes.length ≤ entSize p.2.2 → b.op = some op → entTag p.2.2 ≠ cpyaTag op → answers 11)
  ∧ (∀ p, sent → here → found p → b.off + b.bytes.length ≤ entSize p.2.2 → (∀ op, b.op = some op → entTag p.2.2 = cpyaTag op) →
    let asked := k.asking bid (s.cyc c) = true
    let let_ := k.letBy bid (s.cyc c) = true
    let serves := k.served bid (entBank p.2.2 (b.off / 64)) (s.cyc c) = true
    let may := (s.landCore c).permits 8 b.view true = true
    let waits := fun (u : Nat) => Gives arrive fun t => OnlyCores s t [c] ∧ (t.core c).tile = k.tile ∧ DueBy t u (.remoteBeatArrival c b)
    (¬ asked → waits s.now ∧ ((∀ q ∈ k.fl.reqs, q.id ≠ bid) → Gives arrive fun t => (t.core c).gotOf bid = some p))
    ∧ (asked → ¬ let_ → (¬ serves ∨ may) → waits s.now)
    ∧ (asked → ¬ let_ → serves → ¬ may → Gives arrive fun t => (t.core c).tile = k.tile ∧ t.mem = s.mem
      ∧ (∃ z, (t.core b.src).running b.ch = some z ∧ z.code = 6 ∧ z.pos = x.pos)
      ∧ (t.core c).seq.held = k.seq.held ++ [(0x12, BitVec.ofNat 64 (2 ^ 63 + 8 * 2 ^ 24 + b.view % 256 * 2 ^ 16 + b.src % 4096), s.cyc c)]
      ∧ DueFrom t s.now (.copyLine b.src b.ch))
    ∧ (asked → let_ → ¬ serves → waits (s.inst c (s.cyc c + 1)))
    ∧ (asked → let_ → serves → b.op = none → (∀ f g, x.op ≠ .red f g) → Gives arrive fun t => OnlyCores s t [c, b.src]
      ∧ (t.core c).tile = (k.store p.2.2 (writable p.2.2 (wholeBytes b.off (b.bytes.map (·.2))))).tile ∧ (t.core c).sc = k.sc
      ∧ (∃ z, (t.core b.src).running b.ch = some z ∧ z.code = 0 ∧ z.pos = x.pos + b.bytes.length ∧ z.rent = some (p.1, p.2.1))
      ∧ DueFrom t s.now (.copyLine b.src b.ch)))
  ∧ (runs → turn c (ch.val, 0) (k.ent x.dindex) 0 → Gives done fun t => OnlyCores s t [c]
    ∧ (t.core c).tile = (k.store (k.ent x.dindex) (writable (k.ent x.dindex) (wholeBytes 60 (leBytes 4
      (Nat.min x.lset.length (2 ^ 24 - 1) * 256 + code % 256))))).tile
    ∧ (t.core c).ct.cc[ch.val] = k.ct.cc[ch.val] + 1 ∧ (∀ j : Fin 16, j.val ≠ ch.val → (t.core c).ct.cc[j] = k.ct.cc[j])
    ∧ (t.core c).eng.chans[ch] = rest ∧ (t.core c).sc = k.sc ∧ (t.core c).vec = k.vec
    ∧ (t.core c).ct.unraised = k.ct.unraised ++ (match code with
      | 1 => [⟨ch.val, k.ct.cc[ch.val] + 1, 0x11, x.faddr⟩] | 2 => [⟨ch.val, k.ct.cc[ch.val] + 1, 0x12, x.faddr⟩]
      | 3 => [⟨ch.val, k.ct.cc[ch.val] + 1, 0x13, x.faddr⟩] | 7 => [⟨ch.val, k.ct.cc[ch.val] + 1, 0x11, x.faddr⟩] | _ => [])
    ∧ (t.core c).ui.pend = k.ui.pend ++ (if x.notify ∧ k.uie = true then [(s.now, ch.val)] else [])
    ∧ (t.core c).cube.queue = k.cube.queue ++ (match x.fol with
      | some f => if code = 0 then [⟨k.cube.fol.toArray.getD f 0, x.pc⟩] else []
      | none => [])
    ∧ DueAt t s.now (.copyCommandStart c ch.val))

/-! ### Cube commands, atomics and fences at work -/

/-- R60, R211, R219, R221, R223 to R226, R239 to R242, R276, R283, R284, R287: a step on the pipe retires with its rings popped and its
flags, a drain commits its bytes together, a macro tile goes from command to command and from tile to tile, waiting for the pipe and for
the drain unit (log 38), a queued command starts in an
ASYNC phase, or completes with what keeps it from starting; atomics and SC operations are performed at their homes with the values of
R239, their old value lands in s[sc] with the pending writes of a cycle, in issue order, and they are counted on CC10 in it; and a fence
that is met lets go of what waited for it, with the rendezvous judged by the last access performed. Where a delay is not stated it is a
free value (log 4), and the order of acts within one instant is the model's own (log 5). -/
def Obligations.CommandEvents : Prop := ∀ (s : State) (c id : Nat) (p : PipeCmd) (d : DrainCmd) (drains : List DrainCmd) (m : MacroTile)
    (f : FollowCmd) (queue : List FollowCmd) (x : AmoCmd) (q : Req) (a target : Nat) (fe : FenceRec) (tl : TlbEnt) (tr : Trans),
  let k := s.core c
  let r := s.cyc c
  let counts := fun (t : State) (e : Option (Nat × W64)) => ∃ u ∈ t.agenda, u.act = .mi (.count c 8 e)
  let again := fun (t : State) (till : Nat) (i : Instr) => t = { s with agenda := t.agenda } ∧ DueBy t (s.inst c till) i
  let flagged := fun (t : State) (g : Flags) => let u := (t.core c).tr
    u = { k.tr with status := k.tr.status ||| BitVec.ofNat 64 (g.toNat * 2 ^ 16), flAt := u.flAt, flBits := u.flBits }
  let counted := fun (t : State) => { k with ct := { k.ct with tilth := (t.core c).ct.tilth } }
  let td := mtileDesc m.desc
  let nK := cdiv td.k (Nat.max 1 (k.tileKt td))
  let tiles := k.cube.mtile = some m ∧ m.next ≤ r ∧ k.held = false
  let atEnd := tiles ∧ m.step = nK + 2
  let step := s.tileStep c m.tri td m.q (m.step - 1) ⟨m.pc, 0, m.ccfg, false, m.issued, 0⟩
  let fails := firstFail [step.pre, step.chk]
  let expand := exec (.mtileExpansion c) s
  let follow := exec (.followOnStart c) s
  let starts := k.async = true ∧ k.seq.st ≠ .suspend ∧ k.held = false ∧ k.cube.queue = f :: queue
  let asks := k.eng.amos.find? (fun y => y.id = id) = some x ∧ x.rq = some q ∧ x.performed = false ∧ x.issued = true
    ∧ s.dpa q.dpa = some (target, a) ∧ s.migrOf a true = none ∧ s.migrOf a false = none
  let amo := exec (.amoExecute c id) s
  let acts := fun (t : State) (key : Nat) => let v := ofLe (s.memRead key a x.width)
    let w := amoApply x.op v x.opnd x.cmp
    t.mem = (if x.isLoad then s.mem
      else (s.memPut key a (leBytes x.width (if x.isStore then x.opnd.toNat else w.1))).mem)
    ∧ ∃ y ∈ (t.core c).eng.amos ++ (t.core c).eng.scs, y.id = x.id ∧ y.performed = true ∧ y.dest = x.dest ∧ y.isStore = x.isStore
      ∧ (x.isLoad = true → y.old = BitVec.ofNat 64 v) ∧ (x.isLoad = false → x.isStore = false → y.old = w.2.1 ∧ y.flags = w.2.2)
  let failed := fun (t : State) (code : Nat) => t.mem = s.mem
    ∧ ∃ y ∈ (t.core c).eng.amos ++ (t.core c).eng.scs, y.id = x.id ∧ y.performed = true ∧ y.code = code
      ∧ y.faddr = BitVec.ofNat 64 (x.addr.toNat / 64 * 64)
  let lands := fun (t : State) (i : Instr) => let u := t.core c
    OnlyCores s t [c] ∧ u.ct = k.ct ∧ u.tile = k.tile ∧ u.sc = k.sc ∧ DueAt t s.now i
    ∧ (∃ y ∈ u.eng.amos ++ u.eng.scs, y.id = x.id ∧ y.landed = true)
    ∧ (x.code = 0 ∧ x.isStore = false → DueAt t s.now (.pendingWriteLand c) ∧ u.fl.regs = insertPW
      ⟨r, x.seq, 6, x.pc, if x.shadow then .sh (x.dest - 24) else .s x.dest, .w x.old⟩ k.fl.regs)
    ∧ (¬ (x.code = 0 ∧ x.isStore = false) → u.fl.regs = k.fl.regs)
  let completes := fun (t : State) => let u := t.core c
    OnlyCores s t [c] ∧ u.ct.cc[10] = k.ct.cc[10] + 1 ∧ (∀ j : Fin 16, j.val ≠ 10 → u.ct.cc[j] = k.ct.cc[j]) ∧ u.tile = k.tile
    ∧ u.sc = k.sc
    ∧ u.eng.amos = k.eng.amos.filter (fun y => y.id ≠ x.id) ∧ u.eng.scs = k.eng.scs.filter (fun y => y.id ≠ x.id)
    ∧ (x.code = 0 → u.ct.unraised = k.ct.unraised)
    ∧ (x.code = 1 → u.ct.unraised = k.ct.unraised ++ [⟨10, k.ct.cc[10] + 1, 0x11, x.faddr⟩])
    ∧ (x.code = 3 → u.ct.unraised = k.ct.unraised ++ [⟨10, k.ct.cc[10] + 1, 0x13, x.faddr⟩])
  let sc := k.eng.scs.find? (fun y => y.id = id) = some x ∧ x.issued = true ∧ x.performed = false ∧ (x.w0 + 256) * tbCycle ≤ s.now
  let va := x.addr.toNat
  -- an SC operation completes 256 wheel cycles after it executes, or in the first cycle after a home lets it go (log 17)
  let doneAt := Nat.max ((x.w0 + 512) * tbCycle) (s.inst c (s.first c (s.now + 1)))
  let drop := fun (w : List Nat) => w.filter (fun i => i ≠ id)
  (k.cube.pipe = none → exec (.cubeStepRetire c) s = .next s)
  ∧ (k.cube.pipe = some p → k.held = false → r < k.pipeEnd p → Gives (exec (.cubeStepRetire c) s) fun t => again t (k.pipeEnd p) (.cubeStepRetire c))
  ∧ (k.cube.pipe = some p → k.held = false → k.pipeEnd p ≤ r → Gives (exec (.cubeStepRetire c) s) fun t => OnlyCores s t [c]
    ∧ (t.core c).cube.pipe = none ∧ (t.core c).cube.acc = k.cube.acc ∧ (t.core c).cube.lat = k.cube.lat ∧ flagged t p.flags
    ∧ (∀ n : Fin 16, (t.core c).cube.rings[n] = { k.cube.rings[n] with
      tail := k.cube.rings[n].tail + BitVec.ofNat 16 (p.pops.count n.val) })
    ∧ (p.follow = true → counts t none) ∧ (t.core c).sc = k.sc ∧ (t.core c).tile = k.tile)
  ∧ (k.cube.drains = d :: drains → k.held = false → r < k.drainEnd d → Gives (exec (.drainCommit c) s) fun t => again t (k.drainEnd d) (.drainCommit c))
  ∧ (k.cube.drains = d :: drains → k.held = false → k.drainEnd d ≤ r → Gives (exec (.drainCommit c) s) fun t => OnlyCores s t [c]
    ∧ (t.core c).cube.drains = drains ∧ flagged t d.flags ∧ (t.core c).cube.acc = k.cube.acc ∧ (t.core c).sc = k.sc
    ∧ (t.core c).tile = (match d.out with
      | some v => (k.store (k.ent v.2) (d.bytes.filter (fun b => !entPad (k.ent v.2) b.off))).tile
      | none => k.tile) ∧ (d.follow = true → counts t none))
  ∧ (k.cube.mtile = none → expand = .next s) ∧ (k.cube.mtile = some m → r < m.next → expand = .next s)
  ∧ (atEnd → m.q + 1 = td.tiles → Gives expand fun t => OnlyCore s t c
    ∧ t.core c = { counted t with cube := { k.cube with mtile := none } })
  ∧ (atEnd → m.q + 1 ≠ td.tiles → m.hold = true → Gives expand fun t => OnlyCore s t c ∧ t.core c = counted t)
  ∧ (atEnd → m.q + 1 ≠ td.tiles → m.hold = false → Gives expand fun t => OnlyCore s t c
    ∧ (t.core c).cube.mtile = some { m with q := m.q + 1, step := 1, start := r, next := r + 1 }
    ∧ (t.core c).cube.qidx = BitVec.ofNat 32 (m.q + 2) ∧ (t.core c).sc = k.sc ∧ (t.core c).tile = k.tile
    ∧ (t.core c).cube.acc = k.cube.acc.setIfInBounds (td.acc (m.q + 1)) ⟨[], if stepInt false m.ccfg then .int32 else .fp32, false⟩
    ∧ DueBy t (s.inst c (r + 1)) (.mtileExpansion c))
  ∧ (k.cube.pipe = some p → tiles → m.step ≠ nK + 2 →
    Gives expand fun t => again t (if r < k.pipeEnd p then k.pipeEnd p else r + 1) (.mtileExpansion c))
  ∧ (tiles → k.cube.pipe = none → m.step = nK + 1 → s.drainBusy c = true → Gives expand fun t => again t (r + 1) (.mtileExpansion c))
  ∧ (tiles → k.cube.pipe = none → m.step ≤ nK → fails = none → Gives expand fun t => ∃ u, (step.eff.core c).cube.pipe = some u
    ∧ (t.core c).cube.pipe = some u ∧ (t.core c).cube.acc = (step.eff.core c).cube.acc
      ∧ (t.core c).cube.mtile = some { m with step := m.step + 1, next := r + u.len }
      ∧ DueBy t (s.inst c (r + u.len)) (.mtileExpansion c))
  ∧ (∀ g, tiles → k.cube.pipe = none → m.step ≤ nK → fails = some g → k.seq.st = .run → k.priv = false → k.dbg.attach = false →
    Gives expand fun t => (t.core c).cube.mtile = none ∧ (t.core c).cube.qidx = BitVec.ofNat 32 m.q ∧ (t.core c).cube.acc = k.cube.acc
      ∧ getF (t.core c).tr.cause 0 8 = g.1 % 2 ^ 8 ∧ (t.core c).tr.epc = k.seq.pc ∧ (t.core c).priv = true
      ∧ (t.core c).tr.faddr = (if g.1 = 0x0F then g.2 else m.pc))
  ∧ (k.async = false ∨ k.seq.st = .suspend ∨ k.cube.queue = [] → follow = .next s)
  ∧ (∀ e, starts → decodeSlot .m f.word.toNat = .bad e → Gives follow fun t => OnlyCores s t [c] ∧ (t.core c).cube.queue = queue
    ∧ (t.core c).cube.acc = k.cube.acc ∧ counts t (some (if e = .illegalOp then 0x02 else 0x03, f.word)))
  ∧ (∀ st n, starts → decodeSlot .m f.word.toNat = .ok (.mzero st n) → k.cube.mtile = none → k.cube.pipe = none →
    Gives follow fun t => OnlyCores s t [c] ∧ (t.core c).cube.queue = queue ∧ (t.core c).tile = k.tile
      ∧ (t.core c).cube.acc = k.cube.acc.set n.val ⟨[], if stepInt false k.cube.ccfg then .int32 else .fp32, false⟩
      ∧ ∃ u, (t.core c).cube.pipe = some u ∧ u.start = r ∧ u.len = 1 ∧ u.follow = true)
  ∧ (∀ st n count, starts → decodeSlot .m f.word.toNat = .ok (.nadv st n count) → let ring := k.ring n.val
    (ring.bound = true → ring.depth < ring.fill + count.toNat → Gives follow fun t => OnlyCores s t [c] ∧ (t.core c).cube.queue = queue
      ∧ (t.core c).cube.rings = k.cube.rings ∧ counts t (some (0x0E, BitVec.ofNat 64 n.val)))
    ∧ (ring.bound = true → ring.fill + count.toNat ≤ ring.depth → Gives follow fun t => OnlyCores s t [c] ∧ (t.core c).cube.queue = queue
      ∧ (t.core c).cube.rings = k.cube.rings.setIfInBounds n.val { ring with head := ring.head + count } ∧ counts t none))
  ∧ (∀ st n ho hd off, starts → decodeSlot .m f.word.toNat = .ok (.mdrain st n ho hd off) → k.cube.mtile = none → s.drainBusy c = false →
    s.accBusy c n.val = true → Gives follow fun t => OnlyCores s t [c] ∧ (t.core c).cube.queue = queue ∧ (t.core c).tile = k.tile
      ∧ (t.core c).cube.drains = k.cube.drains ∧ counts t (some (0x04, 0)))
  ∧ (asks → s.grants target (s.masterOf c) .atomic (pteKey q.pte) = false → Gives amo fun t => failed t 3 ∧ DueFrom t s.now (.amoCompletion c id))
  ∧ (asks → s.grants target (s.masterOf c) .atomic (pteKey q.pte) = true → (pteChk q.pte = false ∨ 9 ≤ target) →
    Gives amo fun t => acts t (pteKey q.pte) ∧ DueFrom t s.now (.amoCompletion c id))
  ∧ (k.eng.amos.find? (fun y => y.id = id && y.performed) = some x → let o := exec (.amoCompletion c id) s
    (x.landed = false → Gives o fun t => lands t (.amoCompletion c id)) ∧ (x.landed = true → Gives o completes))
  ∧ (sc → x.waits = [] → va % x.width ≠ 0 → Gives (exec (.scExecute c id) s) fun t => failed t 1
    ∧ DueAt t doneAt (.scCompletion c id))
  ∧ (sc → x.waits = [] → va % x.width = 0 → fld va 57 7 = 0 → s.tlbLook c va = some tl → s.through (s.ctxOf c) va tl .atomic x.priv = some tr →
    tr.tier = 0 → s.dpa tr.dpa = some (target, a) → s.migrOf a true = none → s.migrOf a false = none →
    s.grants target (s.masterOf c) .atomic tr.key = true → (tr.chk = false ∨ 9 ≤ target) →
    Gives (exec (.scExecute c id) s) fun t => acts t tr.key ∧ DueAt t doneAt (.scCompletion c id))
  ∧ (k.eng.scs.find? (fun y => y.id = id) = some x → s.now < (x.w0 + 256) * tbCycle → exec (.scExecute c id) s = .next s)
  ∧ (sc → x.waits ≠ [] → Gives (exec (.scExecute c id) s) fun t => t.mem = s.mem ∧ (t.core c).sc = k.sc)
  ∧ (k.eng.scs.find? (fun y => y.id = id && y.performed) = some x → let o := exec (.scCompletion c id) s
    (x.landed = false → Gives o fun t => lands t (.scCompletion c id)) ∧ (x.landed = true → Gives o completes))
  ∧ (k.eng.fences.find? (fun y => y.id = id) = some fe → fe.covers.all (fun i => k.metBy fe.scope i) = false →
    exec (.fenceComplete c id) s = .next s)
  ∧ (k.eng.fences.find? (fun y => y.id = id) = some fe → fe.covers.all (fun i => k.metBy fe.scope i) = true →
    Gives (exec (.fenceComplete c id) s) fun t => OnlyCores s t [c] ∧ (t.core c).eng.fences = k.eng.fences.filter (fun y => y.id ≠ id)
      ∧ (t.core c).eng.amos = k.eng.amos.map (fun y => { y with waits := drop y.waits })
      ∧ (t.core c).eng.scs = k.eng.scs.map (fun y => { y with waits := drop y.waits })
      ∧ (∀ ch : Fin 4, (t.core c).eng.chans[ch] = k.eng.chans[ch].map (fun y => { y with waits := drop y.waits }))
      ∧ (t.core c).sc = k.sc ∧ (t.core c).tile = k.tile
      ∧ ((∀ y ∈ k.eng.rendez, y.fence ≠ id) → (t.core c).ct = k.ct)
      ∧ (∀ y tick_, k.eng.rendez.find? (fun y => y.fence = id) = some y → y.tick = some tick_ → s.latefault c = false →
        (t.core c).ct.dcr = (if tick_.toNat * tick < k.eng.lastPerf then
          dcrAdd k.ct.dcr 0x06 y.pc.toNat (cdiv (k.eng.lastPerf - tick_.toNat * tick) tick) else k.ct.dcr)))

/-! ### Collectives at work -/

/-- R60, R121, R228, R247 to R250, R278, R284, R287, R322, R324, R325, R348: a contribution reads its source and is entered, or settles how
its command ends; when all have come the instance is merged or its partial leaves, to be acknowledged; results and datagrams bring the
other devices' partials; a deadline, an abort and a plane that fails end it; and each participant's command, with its destination written,
is over in the cycle in which its bank takes the status word, which counts it. While a page of its buffer is being moved it waits (R96).
A context of the fabric is set up, or TOPO_CONFIG answered (R312). The values of MGMTSTAT and that no context is set up while a launch of
the partition is admitted are the model's choice and reading (log 12). Where a delay is not stated it is a free value (log 4), and the
order of acts within one instant is the model's own (log 5). What the rules leave open of it, the class in which a status word asks its
bank among it, is log 11. -/
def Obligations.CollectiveEvents : Prop := ∀ (s : State) (i c dev : Nat) (x : CollInst) (y : CollCmd) (parts : List (List W32)) (part : List W32)
    (ctx : Fin 8) (z : XcidCtx) (plane : Fin 36),
  let k := s.core c
  let has := AMap.get? s.insts i = some x
  let mine := has ∧ k.collOf i = some y ∧ k.seq.launch = some x.launch ∧ y.ch < 4
  let inst := fun (t : State) (P : CollInst → Prop) => ∃ w, AMap.get? t.insts i = some w ∧ P w
  let rank := ((x.parts.find? (fun p => p.core = c)).map (·.rank)).getD 0
  let de := k.ent y.dindex
  let left := fun (cause : Nat) (faddr : W64) => [(⟨4 + y.ch, k.ct.cc.toArray.getD (4 + y.ch) 0 + 1, cause, faddr⟩ : Unraised)]
  let settles := fun (t : State) (code lines : Nat) (faddr : W64) (f : Flags) =>
    (t.core c).collOf i = some { y with code := some code, lines := lines, faddr := faddr, flags := f } ∧ (t.core c).tile = k.tile
    ∧ (t.core c).ct.cc = k.ct.cc ∧ DueAt t s.now (.collCompletion i c)
  let finishes := fun (t : State) (code lines : Nat) (faddr : W64) (f : Flags) => let u := t.core c
    u.tile = (k.store de ((wholeBytes 60 (leBytes 4 (Nat.min lines (2 ^ 24 - 1) * 256 + code % 256))).filter
      (fun b => !entPad de b.off))).tile
    ∧ (∀ j, j < 16 → u.ct.cc.toArray.getD j 0 = k.ct.cc.toArray.getD j 0 + (if j = 4 + y.ch then 1 else 0))
    ∧ u.collOf i = none ∧ u.ct.g = (if code = 0 ∧ y.counts = true then k.ct.g + 1 else k.ct.g)
    ∧ u.tr.status = k.tr.status ||| BitVec.ofNat 64 (f.toNat * 2 ^ 16)
    ∧ u.ct.unraised = k.ct.unraised ++ (match code with
      | 1 => left 0x11 faddr | 2 => left 0x12 faddr | 3 => left 0x13 faddr | 7 => left 0x11 faddr | _ => [])
    ∧ (code = 9 → u.ct.dcr = dcrAdd k.ct.dcr 0x08 y.pc.toNat 1) ∧ u.sc = k.sc ∧ u.vec = k.vec ∧ u.eng.lastPerf = s.now
  let contribute := exec (.collContribution i c) s
  let complete := exec (.collCompletion i c) s
  let ready := mine ∧ y.sent = false ∧ y.code = none ∧ k.seq.st ≠ .suspend
  let as_ := fun (ctx : Nat) => (⟨x.launch, ctx, c, y.g, y.priv, y.pc, s.free % 4⟩ : CollFor)
  let n := x.reads rank
  let src := bufLines y.sva.toNat (4 * n)
  let read := (s.drawn.collSteps 0x07 c x rank).collRead (as_ (s.ctxOf c)) y.t0 src
  let d := x.dest rank
  let dst := bufLines y.dva.toNat (4 * x.writes)
  let into := as_ (((s.launchRec x.launch).map (·.ctx)).getD 0)
  let wr := s.drawn.collWrite into y.t0 dst (d.1.flatMap (fun w => leBytes 4 w.toNat)) 0
  let open_ := x.st = .open_ ∨ x.st = .sent
  let aborts := fun (t : State) => inst t (fun w => w = { x with st := .aborted }) ∧ t.mem = s.mem
    ∧ ∀ p ∈ x.parts, ∀ w, (s.core p.core).seq.launch = some x.launch → (s.core p.core).collOf i = some w →
      (w.sent = true ∨ (s.core p.core).seq.st ≠ .suspend) → DueAt t s.now (.collCompletion i p.core)
  let all := x.m ≤ x.parts.length ∧ ∀ p ∈ x.parts, p.data ≠ none
  let held := fun (f : CollFor) (kind : XKind) (ls : List (Nat × Nat)) (i : Instr) => s.collHeld f kind ls i ≠ none
  let legal := s.ctxBusy ctx = false ∧ s.xcidOk z = true
  let sets := fun (o : Out) => (legal → Gives o fun t => t = { s with ctxs := t.ctxs, pkg := { s.pkg with mgmtStatus := 0 } }
      ∧ t.ctxs = s.ctxs.set ctx.val { s.ctxs[ctx] with xcids := z :: s.ctxs[ctx].xcids.filter (fun w => w.xcid ≠ z.xcid) })
    ∧ (¬ legal → o = .next { s with pkg := { s.pkg with mgmtStatus := 1 } })
  let without := fun (w : XcidCtx) => { w with planes := w.planes.filter (fun p => p ≠ plane.val) }
  (ready → ∀ code, x.over_ = some code → Gives contribute fun t => t.mem = s.mem ∧ settles t code 0 0 0)
  ∧ (ready → x.over_ = none → k.heldIds y.waits ≠ [] → contribute = .next s)
  ∧ (ready → x.over_ = none → k.heldIds y.waits = [] → held (as_ (s.ctxOf c)) .read src (.collContribution i c) →
    Gives contribute fun t => t.mem = s.mem ∧ t.cores = s.cores ∧ t.insts = s.insts)
  ∧ (ready → x.over_ = none → k.heldIds y.waits = [] → ¬ held (as_ (s.ctxOf c)) .read src (.collContribution i c) →
    (∀ e, read.2 = .error e → Gives contribute fun t => t.mem = s.mem ∧ settles t e.1 0 (BitVec.ofNat 64 e.2) 0)
    ∧ (∀ bs, read.2 = .ok bs → Gives contribute fun t => t.mem = s.mem ∧ (t.core c).tile = k.tile ∧ (t.core c).ct = k.ct
      ∧ (∃ w, (t.core c).collOf i = some w ∧ w.sent = true)
      ∧ inst t fun w => ∀ p ∈ w.parts, p.core = c → p.data = some (wordsOf n bs)))
  ∧ (mine → ∀ code, y.code = some code → s.now = s.inst c (s.cyc c) →
    let asked := k.asking (7, i) (s.cyc c) = true
    let serves := k.served (7, i) (entBank de 0) (s.cyc c) = true
    (¬ asked → Gives complete fun t => (t.core c).tile = k.tile ∧ (t.core c).ct = k.ct ∧ t.mem = s.mem ∧ DueAt t s.now (.collCompletion i c))
    ∧ (asked → ¬ serves → Gives complete fun t => t = { s with agenda := t.agenda } ∧ DueBy t (s.inst c (s.cyc c + 1)) (.collCompletion i c))
    ∧ (asked → serves → Gives complete fun t => t.mem = s.mem ∧ finishes t code y.lines y.faddr y.flags))
  ∧ (mine → y.code = none → ∀ code, x.over_ = some code → Gives complete fun t => t.mem = s.mem ∧ settles t code 0 0 0)
  ∧ (mine → y.code = none → x.st = .open_ ∨ x.st = .sent → complete = .next s)
  ∧ (mine → y.code = none → x.st = .merged → held into .write dst (.collCompletion i c) →
    Gives complete fun t => t.mem = s.mem ∧ t.cores = s.cores ∧ t.insts = s.insts)
  ∧ (mine → y.code = none → x.st = .merged → ¬ held into .write dst (.collCompletion i c) →
    Gives complete fun t => t.mem = wr.1.mem ∧ settles t wr.2.2.1 wr.2.1 (BitVec.ofNat 64 wr.2.2.2) d.2)
  ∧ (has → open_ → Gives (exec (.collDeadline i) s) aborts ∧ Gives (exec (.kamrexAbort i) s) aborts)
  ∧ (has → ¬ open_ → exec (.collDeadline i) s = .next s ∧ exec (.kamrexAbort i) s = .next s)
  ∧ (has → x.st = .open_ → all → Gives (exec (.kamrexContrib i) s) fun t => t.mem = s.mem
    ∧ (∀ d, t.core d = { s.core d with eng := { (s.core d).eng with acks := (t.core d).eng.acks } })
    ∧ (∀ p ∈ x.parts, (s.core p.core).seq.launch = some x.launch → p.cmd ∈ (t.core p.core).eng.acks)
    ∧ inst t fun w => w = { x with st := if x.remote.length + 1 = x.devCount then .merged else .sent })
  ∧ (has → x.st ≠ .sent ∨ parts.length ≠ x.devCount → exec (.kamrexResult i parts) s = .next s)
  ∧ (has → x.st = .sent → parts.length = x.devCount → x.devRank < x.devCount → 2 ≤ x.devCount → x.remote = [] →
    Gives (exec (.kamrexResult i parts) s) fun t => t.mem = s.mem ∧ t.cores = s.cores ∧ inst t fun w => w.st = .merged ∧ w.parts = x.parts
      ∧ ∀ q, q < x.devCount → q ≠ x.devRank → AMap.get? w.remote q = parts[q]?)
  ∧ (has → (AMap.get? x.remote dev).isSome = true → exec (.collectiveDatagram i dev part) s = .next s)
  ∧ (has → AMap.get? x.remote dev = none → dev < x.devCount → dev ≠ x.devRank → open_ →
    Gives (exec (.collectiveDatagram i dev part) s) fun t => t.mem = s.mem ∧ t.cores = s.cores ∧ inst t fun w =>
      w.remote = AMap.put x.remote dev part ∧ w.parts = x.parts
      ∧ w.st = (if x.st = .sent ∧ w.remote.length + 1 = x.devCount then .merged else x.st))
  ∧ (s.hostUp = true → sets (exec (.xcidContextSetup ctx z) s)) ∧ sets (exec (.kamrexMgmt ctx z) s)
  ∧ (s.hostUp = false → exec (.xcidContextSetup ctx z) s = .next s)
  ∧ (Gives (exec (.kamrexPlaneDown plane) s) fun t => t.mem = s.mem
    ∧ t.pkg = { s.pkg with planesDown := s.pkg.planesDown ||| BitVec.ofNat 36 (2 ^ plane.val) }
    ∧ (∀ q : Fin 8, t.ctxs[q] = { s.ctxs[q] with xcids := s.ctxs[q].xcids.map without })
    ∧ (has → x.xcid ≠ 0 → x.st = .sent → s.onPlane x plane.val = true → inst t fun w => w = { x with st := .aborted }))

/-! ### Sharing between cores at work -/

/-- R42 to R46, R60, R251 to R256, R258, R259, R273, R277, R338: a subscription request makes its forward entry and is answered, a window
closes into a batch whose lines carry its bytes, a line lands where its checks pass in a cycle in which its bank serves it, is deferred by
a cycle where the bank does not (R71, R85), or is refused as a race, and marks a stopped subscriber STALE; a resync sends the whole image;
SUBOFF frees the entry; SUBSYNC counts on channel 9; a multicast store lands at its member or is lost; a row of the exchange is driven or
taken; and a crossing records a producer sample, slips by J, is set anew for a consumer that was stopped, delivers y[n] and answers its
reads. No padding is written (R84). Where a delay is not stated it is a free value (log 4), and the order of acts within one instant is
the model's own (log 5). What the rules leave open of it is log 22. -/
def Obligations.SharingEvents : Prop := ∀ (s : State) (p c j id : Nat) (e : SubEnt) (f : FwdEnt) (w : BatchWin) (ln : SubLine) (mc : McStore)
    (m : XCmd) (x : Fin 64) (vals : List W32) (y : Crossing) (r : SlipRes) (l a lat : Nat) (sy : SubSync),
  let k := s.core c
  let q := s.core p
  let rc := s.cyc c
  let has := AMap.get? k.sub.subs j = some e ∧ k.seq.launch = some l
  let pe := q.vEnt e.pview
  let installs := q.seq.launch = k.seq.launch ∧ q.viewOk e.pview = true ∧ entSize pe = entSize (k.ent e.index) ∧ q.sub.fwds.length < 32
    ∧ s.running p = true
  let fwd := AMap.get? q.sub.fwds j = some f
  -- a line of a batch
  let line := exec (.batchLineLanding c ln) s
  let start := s.now = s.inst c rc
  let let_ := k.letBy (4, ln.entry) rc = true
  let may := fun (eng view : Nat) => (s.landCore c).permits eng view true = true
  let there := start ∧ AMap.get? k.sub.subs ln.entry = some e ∧ ln.resync = false ∧ k.dropped ln = false
    ∧ k.seq.launch = (s.core ln.pub).seq.launch
  let ent := k.ent e.index
  let asked := fun (id : Nat × Nat) => k.asking id rc = true
  let serves := fun (id : Nat × Nat) (z : TEntry) (i : Nat) => k.served id (entBank z i) rc = true
  let lid := (4, ln.entry)
  let lj := (ln.bytes.headD (0, 0)).1 / 64
  let bytes := ln.bytes.map (fun b => (⟨b.1, b.2, 0xFF⟩ : MByte))
  let writable := fun (z : TEntry) (bs : List MByte) => bs.filter (fun b => !entPad z b.off)
  let raced := fun (t : State) (eng view src : Nat) => (t.core c).tile = k.tile ∧ t.mem = s.mem
    ∧ (t.core c).seq.held = k.seq.held ++ [(0x12, BitVec.ofNat 64 (2 ^ 63 + eng * 2 ^ 24 + view % 256 * 2 ^ 16 + src % 4096), rc)]
  let mland := exec (.multicastLanding c mc) s
  let me := k.vEnt mc.view
  let mtakes := s.receives c = true ∧ k.seq.launch = some mc.launch ∧ k.viewOk mc.view = true ∧ entSize me = mc.size
  -- rows of the exchange
  let row := exec (.exchangeRow c) s
  let runs := (k.seq.counting = true ∨ k.priv = true) ∧ (k.seq.st = .run ∨ k.seq.st = .wait ∨ k.seq.st = .trap) ∧ s.stopsNow c = false
  let one := k.x.on = true ∧ runs ∧ k.x.cmds.filter (fun n => n.j < n.count && n.at_ = rc) = [m]
  let i := m.row + m.j
  let n := m.v + i / 16
  let out := (k.vec.v.toArray.getD n .zero).rowOut (i % 16)
  let elems := maskOf ((List.range 1024).map (fun e => i % 16 * 64 ≤ e && e < i % 16 * 64 + 64))
  -- crossings
  let cross := AMap.get? s.cross x.val = some y
  let tp := s.period y y.desc.pisl
  let ai := s.ptc * tick
  let t0 : Int := if y.recv = 0 then ai else y.t0
  let drift : Int := ai - (t0 + y.recv * tp)
  let slip : Int := if tp = 0 then 0 else drift.tdiv tp
  let took : Crossing := { y with recv := y.recv + 1, t0 := t0, last := some vals
                                  xs := (y.xs ++ [(⟨y.recv, ai, vals⟩ : XSample)]).drop (y.xs.length + 1 - 64) }
  let arrives := exec (.producerSampleArrival x vals) s
  -- a delivery whose instant the sample's tick is not behind has the sample (R44; arrivals are whole ticks, log 39)
  let after := ∀ z, y.was = some z → z.at_ < ai
  let now := fun (t : State) (z : Crossing) => AMap.get? t.cross x.val = some z ∧ t.mem = s.mem
  let d := y.desc
  let nn := y.nextN - d.lat
  let base : Int := ((nn * d.n / d.d : Nat) : Int) + y.soff
  let ph := nn * d.n % d.d * d.ptab / d.d
  let miss := ∃ u : Nat, u < d.t ∧ y.missing (base + u - (((d.t / 2 : Nat) : Int) - 1)) = true
  (has → installs → Gives (exec (.subonRequest p c j) s) fun t =>
    t = { s with cores := t.cores, agenda := t.agenda, nextKey := s.nextKey + 1 } ∧ (∀ z, z ≠ p → t.core z = s.core z)
    ∧ t.core p = { q with sub := (t.core p).sub }
    ∧ (t.core p).sub.fwds = AMap.put q.sub.fwds s.nextKey
      ⟨c, j, e.pview, q.vIdx e.pview, (q.view e.pview).gen, e.win, none, false, 0, 0, none⟩
    ∧ DueBy t (s.inst c (rc + s.latC c p)) (.subonReply c j true))
  ∧ (has → ¬ installs → Gives (exec (.subonRequest p c j) s) fun t => t = { s with agenda := t.agenda }
    ∧ DueBy t (s.inst c (rc + s.latC c p)) (.subonReply c j false))
  ∧ (has → Gives (exec (.subonReply c j true) s) fun t => OnlyCore s t c ∧ t.core c = { k with sub := { k.sub with
      subs := AMap.put k.sub.subs j { e with st := if e.st = .pending then .active else e.st } } })
  ∧ (has → Gives (exec (.subonReply c j false) s) fun t => OnlyCore s t c ∧ (t.core c).sub = { k.sub with subs := AMap.del k.sub.subs j }
    ∧ (t.core c).ct.dcr = dcrAdd k.ct.dcr 0x0E e.pc.toNat 1)
  ∧ (fwd → f.open_ = some w → s.cyc p < w.closeAt → exec (.batchWindowClose p j) s = .next s)
  ∧ (fwd → f.open_ = some w → w.closeAt ≤ s.cyc p → q.seq.st ≠ .suspend → Gives (exec (.batchWindowClose p j) s) fun t => t.mem = s.mem
    ∧ (∃ g, AMap.get? (t.core p).sub.fwds j = some g ∧ g.open_ = none ∧ g.batch = f.batch + 1 ∧ g.sub = f.sub)
    ∧ (⟨j, f.batch + 1, none⟩ : SubBatch) ∈ (t.core p).sub.inflight ∧ (t.core p).sc = q.sc ∧ (t.core p).tile = q.tile
    ∧ ∀ b ∈ w.bytes, ∃ u ∈ t.agenda, ∃ z, u.act = .ev (.batchLineLanding f.sub z) ∧ b ∈ z.bytes ∧ z.batch = f.batch + 1 ∧ z.pub = p
      ∧ z.fwd = j ∧ z.entry = f.slot ∧ z.resync = false)
  ∧ (there → s.receives c = true → ¬ asked lid → Gives line fun t => (t.core c).tile = k.tile
    ∧ t.mem = s.mem ∧ DueAt t s.now (.batchLineLanding c ln))
  ∧ (there → s.receives c = true → asked lid → ¬ let_ → (¬ serves lid ent lj ∨ may 7 e.view) → Gives line fun t => (t.core c).tile = k.tile
    ∧ t.mem = s.mem ∧ DueAt t s.now (.batchLineLanding c ln))
  ∧ (there → s.receives c = true → asked lid → let_ → serves lid ent lj → Gives line fun t => t.mem = s.mem
    ∧ (t.core c).tile = (k.store ent (writable ent bytes)).tile ∧ (t.core c).sc = k.sc ∧ (t.core c).tr = k.tr
    ∧ (ln.last = true → ∀ z ∈ (t.core ln.pub).sub.inflight, z.fwd = ln.fwd → z.batch = ln.batch →
      z.ackAt = some (s.now + s.latT c ln.pub)))
  ∧ (there → s.receives c = true → asked lid → let_ → ¬ serves lid ent lj → Gives line fun t => (t.core c).tile = k.tile ∧ t.mem = s.mem
    ∧ DueBy t (s.inst c (rc + 1)) (.batchLineLanding c ln))
  ∧ (there → s.receives c = true → asked lid → ¬ let_ → serves lid ent lj → ¬ may 7 e.view → Gives line fun t => raced t 7 e.view ln.pub)
  ∧ (there → s.receives c = false → AMap.get? (s.core ln.pub).sub.fwds ln.fwd = some f → f.fresh = none → Gives line fun t =>
    (t.core c).tile = k.tile ∧ t.mem = s.mem ∧ (t.core ln.pub).ct.dcr = dcrAdd (s.core ln.pub).ct.dcr 0x0A 0xFFFFFF 1
    ∧ AMap.get? (t.core ln.pub).sub.fwds ln.fwd = some { f with stale := true })
  ∧ (ln.resync = true → AMap.get? k.sub.subs ln.entry = some e → Gives line fun t => t.mem = s.mem
    ∧ (t.core c).tile = (k.store ent (writable ent bytes)).tile ∧ (t.core c).ct.dcr = dcrAdd k.ct.dcr 0x09 0xFFFFFF 1)
  ∧ (fwd → q.seq.launch = some l → let at_ := Nat.max (s.now + s.latT p f.sub) f.lineFree
    Gives (exec (.subscriptionResync p j) s) fun t => t.mem = s.mem
    ∧ (∃ g, AMap.get? (t.core p).sub.fwds j = some g ∧ g.stale = false ∧ g.fresh = (if s.receives f.sub = true then none else some f.batch) ∧ g.open_ = f.open_)
    ∧ DueBy t at_ (.batchLineLanding f.sub ⟨p, j, f.slot, 0,
      (List.range (entSize (q.ent f.index))).map (fun b => (b, q.imgByte (q.ent f.index) b)), true, true⟩))
  ∧ (has → q.seq.launch = some l → q.sub.fwds.find? (fun g => g.2.sub = c && g.2.slot = j) = some (a, f) →
    Gives (exec (.suboffRequest p c j) s) fun t => t.mem = s.mem ∧ AMap.get? (t.core p).sub.fwds a = none
      ∧ DueBy t (s.inst c (rc + s.latC c p)) (.suboffAck c j))
  ∧ (has → e.st = .closing → (∀ u ∈ s.agenda, ∀ z, u.act = .ev (.batchLineLanding c z) → ¬ (z.pub = e.pub ∧ z.entry = j)) →
    Gives (exec (.suboffAck c j) s) fun t => OnlyCore s t c ∧ t.core c = { k with sub := { k.sub with subs := AMap.del k.sub.subs j } })
  ∧ (has → e.st ≠ .closing → exec (.suboffAck c j) s = .next s)
  ∧ (q.sub.syncs.find? (fun z => z.id = id) = some sy → Gives (exec (.subsyncCompletion p id) s) fun t => OnlyCore s t p
    ∧ (t.core p).sub = { q.sub with syncs := q.sub.syncs.filter (fun z => z.id ≠ id) } ∧ (t.core p).ct.cc[9] = q.ct.cc[9] + 1
    ∧ (∀ z : Fin 16, z.val ≠ 9 → (t.core p).ct.cc[z] = q.ct.cc[z]) ∧ (t.core p).sc = q.sc)
  ∧ (s.lowerMc c mc.src = false → mtakes → may 8 mc.view → Gives mland fun t => t.mem = s.mem
    ∧ (t.core c).tile = (k.store me (writable me mc.bytes)).tile ∧ (t.core c).sc = k.sc)
  ∧ (s.lowerMc c mc.src = false → mtakes → ¬ may 8 mc.view → Gives mland fun t => raced t 8 mc.view mc.src)
  ∧ (s.lowerMc c mc.src = false → ¬ mtakes → Gives mland fun t => (t.core c).tile = k.tile ∧ t.mem = s.mem
    ∧ ((s.core mc.src).seq.launch = some mc.launch → (t.core mc.src).ct.dcr = dcrAdd (s.core mc.src).ct.dcr 0x0E mc.pc.toNat 1))
  ∧ (k.x.on = false ∨ ¬ runs → row = .next s)
  ∧ (one → m.op = 0 → ∀ g, s.neighbour c m.port = some (g, lat) →
    ((s.core g).seq.st = .run ∨ (s.core g).seq.st = .wait ∨ (s.core g).seq.st = .trap) → Gives row fun t =>
      (oppSide m.port, s.first g (s.inst c (rc + toRegion (s.lockedRegion k) lat)), out) ∈ (t.core g).x.arrive
      ∧ (t.core c).vec = k.vec ∧ t.mem = s.mem)
  ∧ (one → m.op = 1 → Gives row fun t => t.mem = s.mem ∧ (t.core c).vec = k.vec
    ∧ (∀ v, k.x.rowAt m.port rc = some v → (t.core c).fl.regs = insertPW ⟨rc + 1, m.seq, 7, m.pc, .v n,
      .vr ⟨List.replicate (i % 16 * 64) 0 ++ v.data, v.tag, v.sc, v.teo, []⟩ elems⟩ k.fl.regs)
    ∧ (k.x.rowAt m.port rc = none → (t.core c).fl.regs = insertPW ⟨rc + 1, m.seq, 7, m.pc, .v n, .rowZero elems⟩ k.fl.regs)
    ∧ DueBy t (s.inst c (rc + 1)) (.pendingWriteLand c))
  ∧ (cross → after → slip = 0 ∨ s.endState y d.pisl ≠ 0 → Gives arrives fun t => now t took)
  ∧ (∀ u, cross → y.was = some u → ai ≤ u.at_ → slip = 0 ∨ s.endState y d.pisl ≠ 0 → Gives arrives fun t =>
    let seen : Crossing := { took with soff := u.soff }
    let short := ∃ j : Nat, j < d.t ∧ seen.missing (((u.n * d.n / d.d : Nat) : Int) + u.soff + j - (((d.t / 2 : Nat) : Int) - 1)) = true
    ∃ z, now t z ∧ z.recv = took.recv ∧ z.xs = took.xs ∧ z.soff = y.soff ∧ z.deliv = y.deliv - 1 + 1
      ∧ z.ys.getLast? = some (u.n, seen.output u.n)
      ∧ (short → z.stale = u.stale + 1 ∧ z.run = u.run + 1) ∧ (¬ short → z.stale = u.stale ∧ z.run = 0))
  ∧ (cross → after → slip ≠ 0 → s.endState y d.pisl = 0 → Gives arrives fun t =>
    now t { took with t0 := t0 + slip * tp, soff := y.soff - slip, slip := y.slip + 1 })
  ∧ (cross → y.reanchor = false → y.nextN < d.lat → Gives (exec (.consumerSampleDelivery x) s) fun t => now t { y with nextN := y.nextN + 1 })
  ∧ (cross → y.reanchor = false → d.lat ≤ y.nextN → Gives (exec (.consumerSampleDelivery x) s) fun t => ∃ z, now t z
    ∧ z.nextN = y.nextN + 1 ∧ z.deliv = y.deliv + 1 ∧ z.soff = y.soff ∧ z.ys.getLast? = some (nn, y.output nn)
    ∧ (miss → z.stale = y.stale + 1 ∧ z.run = y.run + 1) ∧ (¬ miss → z.stale = y.stale ∧ z.run = 0)
    ∧ ∀ ch, ch < d.ch → (y.output nn).getD ch 0 = BitVec.ofNat 32 ((List.range d.t).foldl (fun acc u =>
      (fmt32.fma .rne 0 ((d.w.getD (ph * d.t + u) 0).toNat) (y.xval (base + u - (((d.t / 2 : Nat) : Int) - 1)) ch) acc).1) 0))
  ∧ (cross → y.reanchor = true → d.lat ≤ y.nextN → Gives (exec (.consumerSampleDelivery x) s) fun t => ∃ z, now t z ∧ z.reanchor = false
    ∧ z.nextN = y.nextN + 1 ∧ ((nn * d.n / d.d : Nat) : Int) + z.soff + ((d.t / 2 : Nat) : Int) = (y.recv : Int) - 1)
  ∧ (k.eng.slips.find? (fun z => z.id = id) = some r → r.got = none → Gives (exec (.slpResultLanding c id) s) fun t => OnlyCore s t c
    ∧ (∃ z ∈ (t.core c).eng.slips, z.id = id ∧ z.got = some (s.slipRead r)) ∧ (t.core c).tile = k.tile
    ∧ DueBy t (s.inst c (rc + s.lxc c r.x + 4)) (.slpResultLanding c id))
  ∧ (k.eng.slips.find? (fun z => z.id = id) = some r → r.got = some vals → start → ∀ u, r.todo = some [u] → let re := k.ent r.index
    let n := (r.lines vals.length).getD u 0
    let o := exec (.slpResultLanding c id) s
    let sid := (6, r.id * 16 + u)
    (¬ asked (6, id * 16 + u) → Gives o fun t => (t.core c).tile = k.tile ∧ t.mem = s.mem ∧ (t.core c).eng = k.eng
      ∧ DueAt t s.now (.slpResultLanding c id))
    ∧ (asked (6, id * 16 + u) → ¬ serves sid re n → Gives o fun t => t = { s with agenda := t.agenda }
      ∧ DueBy t (s.inst c (rc + 1)) (.slpResultLanding c id))
    ∧ (asked (6, id * 16 + u) → serves sid re n → Gives o fun t => t.mem = s.mem
      ∧ (t.core c).eng.slips = k.eng.slips.filter (fun z => z.id ≠ id)
      ∧ (t.core c).tile = (k.store re (writable re ((wholeBytes (r.off * 4) (vals.flatMap (fun v => leBytes 4 v.toNat))).filter
        (fun b => b.off / 64 = n)))).tile))

/-! ### Trace, the input engine, shootdowns and migration at work -/

/-- R95, R96, R329 to R333, R337, R339 to R341: a record is accepted while its writer is enabled, replaces the oldest of a full buffer,
and is written under the writer's master id and key and counted in TRDONE; trace control starts a new buffer; a tail write of an item
queue is taken as one of a command queue; an item is accepted with the settings in force, checked in the order of R330, and becomes a unit
whose elements are cropped, reversed and offset; a shootdown empties the caches of a range and is answered when no request under way uses
it; and a page migrates by COPYING, the lock, FORWARDING and a shootdown, never one that a launch with MIGLOCK may use. Where a delay is
not stated it is a free value (log 4), and the order of acts within one instant is the model's own (log 5). What the rules leave open of
it is logs 16, 17, 24 and 40. -/
def Obligations.EngineEvents : Prop := ∀ (s : State) (d : Fin 9) (rec : TraceRec) (rest : List (Nat × TraceRec)) (i key tgt a : Nat) (v : W64)
    (p : Fin 16) (w : W32) (bs ent : List Byte) (x : Item) (xs : List Item) (im : ImgHead) (ctx : Fin 8) (lo hi id page : Nat) (h : Shoot)
    (m : Migr),
  let die := s.die d.val
  let w0 := die.tr
  -- trace
  let n := 2 ^ (getF w0.ctl 1 5 - 5)
  let o := w0.head.toNat
  let passed := n ≤ o ∧ w0.rd.toNat ≤ o - n
  let bytes : List Byte := le 8 rec.ptc ++ [rec.ty] ++ le 3 rec.cif.toNat ++ le 2 rec.src.toNat ++ le 2 rec.launch.toNat ++ le 4 rec.fn.toNat
    ++ le 4 0 ++ le 8 rec.payload.toNat
  let at_ := getF w0.ctl 12 52 * 4096 + 32 * (i % n)
  let ok := s.grants tgt (0x108 + d.val) .write key
  let quiet := s.dpa at_ = some (tgt, a) ∧ s.migrOf a true = none ∧ s.heldRow at_ 32 (.traceRecordPerformed d) = none
  let trace := fun (t : State) => (t.die d.val).tr
  let kept := fun (t : State) => (trace t).head = w0.head ∧ (trace t).rd = w0.rd ∧ (trace t).dropped = w0.dropped
    ∧ (trace t).overrun = w0.overrun
  -- item queues
  let q := s.port p.val
  let base := getF q.iqctl 12 52 * 4096
  let ents := 2 ^ getF q.iqctl 4 4
  let view := 0x40000000000 + p.val / 4 * 0x8000000000
  let outside := base < view ∨ view + 2 ^ 39 ≤ base ∨ view + 2 ^ 39 < base + 16 * ents ∨ ents < (w - q.iqhead).toNat
  let ports := fun (t : State) (z : Port) => t.port p.val = z ∧ (∀ e, e < 16 → e ≠ p.val → t.port e = s.port e)
  let next : W32 := q.iqhead + BitVec.ofNat 32 q.items.length
  let place := base + 16 * (next.toNat % ents)
  let io := 0x100 + p.val / 4
  let looks := q.mode = 3 ∧ getB q.iqctl 8 = true ∧ next ≠ q.iqtail
  let src := descNum ent 0 8
  let len := descNum ent 8 4
  let still := fun (b n : Nat) => s.heldRow b n (.itemAccept p) = none
  let takes := looks ∧ s.agentOk io place none .read = true ∧ ent = s.agentBytes place 16 none ∧ still place 16 ∧ still src len
  let accepted := fun (got : List Byte) (code : Nat) => Gives (exec (.itemAccept p) s) fun t =>
    t = { s with ports := t.ports, targets := t.targets, dies := t.dies, agenda := t.agenda, freeCtr := t.freeCtr }
    ∧ ports t { q with items := q.items ++ [⟨got, BitVec.ofNat 32 (descNum ent 12 4), q.spcfg, q.augcfg, s.ptc, code⟩] }
    ∧ DueFrom t s.now (.unitReady p)
  let crops := getB q.spcfg 7 = true
  let check : Nat := match itemHead bs with
    | none => 13
    | some y =>
      if getF q.splim 0 16 < y.w ∨ getF q.splim 16 16 < y.h ∨ getF q.splim 32 4 < y.c ∨ getF q.splim2 0 32 < y.w * y.h
          ∨ getF q.splim2 32 32 < y.w * y.h * y.c then 13
      else if crops ∧ (y.w < getF q.augcfg 20 12 + 1 ∨ y.h < getF q.augcfg 8 12 + 1) then 13
      else if y.enough = false then 14 else 0
  -- a unit of a raw item
  let first := q.items = x :: xs
  let g := fun (j : Nat) => genG (getF x.augcfg 32 32) ((4 * x.idx.toNat + j) % 2 ^ 32)
  let crop := getB x.spcfg 7
  let cw := if crop then getF x.augcfg 20 12 + 1 else im.w
  let chh := if crop then getF x.augcfg 8 12 + 1 else im.h
  let ox := if crop then (if getB x.spcfg 6 then g 0 * (im.w - cw + 1) / 2 ^ 32 else (im.w - cw) / 2) else 0
  let oy := if crop then (if getB x.spcfg 6 then g 1 * (im.h - chh + 1) / 2 ^ 32 else (im.h - chh) / 2) else 0
  let flip := getB x.spcfg 5 && (g 2).testBit 31
  let amp := getF x.augcfg 0 7
  let jit : Int := (g 3 * (2 * amp + 1) / 2 ^ 32 : Nat) - (amp : Int)
  -- shootdowns
  let ds := (s.ctx ctx.val).dies.filter s.liveDie
  let live := s.shoots.filter (fun y => y.id = id) = [h] ∧ h.dies.contains d.val = true
  let idle := h.seen.contains d.val = false ∧ h.pend = []
    ∧ ∀ k ∈ s.cores, coreDie k.1 = d.val → k.2.eng.chans.toList.flatten = [] ∧ k.2.eng.amos = []
  let meets := fun (t : TlbEnt) => t.1 = h.ctx ∧ t.2.1 < h.hi ∧ h.lo < t.2.1 + 2 ^ t.2.2.1
  -- migration
  let ivl := s.now + 2 ^ getF die.migctl 0 8 * (1000 * tick)
  let counts := getB die.migctl 48 = true ∧ s.now = die.ivlEnd
  let lock := exec (.migrationLock d page) s
  let forward := exec (.migrationForwarding d page) s
  let complete := exec (.migrationComplete d page) s
  let mine := fun (st : Nat) => die.migr = [m] ∧ m.old = page ∧ m.st = st
  (getB w0.ctl 0 = true → Gives (exec (.traceRecord d rec) s) fun t =>
    t = { s with dies := t.dies, agenda := t.agenda, freeCtr := t.freeCtr } ∧ (∀ e, e ≠ d.val → t.die e = s.die e)
    ∧ trace t = { w0 with
      head := w0.head + 1
      dropped := if n ≤ o then w0.dropped + 1 else w0.dropped
      overrun := w0.overrun || decide passed
      rd := if passed then BitVec.ofNat 63 (o - n + 1) else w0.rd
      queue := w0.queue ++ [(o, rec)]
      snap := if passed then s.now else w0.snap }
    ∧ DueFrom t s.now (.traceRecordPerformed d))
  ∧ (getB w0.ctl 0 = false → Gives (exec (.traceRecord d rec) s) fun t => OnlyCores s t [rec.src.toNat] ∧ trace t = w0)
  ∧ (w0.queue = [] → exec (.traceRecordPerformed d) s = .next s)
  ∧ (w0.queue = (i, rec) :: rest → key = getF w0.ctl 6 6 → quiet →
    Gives (exec (.traceRecordPerformed d) s) fun t => t.mem = (if ok then (s.memPut key at_ bytes).mem else s.mem)
      ∧ trace t = { w0 with queue := rest, done := if ok then w0.done + 1 else w0.done } ∧ t.now = s.now)
  ∧ (s.liveDie d.val = true → s.hostUp = true → Gives (exec (.traceEnable d v) s) fun t => t.now = s.now ∧ (trace t).queue = []
    ∧ (w0.queue = [] → t = { s with dies := t.dies } ∧ ∀ e, e ≠ d.val → t.die e = s.die e)
    ∧ (getB w0.ctl 0 = true → (trace t).ctl = setB w0.ctl 0 (getB v 0) ∧ kept t)
    ∧ (getB w0.ctl 0 = false → getB v 0 = true → 24 ≤ getF v 1 5 → getF v 1 5 ≤ 30 → (trace t).ctl = v ∧ (trace t).head = 0
      ∧ (trace t).done = 0 ∧ (trace t).dropped = 0 ∧ (trace t).rd = 0 ∧ (trace t).overrun = false)
    ∧ (getB w0.ctl 0 = false → (getB v 0 = false ∨ getF v 1 5 < 24 ∨ 30 < getF v 1 5) → (trace t).ctl = setB v 0 false ∧ kept t))
  ∧ (getB q.iqctl 8 = false → exec (.iqtailWrite p w) s = .next s)
  ∧ (s.hostUp = true → getB q.iqctl 8 = true → outside → Gives (exec (.iqtailWrite p w) s) fun t =>
    t = { s with ports := t.ports } ∧ ports t { q with iqctl := setB q.iqctl 9 true })
  ∧ (s.hostUp = true → getB q.iqctl 8 = true → ¬ outside → Gives (exec (.iqtailWrite p w) s) fun t =>
    t = { s with ports := t.ports, agenda := t.agenda, freeCtr := t.freeCtr } ∧ ports t { q with iqtail := w }
    ∧ DueFrom t s.now (.itemAccept p))
  ∧ (¬ looks → exec (.itemAccept p) s = .next s)
  ∧ (∀ u, looks → s.heldRow place 16 (.itemAccept p) = some u → exec (.itemAccept p) s = .next u)
  ∧ (looks → still place 16 → s.agentOk io place none .read = false → Gives (exec (.itemAccept p) s) fun t => DueFrom t s.now (.unitReady p)
      ∧ ∃ z, ports t { q with items := q.items ++ [z] } ∧ z.bytes = [] ∧ z.code = 3)
  ∧ (takes → s.dpa src = none → accepted [] 13)
  ∧ (takes → s.dpa src ≠ none → s.agentOk io src none .read = false → accepted [] 3)
  ∧ (takes → s.dpa src ≠ none → s.agentOk io src none .read = true → s.agentBytes src len none = bs → accepted bs check)
  ∧ (q.items = [] → exec (.unitReady p) s = .next s)
  ∧ (first → Gives (exec (.unitReady p) s) fun t => t = { s with ports := t.ports, freeCtr := t.freeCtr } ∧ ∃ u,
    ports t { q with items := xs, units := q.units ++ [u], iqhead := q.iqhead + 1 }
    ∧ (x.code ≠ 0 → u.code = x.code ∧ u.bytes.length = 64 ∧ (u.bytes.drop 12).take 1 = leBytes 1 x.code
      ∧ (u.bytes.drop 10).take 2 = leBytes 2 0)
    ∧ (x.code = 0 → itemHead x.bytes = some im → im.src = 0 → u.code = 0 ∧ u.bytes.length = 64 + cw * chh * im.c
      ∧ u.bytes.take 14 = le 4 x.idx.toNat ++ le 2 cw ++ le 2 chh ++ le 1 im.c ++ le 1 10 ++ le 2 (Nat.min (im.h - oy) chh) ++ le 2 0
      ∧ ∀ y z e, y < chh → z < cw → e < im.c →
        ((u.bytes.getD (64 + (y * cw + z) * im.c + e) 0).toNat : Int) = if im.h - oy ≤ y then 0
          else max 0 (min 255 (((x.bytes.getD (8 + (((oy + y) * im.w + ox + (if flip then cw - 1 - z else z)) * im.c + e)) 0).toNat : Int) + jit))))
  ∧ (s.hostUp = false → exec (.shootdown ctx lo hi) s = .next s)
  ∧ (s.hostUp = true → Gives (exec (.shootdown ctx lo hi) s) fun t =>
    t = { s with agenda := t.agenda, freeCtr := t.freeCtr, nextKey := s.nextKey + 1, shoots := t.shoots }
    ∧ t.shoots = s.shoots ++ [⟨s.nextKey, ctx.val, lo, hi, ds, [], [], none⟩]
    ∧ ∀ e : Fin 9, e.val ∈ ds → DueFrom t (s.now + tbCycle) (.shootdownAck e s.nextKey))
  ∧ ((∀ y ∈ s.shoots, y.id ≠ id ∨ y.dies.contains d.val = false) → exec (.shootdownAck d id) s = .next s)
  ∧ (live → h.seen.contains d.val = true → (∃ k ∈ h.pend, k.1 = d.val ∧ s.stillOut k.2 = true) → Gives (exec (.shootdownAck d id) s) fun t =>
    t = { s with agenda := t.agenda, freeCtr := t.freeCtr } ∧ DueFrom t (s.now + tbCycle) (.shootdownAck d id))
  ∧ (live → idle → Gives (exec (.shootdownAck d id) s) fun t => t = { s with cores := t.cores, dies := t.dies, shoots := t.shoots, agenda := t.agenda }
    ∧ (∀ c, t.core c = { s.core c with eng := { (s.core c).eng with tlb := (t.core c).eng.tlb } })
    ∧ (∀ k ∈ t.cores, coreDie k.1 = d.val → ∀ e ∈ k.2.eng.tlb, ¬ meets e) ∧ (∀ e ∈ (t.die d.val).tlb, ¬ meets e)
    ∧ (∀ e ∈ die.tlb, ¬ meets e → e ∈ (t.die d.val).tlb)
    ∧ (h.dies.filter (fun e => e ≠ d.val) ≠ [] → t.agenda = s.agenda
      ∧ t.shoots.filter (fun y => y.id = id) = [{ h with seen := d.val :: h.seen, dies := h.dies.filter (fun e => e ≠ d.val) }])
    ∧ (h.dies.filter (fun e => e ≠ d.val) = [] → t.shoots.filter (fun y => y.id = id) = []
      ∧ ∀ (e : Fin 9) (g : Nat), h.migr = some (e.val, g) → DueAt t s.now (.migrationComplete e g)))
  ∧ (¬ counts → exec (.migrationInterval d) s = .next s)
  ∧ (counts → Gives (exec (.migrationInterval d) s) fun t => (t.die d.val).counts = [] ∧ (t.die d.val).ivlEnd = ivl ∧ t.cores = s.cores
    ∧ t.now = s.now ∧ (∀ e, e ≠ d.val → t.die e = s.die e) ∧ DueBy t ivl (.migrationInterval d)
    ∧ ((t.die d.val).migr = die.migr ∧ t.mem = s.mem
      ∨ ∃ z : Migr, (t.die d.val).migr = die.migr ++ [z] ∧ z.st = 0 ∧ z.dirty = [] ∧ z.held = [] ∧ DueFrom t s.now (.migrationLock d z.old)
        ∧ ∀ l ∈ s.launches, l.2.ctx = z.ctx → l.2.img.miglock = true → l.2.st ≠ .running ∧ l.2.st ≠ .aborting))
  ∧ (mine 0 → Gives lock fun t => t = { s with dies := t.dies, agenda := t.agenda, freeCtr := t.freeCtr }
    ∧ (t.die d.val).migr = [{ m with st := 1 }] ∧ DueFrom t s.now (.migrationForwarding d page))
  ∧ ((∀ z ∈ die.migr, z.old = page → z.st ≠ 0) → lock = .next s)
  ∧ (mine 1 → Gives forward fun t => t.cores = s.cores ∧ t.now = s.now
    ∧ (t.die d.val).migr = [{ m with st := 2, dirty := [], held := [] }] ∧ (∀ e ∈ m.held, DueAt t s.now e)
    ∧ t.shoots = s.shoots ++ [⟨s.nextKey, m.ctx, m.va, m.va + 2 ^ m.size, (s.ctx m.ctx).dies.filter s.liveDie, [], [], some (d.val, page)⟩]
    ∧ (m.dirty = [] → t.mem = (s.rewritePte d.val m).mem))
  ∧ ((∀ z ∈ die.migr, z.old = page → z.st ≠ 1) → forward = .next s)
  ∧ (mine 2 → Gives complete fun t => t = { s with dies := t.dies, agenda := t.agenda } ∧ (t.die d.val).migr = []
    ∧ ∀ e ∈ m.direct, DueAt t s.now e)
  ∧ ((∀ z ∈ die.migr, z.old = page → z.st ≠ 2) → complete = .next s)

/-! ### The package and the outside world at work -/

/-- R9, R10, R14, R20, R90 to R92, R97, R98, R290, R305, R306, R308, R312, R313, R315 to R318, R320, R321, R326, R339, R342, R344, R345, R348:
what a write of each management register does; the host's DMA and CXL accesses, checked in the access table, where the DMA of a structured
image and the fall of the images at whose addresses the host writes are the model's choice (log 9); keys, the access table and
the attestation report; a link that goes down; the setting up of a partition; ageing words; module reset; and the debugger's commands and
writes, and the pending writes that it reads. What monitors measure and delays that are not stated are free values (log 4), and the order
of acts within one instant is the model's own (log 5). What the rules leave open of it is logs 8, 12, 15, 18, 19, 20, 34, 35, 40 and 41.
-/
def Obligations.PackageEvents : Prop := ∀ (s : State) (off : Nat) (v : W64) (ctx : Fin 8) (d : Fin 9) (n9 : Fin 9) (q : Fin 256) (p : Fin 16)
    (a a2 tgt key len : Nat) (bs : List Byte) (img : Image) (link : Fin 36) (l : Nat) (x : Launch) (dies : List Nat) (topo : Topology) (k64 : Fin 64)
    (kp : KeyPair) (tg : Target) (ma : Fin 4096) (bv : BitVec 128) (isls stks : List Nat) (c g : Nat) (y : Gang) (n : Fin 32) (m : Fin 16) (e : Fin 1024)
    (kn : Fin 8),
  let up := s.hostUp = true
  let wr := fun (r : MReg) (w : W64) => exec (.registerWrite r w) s
  let ctxIs := fun (o : Out) (z : Ctx) => Gives o fun t => t = { s with ctxs := t.ctxs } ∧ t.ctx ctx.val = z
    ∧ ∀ j, j < 8 → j ≠ ctx.val → t.ctx j = s.ctx j
  let cx := s.ctx ctx.val
  let busy := s.ctxBusy ctx.val
  let pkgIs := fun (o : Out) (z : Pkg) => Gives o fun t => t = { s with pkg := z }
  let port := s.port p.val
  let portIs := fun (r : Nat) (w : W64) (z : Port) => Gives (wr (.bar0 (0x400 + 0x40 * p.val + 8 * r)) w) fun t =>
    t = { s with ports := t.ports, agenda := t.agenda, freeCtr := t.freeCtr } ∧ t.port p.val = z ∧ ∀ j, j < 16 → j ≠ p.val → t.port j = s.port j
  let named := s.portNamed p.val = true
  let seeded : Port := { port with augcfg := setF port.augcfg 32 32 (getF v 32 32) }
  let low := Nat.land (getF v 0 32) 0xFFFFFF7F
  let iq := (v &&& 0xFFFFFFFFFFFFF1F0) ||| (if getB v 9 then 0 else port.iqctl &&& 0x200)
  let cmd := fun (i : Nat) (o : Instr) => getF v 0 4 = i → wr (.bar0 (0x100000 + 0x1000 * c)) v = exec o (s.dbgctlFields c v)
  let td := (s.die d.val).tr
  let newer := td.snap ≠ 0 ∧ td.snap / tbCycle = s.now / tbCycle ∧ getF v 0 63 < td.rd.toNat
  let hit := s.dpa a = some (tgt, a2) ∧ s.migrOf a2 true = none
  let still := fun (b m : Nat) (i : Instr) => s.heldRow b m i = none
  let denied := fun (o : Out) (x : XKind) => Gives o fun t => t = s.logDenial tgt 0x11A a x
  let found := fun (o : Out) (b : Nat) (slot : Option Nat) => Gives o fun t =>
    t = { s with dies := t.dies, pkg := { s.pkg with hostRead := s.agentBytes b len slot } }
  let dmaW : Instr := .hostDma (.write a key bs)
  let dmaR : Instr := .hostDma (.read a key len)
  let dmaI : Instr := .hostDma (.image a key img)
  let wrote := fun (o : Out) (at_ : Nat) (slot : Option Nat) => Gives o fun t => t.mem = (s.agentBytesTo at_ slot bs).mem ∧ t.cores = s.cores ∧ t.agenda = s.agenda
    ∧ t.pkg = s.pkg ∧ ∀ z, z ∈ t.images ↔ z ∈ s.images ∧ ¬ ∃ i, i < bs.length ∧ (s.dpa (at_ + i)).map (·.2) = some z.1
  -- a link goes down
  let da := link.val / 4
  let side := link.val % 4
  let ends := BitVec.ofNat 36 (2 ^ link.val) ||| (match dieStep da side with
    | some b => BitVec.ofNat 36 (2 ^ (4 * b + oppSide side))
    | none => 0)
  let theLaunch := AMap.get? s.launches l = some x ∧ ∀ z ∈ s.launches, z.1 = l → z.2 = x
  -- a partition
  let ds := (List.range 9).filter (fun j => dies.contains j)
  let part := Gives (exec (.partitionSetup ctx dies topo) s)
  let legal := busy = false ∧ (ds.length = 1 ∨ ds.length = 2 ∨ ds.length = 4 ∨ ds.length = 8) ∧ (∀ j ∈ dies, j < 9 ∧ j ≠ s.pkg.hdie)
    ∧ (∀ i, i < 8 → i ≠ ctx.val → ∀ j ∈ ds, j ∉ (s.ctx i).dies) ∧ (fabricLinks topo ds ++ s.otherLinks ctx.val).Nodup
  let answers := fun (o : Out) (r : Nat) => pkgIs o { s.pkg with mgmtStatus := r }
  let enabled := ∃ z ∈ s.targets, ∃ w ∈ z.2.table, getB w.2 k64.val = true
  let tn := match tg with
    | .hbm j => j.val
    | .io j => 9 + j.val
    | .cxl => 13
  -- the harvested die holds no target (R14)
  let there := ∀ j, tg = .hbm j → s.liveDie j.val = true
  let fw := fun (i : Nat) => (s.pkg.fw.getD i ([], [])).1
  let body := le 4 1 ++ bs ++ le 8 s.pkgcfg.toNat ++ shake256 (fw 0) 64 ++ shake256 (fw 1 ++ fw 2) 64 ++ shake256 s.fuseBytes 64
    ++ le 8 (s.pkg.keys.foldl (fun j z => j + 2 ^ z.1) 0)
  -- ageing: the word of a unit after n seconds
  let sec := s.pkg.ageN + 1
  let aged := fun (old w : W64) (h : List (Nat × Nat)) => let wear := getF w 32 16
    let h1 := if wear = getF old 32 16 then h else h ++ [(sec, wear)]
    let rise := wear - (ageAt h1 (sec - 3600000)).2
    getF old 32 16 ≤ wear
      ∧ getF w 48 16 = if rise = 0 then 0xFFFF else Nat.min 0xFFFF ((0xFFFF - wear) * Nat.min sec 3600000 / (rise * 3600))
  let reset_ : W64 := 0xFFFF000000000000
  -- the debugger
  let k := s.core c
  let gang := s.gangOf c = some (g, y)
  let gangIs := fun (t : State) (z : Gang) => AMap.get? t.gangs g = some z
  let idle := y.df = false ∧ y.step = 0 ∧ (∀ r ∈ y.retts, r.1 ≠ 0xFFFF) ∧ (y.byDebug = true → y.st ≠ .halting ∧ y.dbgT ≤ s.now)
  let held := gang ∧ y.st = .halted ∧ y.byDebug = true ∧ idle
  let haltT := s.inst c (s.cyc c) + (s.dmax y.cores + 16) * tbCycle
  let stepped := fun (o : Out) (j : Nat) => Gives o fun t => t.mem = s.mem ∧ t.now = s.now
    ∧ gangIs t { y with st := .halting, step := j, stepSum := s.issued y, restartT := s.now }
    ∧ (∀ i ∈ y.cores, (s.core i).seq.st = .halt → i ∉ y.ended → (∀ r ∈ y.retts, r.1 ≠ i) → (t.core i).seq.counting = !(s.core i).priv ∧ (t.core i).sc = (s.core i).sc)
    ∧ (∀ i, i ∉ y.cores → t.core i = s.core i) ∧ DueAt t s.now (.gangHalt g)
  let tk := s.ptc / 2 ^ 32 * 2 ^ 32 + k.dbg.tick.toNat
  let rs := (0xFFFF, tk) :: y.retts
  let most := rs.foldl (fun j r => Nat.max j r.2) 0
  let z : Gang := { y with byDebug := false, retts := rs, lastRett := c, lastRettT := s.now }
  let ready := ∀ i ∈ y.trapped, i ∈ y.ended ∨ ∃ r ∈ rs, r.1 = i
  let within := ∃ i ∈ y.trapped, i ∉ y.ended ∧ (∀ r ∈ y.retts, r.1 ≠ i) ∧ (s.core i).priv = true
  let pokes := fun (r : DbgReg) (w : W64) (P : Core → Prop) => Gives (exec (.debugRegisterWrite c r w) s) fun t => OnlyCore s t c ∧ P (t.core c)
  let vr := k.vec.v[n]
  (s.hostUp = false → ∀ r, wr r v = .next s)
  ∧ (up → (busy = true → ∀ r ∈ ([.ptbase ctx, .trapvec ctx, .trapstk ctx] : List MReg), wr r v = .next s)
    ∧ (busy = false → ctxIs (wr (.ptbase ctx) v) { cx with ptbase := v } ∧ ctxIs (wr (.trapvec ctx) v) { cx with trapvec := v }
      ∧ ctxIs (wr (.trapstk ctx) v) { cx with trapstk := v })
    ∧ ctxIs (wr (.pcap ctx) v) { cx with pcap := v }
    ∧ (s.liveDie d.val = true → Gives (wr (.migctl d) v) fun t => (t.die d.val).migctl = v &&& 0x1FFFFFFFFFFFF ∧ (t.die d.val).counts = []
      ∧ t = { s with dies := t.dies, agenda := t.agenda }
      ∧ (getB v 48 = true → DueAt t (s.now + 2 ^ getF v 0 8 * (1000 * tick)) (.migrationInterval d)))
    ∧ (Gives (wr (.reqcnt d n9) v) fun t => t = { s with dies := t.dies } ∧ t.die d.val = { s.die d.val with
        reqcnt := (s.die d.val).reqcnt.set n9.val ((s.die d.val).reqcnt[n9] &&& ~~~ v.truncate 48) })
    ∧ pkgIs (wr .cxlBase v) { s.pkg with cxlBase := v }
    ∧ (v.toNat ≤ 2 ^ 38 → pkgIs (wr .cxlSize v) { s.pkg with cxlSize := v }) ∧ (2 ^ 38 < v.toNat → wr .cxlSize v = .next s)
    -- the registers of the BAR0 space, by offset
    ∧ ((off % 8 ≠ 0 ∨ off < 0x400 ∨ (0xA40 ≤ off ∧ off < 0x20000) ∨ (0x21000 ≤ off ∧ off < 0x100000)) → wr (.bar0 off) v = .next s)
    ∧ wr (.bar0 (0x20000 + 16 * q.val)) v = exec (.qctlWrite q v) s
    ∧ wr (.bar0 (0x20008 + 16 * q.val)) v = exec (.qtailWrite q (v.truncate 32)) s
    ∧ wr (.bar0 (0x800 + 0x40 * d.val)) v = exec (.traceEnable d v) s
    ∧ wr (.bar0 (0x430 + 0x40 * p.val)) v = exec (.iqtailWrite p (v.truncate 32)) s
    ∧ (named → portIs 0 v { port with spcfg := setB port.spcfg 8 true } ∧ portIs 1 v { port with spcfg := setB port.spcfg 8 true })
    ∧ (¬ named → portIs 1 v { port with spsid := v } ∧ portIs 2 v { port with splim := v &&& 0xFFFFFFFFF } ∧ portIs 3 v { port with splim2 := v }
      ∧ portIs 0 v { port with spcfg := (v &&& 0xFFC000E3) ||| (if getB v 8 then 0 else port.spcfg &&& 0x100) })
    ∧ (low = getF port.augcfg 0 32 → portIs 4 v seeded)
    ∧ (low ≠ getF port.augcfg 0 32 → (named → portIs 4 v { seeded with spcfg := setB port.spcfg 8 true })
      ∧ (¬ named → portIs 4 v { seeded with augcfg := setF seeded.augcfg 0 32 low }))
    ∧ (¬ named → (getB port.iqctl 8 = false ∨ port.iqhead = port.iqtail → portIs 5 v { port with iqctl := iq })
      ∧ (getB port.iqctl 8 = true → port.iqhead ≠ port.iqtail → portIs 5 v { port with iqctl := setB port.iqctl 9 true }))
    ∧ (s.liveDie d.val = true → Gives (wr (.bar0 (0x818 + 0x40 * d.val)) v) fun t => t = { s with dies := t.dies } ∧ (t.die d.val).tr
      = { td with overrun := td.overrun && !getB v 63, rd := if newer then td.rd else v.truncate 63 })
    ∧ (s.liveCore c = true → cmd 1 (.debugHalt c) ∧ cmd 2 (.debugStep c) ∧ cmd 3 (.debugStepg c) ∧ cmd 4 (.debugResume c))
    ∧ (s.liveCore c = true → (getF v 0 4 = 0 ∨ 5 ≤ getF v 0 4) → Gives (wr (.bar0 (0x100000 + 0x1000 * c)) v) fun t => (∀ i, s.gangOf c = none → i ≠ c → t.core i = s.core i)
      ∧ (t.core c).dbg.tick = (v >>> 32).truncate 32 ∧ (t.core c).dbg.attach = getB v 7 ∧ t.mem = s.mem
      ∧ (gang → ∀ i ∈ y.cores, (t.core i).dbg.attach = getB v 7)))
  -- the host's accesses
  ∧ (s.hostUp = false → ∀ o, exec (.hostDma o) s = .next s)
  ∧ (up → s.dpa a = none → ∀ i ∈ [dmaW, dmaR, dmaI], exec i s = .fault .noTarget)
  ∧ (up → hit → (still a bs.length dmaW → s.grants tgt 0x11A .write key = true → wrote (exec dmaW s) a (some key))
    ∧ (still a 1 dmaI → s.grants tgt 0x11A .write key = true → Gives (exec dmaI s) fun t => t = { s with images := AMap.put s.images a2 img })
    ∧ (still a bs.length dmaW → s.grants tgt 0x11A .write key = false → denied (exec dmaW s) .write)
    ∧ (still a 1 dmaI → s.grants tgt 0x11A .write key = false → denied (exec dmaI s) .write)
    ∧ (still a len dmaR → s.grants tgt 0x11A .read key = true → found (exec dmaR s) a (some key))
    ∧ (still a len dmaR → s.grants tgt 0x11A .read key = false → denied (exec dmaR s) .read))
  ∧ (s.hostUp = false → ∀ o, exec (.cxlHostAccess o) s = .next s)
  ∧ (up → let w : Instr := .cxlHostAccess (.hdmWrite off bs)
    let r : Instr := .cxlHostAccess (.hdmRead off len)
    (off + bs.length ≤ 2 ^ 38 → still (0x40000000000 + off) bs.length w → wrote (exec w s) (0x40000000000 + off) none)
    ∧ (2 ^ 38 < off + bs.length → exec w s = .fault .noTarget)
    ∧ (off + len ≤ 2 ^ 38 → still (0x40000000000 + off) len r → found (exec r s) (0x40000000000 + off) none)
    ∧ (2 ^ 38 < off + len → exec r s = .fault .noTarget)
    ∧ (off + bs.length ≤ s.pkg.cxlSize.toNat → wrote (exec (.cxlHostAccess (.hostWrite off bs)) s) (0xC0000000000 + off) none)
    ∧ (s.pkg.cxlSize.toNat < off + bs.length → exec (.cxlHostAccess (.hostWrite off bs)) s = .fault .noTarget))
  -- links and partitions
  ∧ (linkDownAt s.pkg.down da side = true → exec (.linkDown link) s = .next s)
  ∧ (linkDownAt s.pkg.down da side = false → Gives (exec (.linkDown link) s) fun t =>
    t = { s with launches := t.launches, pkg := t.pkg, agenda := t.agenda, freeCtr := t.freeCtr }
    ∧ t.pkg = { s.pkg with down := s.pkg.down ||| ends, lattab := rebuiltTable (s.pkg.down ||| ends) s.pkg.hdie
                           auth := BitVec.ofNat 2 t.authority.2, lost0 := t.pkg.lost0, lost2 := t.pkg.lost2 }
    ∧ (t.split = false → t.authority.2 = 0 ∧ t.pkg.lost0 = s.pkg.lost0 ∧ t.pkg.lost2 = s.pkg.lost2)
    ∧ (theLaunch → x.st = .running → (s.usesLink x (da, side) = true ∨ t.launchLost x = true) →
      AMap.get? t.launches l = some { x with st := .aborting, status := .aborted } ∧ ∃ u ∈ t.agenda, u.act = .mi (.stopBroadcast l))
    ∧ (theLaunch → (x.st ≠ .running ∨ (s.usesLink x (da, side) = false ∧ t.launchLost x = false)) → AMap.get? t.launches l = some x))
  ∧ (s.hostUp = false → exec (.partitionSetup ctx dies topo) s = .next s)
  ∧ (up → legal → part fun t => t = { s with ctxs := t.ctxs, pkg := { s.pkg with mgmtStatus := 0 } }
    ∧ (∀ j, j < 8 → j ≠ ctx.val → t.ctx j = s.ctx j)
    ∧ t.ctx ctx.val = { cx with dies := ds, topo := topo, xcids := [], steer := (t.ctx ctx.val).steer }
    ∧ ∀ i, i < 16 → getF (t.ctx ctx.val).steer (4 * i) 4 = ds.getD (i % ds.length) 0)
  ∧ (up → ¬ legal → part fun t => t = { s with pkg := { s.pkg with mgmtStatus := 1 } })
  -- the security processor
  ∧ (s.hostUp = false → ∀ i ∈ ([.keyLoad kp, .keyClear k64, .attestationRequest bs] : List Instr), exec i s = .next s)
  ∧ (up → k64.val = 63 → answers (exec (.keyClear k64) s) 3)
  ∧ (up → kp.slot.val = 63 → answers (exec (.keyLoad kp) s) 3)
  ∧ (up → kp.slot.val ≠ 63 →
    pkgIs (exec (.keyLoad kp) s) { s.pkg with keys := AMap.put s.pkg.keys kp.slot.val kp.keys, mgmtStatus := 0 })
  ∧ (up → k64.val ≠ 63 → (enabled → answers (exec (.keyClear k64) s) 2)
    ∧ (¬ enabled → pkgIs (exec (.keyClear k64) s) { s.pkg with keys := AMap.del s.pkg.keys k64.val, mgmtStatus := 0 }))
  ∧ (s.hostUp = false ∨ ¬ there → exec (.accessTableWrite tg ma bv) s = .next s)
  ∧ (up → there → Gives (exec (.accessTableWrite tg ma bv) s) fun t => t = { s with targets := t.targets }
    ∧ (∀ j, j ≠ tn → AMap.get? t.targets j = AMap.get? s.targets j)
    ∧ ∃ w, AMap.get? t.targets tn = some w ∧ w.log = ((AMap.get? s.targets tn).getD ⟨[], []⟩).log
      ∧ AMap.get? w.table ma.val = some (bv &&& BitVec.ofNat 128 (2 ^ 67 - 1))
      ∧ ∀ j, j ≠ ma.val → AMap.get? w.table j = AMap.get? ((AMap.get? s.targets tn).getD ⟨[], []⟩).table j)
  ∧ (bs.length ≠ 32 → exec (.attestationRequest bs) s = .next s)
  ∧ (up → bs.length = 32 → pkgIs (exec (.attestationRequest bs) s) { s.pkg with report := body ++ edSign s.pkg.devKey body })
  -- what is reported, and reset
  ∧ (Gives (exec (.ageingUpdate isls stks) s) fun t =>
    t = { s with pkg := { s.pkg with ageI := t.pkg.ageI, ageS := t.pkg.ageS, ageHist := t.pkg.ageHist, ageN := sec },
                 agenda := t.agenda, freeCtr := t.freeCtr }
    ∧ (∀ i, i ∉ isls ∨ s.liveIsland i = false → AMap.get? t.pkg.ageI i = AMap.get? s.pkg.ageI i)
    ∧ (∀ i, i ∉ stks ∨ s.liveDie (i / 4) = false → AMap.get? t.pkg.ageS i = AMap.get? s.pkg.ageS i)
    ∧ (∀ i, isls.count i = 1 → s.liveIsland i = true → ∃ w, AMap.get? t.pkg.ageI i = some w
      ∧ aged ((AMap.get? s.pkg.ageI i).getD reset_) w ((AMap.get? s.pkg.ageHist i).getD []))
    ∧ (∀ i, stks.count i = 1 → s.liveDie (i / 4) = true → ∃ w, AMap.get? t.pkg.ageS i = some w
      ∧ aged ((AMap.get? s.pkg.ageS i).getD reset_) w ((AMap.get? s.pkg.ageHist (72 + i)).getD []))
    ∧ (s.isDue (.ev (.ageingUpdate isls stks)) = false →
      DueAt t (s.now + 1000000000 * tick) (.ageingUpdate (List.range 72) (List.range 36))))
  ∧ (∀ rate width : Fin 8, pkgIs (exec (.hostPortTraining rate width) s) { s.pkg with link := (rate.val, width.val) })
  ∧ (Gives (exec .moduleReset s) fun t => t = { State.reset with freeCtr := s.freeCtr, mem := s.mem, lineKeys := s.lineKeys, images := s.images, pkg := t.pkg }
    ∧ t.pkg = { State.reset.pkg with hdie := s.pkg.hdie, hcause := s.pkg.hcause, fuseV := s.pkg.fuseV, fw := s.pkg.fw,
                                      fwKey := s.pkg.fwKey, devKey := s.pkg.devKey, chain := s.pkg.chain })
  -- the debugger
  ∧ (s.gangOf c = none → ∀ i ∈ ([.debugHalt c, .debugStep c, .debugStepg c, .debugResume c] : List Instr), exec i s = .next s)
  ∧ (gang → ¬ idle ∨ y.byDebug = true → exec (.debugHalt c) s = .next s)
  ∧ (gang → idle → y.byDebug = false → (y.st = .running ∨ y.st = .stopping) → Gives (exec (.debugHalt c) s) fun t =>
    t = { s with gangs := t.gangs, agenda := t.agenda }
    ∧ gangIs t { y with byDebug := true, dbgT := haltT, st := .halting, haltT := haltT } ∧ DueBy t haltT (.gangHalt g))
  ∧ (gang → idle → y.byDebug = false → (y.st = .halting ∨ y.st = .halted) → Gives (exec (.debugHalt c) s) fun t =>
    t = { s with gangs := t.gangs, agenda := t.agenda } ∧ gangIs t { y with byDebug := true, dbgT := haltT })
  ∧ (held → stepped (exec (.debugStep c) s) 1 ∧ stepped (exec (.debugStepg c) s) 2)
  ∧ (gang → ¬ held → ∀ i ∈ ([.debugStep c, .debugStepg c, .debugResume c] : List Instr), exec i s = .next s)
  ∧ (held → within → Gives (exec (.debugResume c) s) fun t => t.mem = s.mem ∧ t.now = s.now ∧ gangIs t { y with byDebug := false })
  ∧ (held → ¬ within → ¬ ready → Gives (exec (.debugResume c) s) fun t => t = { s with gangs := t.gangs } ∧ gangIs t z)
  ∧ (held → ¬ within → ready → Gives (exec (.debugResume c) s) fun t => t.mem = s.mem ∧ t.now = s.now ∧ (t.core c).sc = k.sc
    ∧ gangIs t { z with restartT := Nat.max (most * tick) (Nat.max y.haltT s.now) }
    ∧ DueAt t (Nat.max (most * tick) (Nat.max y.haltT s.now)) (.gangRestart g))
  ∧ (k.seq.st ≠ .halt → ∀ r, exec (.debugRegisterWrite c r v) s = .next s)
  ∧ (k.seq.st = .halt →
    pokes (.s n) v (fun j => j = (if n = 0 then k else { k with sc := { k.sc with s := k.sc.s.set n.val v } }))
    ∧ pokes (.a m) v (fun j => j = { k with sc := { k.sc with a := k.sc.a.set m.val (v.truncate 32) } })
    ∧ pokes (.v n e) v (fun j => j = { k with vec := { k.vec with v := k.vec.v.set n.val { vr with data := j.vec.v[n].data } } }
      ∧ ∀ i, i < 1024 → j.vec.v[n].data.getD i 0 = if i = e.val then v.truncate 32 else vr.data.getD i 0)
    ∧ (∀ (tag : Tag) (sc : Bool) (teo : BitVec 8), pokes (.vtag n tag sc teo) v (fun j =>
        j = { k with vec := { k.vec with v := k.vec.v.set n.val { vr with tag := tag, sc := sc, teo := teo } } }))
    ∧ (∀ b : Fin 32, pokes (.vscale n b) v (fun j =>
        j = { k with vec := { k.vec with v := k.vec.v.set n.val { vr with scales := j.vec.v[n].scales } } }
        ∧ ∀ i, i < 32 → j.vec.v[n].scales.getD i 0 = if i = b.val then v.truncate 8 else vr.scales.getD i 0))
    ∧ pokes (.k kn m) v (fun j => j = { k with vec := { k.vec with k := j.vec.k } } ∧ (kn = 0 → j = k)
      ∧ (∀ o : Fin 8, o ≠ kn → j.vec.k[o] = k.vec.k[o])
      ∧ (kn ≠ 0 → ∀ i, i < 1024 → j.vec.k[kn].getLsbD i = if i / 64 = m.val then v.getLsbD (i % 64) else k.vec.k[kn].getLsbD i))
    ∧ pokes .status v (fun j => j = { k with tr := { k.tr with status := j.tr.status } }
      ∧ (∀ i, (16 ≤ i ∧ i ≤ 21) ∨ i = 6 ∨ i = 8 → getB j.tr.status i = getB v i)
      ∧ getF j.tr.status 0 4 = (if 8 ≤ getF v 0 4 then 15 else getF v 0 4)
      ∧ (∀ i, i = 4 ∨ i = 5 ∨ i = 7 ∨ (9 ≤ i ∧ i ≤ 15) ∨ 22 ≤ i → getB j.tr.status i = getB k.tr.status i)))
  -- what the debugger reads of the pending writes, in landing order
  ∧ (s.pendList c).Pairwise (fun i j => i.left < j.left ∨ (i.left = j.left ∧ i.seq ≤ j.seq))
  ∧ (s.liveCore c = true → ∀ i r, i < 240 → (s.pendList c)[i]? = some r → r.file < 256 → r.num < 256 →
    let at_ := 0x100000 + 0x1000 * c + 0x100 + 16 * i
    let w := s.bar0Read at_
    getF w 0 8 = r.file ∧ getF w 8 8 = r.num ∧ getF w 16 16 = r.left % 2 ^ 16 ∧ getF w 32 32 = r.pc.toNat % 2 ^ 32
      ∧ ∀ u, r.value = some u → s.bar0Read (at_ + 8) = u)

/-! ### The machine -/

/-- R57, R73, R76, R79, R97, R99, R179, R182, R208, R292, R311, R339, R342, R348, R352: what module reset leaves, for the values that the
spec gives: the saved registers, counters, cube, tile table, views and tile store of every core; the context, queue, trace, port and
ageing registers; no access granted, no link down; memory lists nothing, and the first stage of bring-up is due. (What an unlisted byte
of device memory reads as, and every register that this leaves out, is the model's choice: logs 1 to 3.) -/
def Obligations.ResetState : Prop :=
  let s := State.reset
  Canonical s ∧ s.mem = [] ∧ s.issue.active = false ∧ (s.agenda.map (·.act)) = [.mi (.bringUp 1)] ∧ s.pkg.bootst = 0
  ∧ (∀ c, let k := s.core c
    k.tr.status = 0xF ∧ k.tr.cause = 0 ∧ k.tr.cause2 = 0 ∧ k.tr.svec = 0 ∧ k.tr.ssp = 0
    ∧ (∀ n : Fin 16, k.sc.b[n] = 0 ∧ k.ct.dcr[n] = 0) ∧ k.ct.gm = 0
    ∧ (∀ n : Fin 256, k.tile.ents[n] = ⟨0, 0⟩ ∧ k.tile.views[n] = ⟨false, 0, 0⟩) ∧ (∀ a, Mem.read k.tile.mem a = 0)
    ∧ (∀ n : Fin 8, k.cube.acc[n].tag = .none ∧ k.cube.acc[n].sat = false ∧ k.cube.acc[n].data = []) ∧ (∀ n : Fin 8, k.cube.fol[n] = 0)
    ∧ (∀ n : Fin 4, k.cube.lat[n].tag = .none) ∧ (∀ n : Fin 16, k.cube.rings[n] = .unset)
    ∧ k.cube.ccfg = 0 ∧ k.cube.qidx = 0 ∧ k.cube.queue = [] ∧ k.dbg = ⟨false, 0⟩ ∧ k.seq.st = .idle)
  ∧ (∀ c, c < 8 → (s.ctx c).steer = 0 ∧ (s.ctx c).trapvec = 0 ∧ (s.ctx c).trapstk = 0)
  ∧ (∀ q, s.queue q = ⟨0, 0, 0⟩) ∧ (∀ tgt master x key, s.grants tgt master x key = false)
  ∧ (∀ d, (s.die d).migctl = 0 ∧ (s.die d).tr.ctl = 0 ∧ (s.die d).tr.head = 0 ∧ (s.die d).tr.done = 0 ∧ ∀ n : Fin 9, (s.die d).reqcnt[n] = 0)
  ∧ (∀ p, p < 16 → (s.port p).spcfg = 0 ∧ (s.port p).spsid = 0 ∧ (s.port p).splim = 0 ∧ (s.port p).splim2 = 0 ∧ (s.port p).augcfg = 0
    ∧ (s.port p).iqctl = 0 ∧ (s.port p).slots = (.empty, .empty))
  ∧ s.linkstat = 0 ∧ (∀ i, i < 72 → s.bar0Read (0x1000 + 8 * i) = 0xFFFF000000000000)

/-- A step keeps device memory in its canonical form: addresses strictly rising, nothing listed that an unlisted byte would read as (the
form is the model's own, log 3). -/
def Obligations.StepKeepsCanonical : Prop := ∀ s t : State, Canonical s → step s = .next t → Canonical t

/-- R149 to R158: decoding the word that encodes a well-formed instruction gives it back, with every operand; and every word that decodes
is the one word of its instruction, which is well-formed. -/
def Obligations.RoundTrip : Prop :=
  (∀ (i : Instr) (k : Kind) (w : Nat), i.wellFormed = true → encode i = some (k, w) →
    decodeSlot k w = .ok i ∧ w < 2 ^ (if k = .m ∨ k = .e then 64 else 32))
  ∧ (∀ (i : Instr) (k : Kind) (w : Nat), w < 2 ^ (if k = .m ∨ k = .e then 64 else 32) → decodeSlot k w = .ok i →
    i.wellFormed = true ∧ encode i = some ((match k with | .s1 => .s0 | .v1 => .v0 | k => k), w))

/-- R144, R148: a step of a core whose group issues takes its next slot, decodes it for its kind and runs it: exec of that instruction on
the state in which the slot has been taken, one more has issued, and its unit is busy; a word that holds no instruction raises its
exception; after the last slot the group is finished. With no group issuing, the act that is due next runs at its instant; with nothing
due, time goes on (the order of acts within an instant is the model's own, log 5). -/
def Obligations.StepRunsDecoded : Prop := ∀ (s : State) (w : SlotWord) (rest : List SlotWord) (d : Due) (due : List Due) (i : Instr),
  let taken := s.popSlot w rest
  let k := kindOf w.kind
  (s.issue.active = true → s.issue.slots = w :: rest → decodeSlot k w.word = .ok i → step s = exec i taken)
  ∧ (∀ e, s.issue.active = true → s.issue.slots = w :: rest → decodeSlot k w.word = .bad e →
    step s = .next (taken.takeTrap s.ic ⟨if e = .illegalOp then 0x02 else 0x03, taken.image, w.kind, false, none⟩ s.issue.base))
  ∧ (taken = { s with issue := taken.issue, cores := taken.cores } ∧ taken.issue = { s.issue with
      slots := rest, cur := w, s0pc := if w.kind = 0 then w.bundle else s.issue.s0pc }
    ∧ (∀ c, c ≠ s.ic → taken.core c = s.core c)
    ∧ taken.core s.ic = { s.ik with
      fl := { s.ik.fl with seq := s.ik.fl.seq + 1 }
      ct := { s.ik.ct with tilth := (taken.core s.ic).ct.tilth } })
  ∧ (s.issue.active = true → s.issue.slots = [] → step s = .next s.finishGroup)
  ∧ (s.issue.active = false → s.agenda = d :: due → d.act = .ev i → step s = exec i { s with now := Nat.max s.now d.t, agenda := due })
  ∧ (s.issue.active = false → s.agenda = [] → step s = .next { s with now := s.now + 10 * tick })

/-- R141, R143, R147: a group of one bundle is fetched from the pinned text of a timed task: the slots that its mask names, in mask
order, each word little-endian, the byte after the last as the next address; an odd address and a byte that is not there are raised; a
bundle with reserved bits, or with mask 0 and no stop bit, or with two stamps that differ, is malformed. -/
def Obligations.GroupFetch : Prop := ∀ (s : State) (c a mask gap : Nat) (wd : Nat → Nat) (h : Nat),
  let wide := fun (i : Nat) => i = 5 ∨ i = 6
  let size := fun (i : Nat) => if wide i then 8 else 4
  let body := (List.range 8).flatMap (fun i => if mask.testBit i then leBytes (size i) (wd i) else [])
  let text := leBytes 2 (mask + 2 ^ 8 + gap * 2 ^ 9) ++ body
  let word := fun (i : Nat) => wd i % 2 ^ (8 * size i)
  let slots := ((List.range 8).filter mask.testBit).map (fun i => (⟨i, word i, BitVec.ofNat 64 a⟩ : SlotWord))
  let st := fun (i : Nat) => wd i / 2 ^ 36 % 2 ^ 20
  let both := mask.testBit 5 = true ∧ mask.testBit 6 = true ∧ st 5 ≠ 0xFFFFF ∧ st 6 ≠ 0xFFFFF
  let k := s.core c
  let pc := BitVec.ofNat 64 a
  k.timed = true → a < 2 ^ 64 →
  (a % 2 = 1 → s.fetch c pc = .fault pc false)
  ∧ (a % 2 = 0 → k.pinned a = none → s.fetch c pc = .fault pc false)
  ∧ (a % 2 = 0 → h < 2 ^ 16 → (2 ^ 12 ≤ h ∨ (h % 2 ^ 8 = 0 ∧ h.testBit 8 = false)) →
    k.pinned a = some (BitVec.ofNat 8 h) → k.pinned (a + 1) = some (BitVec.ofNat 8 (h / 256)) → s.fetch c pc = .illegal pc)
  ∧ (a % 2 = 0 → mask < 2 ^ 8 → gap < 8 → (∀ j, j < text.length → k.pinned (a + j) = text[j]?) →
    (both → st 5 ≠ st 6 → s.fetch c pc = .illegal pc)
    ∧ ((¬ both ∨ st 5 = st 6) → s.fetch c pc = .group slots (BitVec.ofNat 64 (a + text.length))
      (if mask.testBit 5 = true ∧ st 5 ≠ 0xFFFFF then some (st 5) else if mask.testBit 6 = true ∧ st 6 ≠ 0xFFFFF then some (st 6) else none)))

/-- R149 to R151: words written out bit by bit from the encodings decode to the instructions that they stand for, one of each slot kind
and more. -/
def Obligations.DecodeWords : Prop :=
  decodeSlot .s0 0b00000001000010001000011000000000 = .ok (.add 1 2 3)
  ∧ decodeSlot .s1 0b00100000000010000000000000000011 = .ok (.addi 1 0 3)
  ∧ decodeSlot .s0 0b00110000001000010100110001010000 = .ok (.fadd .bf16 .rtz 4 5 6)
  ∧ decodeSlot .s1 0b01000000001000001000000000000111 = .ok (.sld 4 7 2)
  ∧ decodeSlot .s0 0b01010000000010001011111111111110 = .ok (.beq 1 2 (-2))
  ∧ decodeSlot .s0 0b01100010000110000000000000000110 = .ok (.mfs 3 .svec)
  ∧ decodeSlot .a 0b00000011001000001000000000000001 = .ok (.aadd 2 0x8001)
  ∧ decodeSlot .v0 0b00000001001010010100110000000000 = .ok (.vadd 5 5 6 0 .normal .rne)
  ∧ decodeSlot .v1 0b01001000000010000001000111000000 = .ok (.vld 1 2 3 4)
  ∧ decodeSlot .m 0b0000010111111111111111111111011000101000100000100000001111000000 = .ok (.mmul 0xFFFFF 3 (.ring 2) (.latch 1) true false 15)
  ∧ decodeSlot .e 0b0000000100000000000000000101101000001100000000000000000000000001 = .ok (.cpy 5 2 true 6 .out)
  ∧ decodeSlot .e 0b0001000011111111111111111111100110000100010000110000000000000000 = .ok (.amo 0xFFFFF true .min 1 2 3)
  ∧ decodeSlot .e 0b0001100011111111111111111111001000000000000000000000000000000000 = .ok (.fence 0xFFFFF .p)
  ∧ decodeSlot .x 0b00000011001000001001100000000100 = .ok (.xtx 2 1 3 4)
  ∧ decodeSlot .s1 0b01010000000010001011111111111110 = .bad .illegalOp
  ∧ decodeSlot .a 0b00001000000000000000000000000000 = .bad .illegalOp
  ∧ decodeSlot .s0 0b00000001000010001000011000000001 = .bad .illegalField
end

