-- ==== Sys2Proof/Laws/Memory.lean ====
section
/-! SUPPORT. Maps and memories: reading after writing, and the canonical form, which every write keeps. -/

namespace Sys2Proof.Machine

open Sys2Proof

/-! ### Maps -/

@[simp] theorem AMap.get?_nil {α : Type} (k : Nat) : AMap.get? ([] : AMap α) k = none := rfl

/-- A value put under a key is read there. -/
@[simp] theorem AMap.get?_put_self {α : Type} (m : AMap α) (k : Nat) (v : α) : AMap.get? (AMap.put m k v) k = some v := by
  induction m with
  | nil => simp [AMap.put, AMap.get?]
  | cons p r ih =>
    obtain ⟨k', v'⟩ := p
    simp only [AMap.put]
    split
    · simp [AMap.get?]
    · split
      · simp [AMap.get?]
      · simp [AMap.get?, *]

/-- A value put under a key changes no other key. -/
theorem AMap.get?_put_ne {α : Type} (m : AMap α) (k j : Nat) (v : α) (h : j ≠ k) : AMap.get? (AMap.put m k v) j = AMap.get? m j := by
  induction m with
  | nil => simp [AMap.put, AMap.get?, h]
  | cons p r ih =>
    obtain ⟨k', v'⟩ := p
    simp only [AMap.put]
    split
    · simp [AMap.get?, h]
    · split
      · rename_i hk
        subst hk
        simp [AMap.get?, h]
      · simp [AMap.get?, ih]

/-- What a key reads as after a value is put. -/
theorem AMap.get?_put {α : Type} (m : AMap α) (k j : Nat) (v : α) :
    AMap.get? (AMap.put m k v) j = if j = k then some v else AMap.get? m j := by
  split
  · simp [*]
  · exact AMap.get?_put_ne m k j v ‹_›

/-- A key removed reads as absent. -/
theorem AMap.get?_del {α : Type} (m : AMap α) (k j : Nat) :
    AMap.get? (AMap.del m k) j = if j = k then none else AMap.get? m j := by
  induction m with
  | nil => simp [AMap.del]
  | cons p r ih =>
    obtain ⟨k', v'⟩ := p
    simp only [AMap.del] at ih ⊢
    by_cases hk : k' = k
    · subst hk
      simp only [ne_eq, not_true_eq_false, decide_false, Bool.false_eq_true, not_false_eq_true, List.filter_cons_of_neg, ih]
      by_cases hj : j = k' <;> simp [AMap.get?, hj]
    · simp only [ne_eq, hk, not_false_eq_true, decide_true, List.filter_cons_of_pos, AMap.get?, ih]
      by_cases hj : j = k
      · subst hj
        have : ¬ j = k' := fun h => hk h.symm
        simp [this]
      · simp [hj]

/-! ### Reading after writing -/

/-- A byte reads as it was last written. -/
theorem Mem.read_write (m : Mem) (a x : Nat) (b : Byte) : Mem.read (Mem.write m a b) x = if x = a then b else Mem.read m x := by
  by_cases hb : b = Mem.unlisted <;> by_cases hx : x = a <;> simp [Mem.read, Mem.write, hb, hx, AMap.get?_put, AMap.get?_del]

@[simp] theorem Mem.read_write_self (m : Mem) (a : Nat) (b : Byte) : Mem.read (Mem.write m a b) a = b := by
  simp [Mem.read_write]

theorem Mem.read_write_ne (m : Mem) (a x : Nat) (b : Byte) (h : x ≠ a) : Mem.read (Mem.write m a b) x = Mem.read m x := by
  simp [Mem.read_write, h]

/-- A write of several bytes leaves every address that it does not name alone. -/
theorem Mem.read_writes_ne (l : List (Nat × Byte)) (x : Nat) :
    ∀ m : Mem, x ∉ l.map (·.1) → Mem.read (Mem.writes m l) x = Mem.read m x := by
  induction l with
  | nil => intro m _; rfl
  | cons p r ih =>
    obtain ⟨a, b⟩ := p
    intro m h
    simp only [List.map_cons, List.mem_cons, not_or] at h
    simp only [Mem.writes]
    rw [ih _ h.2, Mem.read_write_ne _ _ _ _ h.1]

/-! ### The canonical form -/

/-- The canonical form, said of the list as a whole. -/
theorem Mem.wf_iff (m : Mem) : Mem.wf m = true ↔ m.Pairwise (fun p q => p.1 < q.1) ∧ ∀ p ∈ m, p.2 ≠ Mem.unlisted := by
  induction m with
  | nil => simp [Mem.wf]
  | cons p r ih =>
    cases r with
    | nil => simp [Mem.wf]
    | cons q r =>
      obtain ⟨a, b⟩ := p
      obtain ⟨a', b'⟩ := q
      simp only [Mem.wf, Bool.and_eq_true, decide_eq_true_eq, ih]
      constructor
      · rintro ⟨⟨hb, ha⟩, hp, hm⟩
        refine ⟨List.pairwise_cons.2 ⟨?_, hp⟩, ?_⟩
        · intro x hx
          rcases List.mem_cons.1 hx with rfl | hx
          · exact ha
          · exact Nat.lt_trans ha ((List.pairwise_cons.1 hp).1 x hx)
        · intro x hx
          rcases List.mem_cons.1 hx with rfl | hx
          · exact hb
          · exact hm x hx
      · rintro ⟨hp, hm⟩
        have h := List.pairwise_cons.1 hp
        exact ⟨⟨hm (a, b) (by simp), h.1 (a', b') (by simp)⟩, h.2, fun x hx => hm x (List.mem_cons_of_mem _ hx)⟩

theorem AMap.mem_put {α : Type} (m : AMap α) (k : Nat) (v : α) (p : Nat × α) (h : p ∈ AMap.put m k v) : p = (k, v) ∨ p ∈ m := by
  induction m with
  | nil => simpa [AMap.put] using h
  | cons q r ih =>
    obtain ⟨k', v'⟩ := q
    simp only [AMap.put] at h
    split at h
    · simpa using h
    · split at h
      · rcases List.mem_cons.1 h with h | h
        · exact .inl h
        · exact .inr (List.mem_cons_of_mem _ h)
      · rcases List.mem_cons.1 h with h | h
        · exact .inr (by simp [h])
        · rcases ih h with h | h
          · exact .inl h
          · exact .inr (List.mem_cons_of_mem _ h)

theorem AMap.put_pairwise {α : Type} (m : AMap α) (k : Nat) (v : α) (h : m.Pairwise (fun p q => p.1 < q.1)) :
    (AMap.put m k v).Pairwise (fun p q => p.1 < q.1) := by
  induction m with
  | nil => simp [AMap.put]
  | cons q r ih =>
    obtain ⟨k', v'⟩ := q
    have hc := List.pairwise_cons.1 h
    simp only [AMap.put]
    split
    · refine List.pairwise_cons.2 ⟨?_, h⟩
      intro x hx
      rcases List.mem_cons.1 hx with rfl | hx
      · assumption
      · exact Nat.lt_trans ‹k < k'› (hc.1 x hx)
    · split
      · rename_i hk
        subst hk
        exact List.pairwise_cons.2 ⟨hc.1, hc.2⟩
      · refine List.pairwise_cons.2 ⟨?_, ih hc.2⟩
        intro x hx
        rcases AMap.mem_put r k v x hx with rfl | hx
        · show k' < k
          omega
        · exact hc.1 x hx

/-- A write keeps the canonical form. -/
theorem Mem.write_wf (m : Mem) (a : Nat) (b : Byte) (h : Mem.wf m = true) : Mem.wf (Mem.write m a b) = true := by
  rw [Mem.wf_iff] at h ⊢
  unfold Mem.write
  split
  · exact ⟨h.1.filter _, fun p hp => h.2 p (List.mem_filter.1 hp).1⟩
  · refine ⟨AMap.put_pairwise m a b h.1, fun p hp => ?_⟩
    rcases AMap.mem_put m a b p hp with rfl | hp
    · assumption
    · exact h.2 p hp

/-- Writes of several bytes keep the canonical form. -/
theorem Mem.writes_wf (l : List (Nat × Byte)) : ∀ m : Mem, Mem.wf m = true → Mem.wf (Mem.writes m l) = true := by
  induction l with
  | nil => intro m h; exact h
  | cons p r ih => intro m h; exact ih _ (Mem.write_wf m p.1 p.2 h)

end Sys2Proof.Machine
end

