-- ==== Sys2Proof/Laws/DeviceMemory.lean ====
section
/-! SUPPORT. Frames of device memory: the operations and meanings that leave every byte of it alone, each said once. What writes it is
in Laws/DeviceWrites.lean. -/

namespace Sys2Proof.Machine

open Sys2Proof

theorem foldl_mem {α : Type} (f : State → α → State) (h : ∀ s x, (f s x).mem = s.mem) :
    ∀ (l : List α) (s : State), (l.foldl f s).mem = s.mem := by
  intro l
  induction l with
  | nil => intro s; rfl
  | cons x r ih => intro s; simp [ih, h]

@[simp] theorem foldl_mem_of {α : Type} (f : State → α → State) (l : List α) (s : State) (h : ∀ s x, (f s x).mem = s.mem) :
    (l.foldl f s).mem = s.mem := foldl_mem f h l s

/-- A next state, if there is one, holds the device memory m. -/
def Kept (o : Out) (m : Mem) : Prop := ∀ t, o = .next t → t.mem = m

@[simp] theorem kept_next (t : State) (m : Mem) : Kept (.next t) m ↔ t.mem = m := by
  constructor
  · intro h; exact h t rfl
  · intro h u e; cases e; exact h

@[simp] theorem kept_fault (r : Fault) (m : Mem) : Kept (.fault r) m := by intro t h; cases h

@[simp] theorem kept_refused (r : Refusal) (m : Mem) : Kept (.refused r) m := by intro t h; cases h

@[simp] theorem State.post_mem (x0 : State) (x1 : Nat) (x2 : Nat) (x3 : Act) : (State.post x0 x1 x2 x3).mem = x0.mem := by
  simp [State.post]

@[simp] theorem State.postEv_mem (x0 : State) (x1 : Nat) (x2 : Nat) (x3 : Instr) : (State.postEv x0 x1 x2 x3).mem = x0.mem := by
  simp [State.postEv]

@[simp] theorem State.postMi_mem (x0 : State) (x1 : Nat) (x2 : Nat) (x3 : Micro) : (State.postMi x0 x1 x2 x3).mem = x0.mem := by
  simp [State.postMi]

@[simp] theorem State.drawn_mem (x0 : State) : (State.drawn x0).mem = x0.mem := by
  simp [State.drawn]

@[simp] theorem State.postFree_mem (x0 : State) (x1 : Nat) (x2 : Nat) (x3 : Instr) :
    (State.postFree x0 x1 x2 x3).mem = x0.mem := by
  simp [State.postFree]

@[simp] theorem State.setCore_mem (x0 : State) (x1 : Nat) (x2 : Core) : (State.setCore x0 x1 x2).mem = x0.mem := by
  simp [State.setCore]

@[simp] theorem State.modCore_mem (x0 : State) (x1 : Nat) (x2 : Core → Core) : (State.modCore x0 x1 x2).mem = x0.mem := by
  simp [State.modCore]

@[simp] theorem State.pend_mem (x0 : State) (x1 : Nat) (x2 : Nat) (x3 : PDest) (x4 : PVal) :
    (State.pend x0 x1 x2 x3 x4).mem = x0.mem := by
  simp [State.pend]

@[simp] theorem State.wrS_mem (x0 : State) (x1 : Fin 32) (x2 : Nat) (x3 : W64) : (State.wrS x0 x1 x2 x3).mem = x0.mem := by
  unfold State.wrS
  split <;> simp

@[simp] theorem State.wrFlags_mem (x0 : State) (x1 : Nat) (x2 : Flags) : (State.wrFlags x0 x1 x2).mem = x0.mem := by
  unfold State.wrFlags
  split <;> simp

@[simp] theorem State.rearm_mem (x0 : State) (x1 : Nat) : (State.rearm x0 x1).mem = x0.mem := by
  unfold State.rearm
  dsimp only
  split <;> simp

@[simp] theorem State.record_mem (x0 : State) (x1 : Nat) (x2 : TraceRec) : (State.record x0 x1 x2).mem = x0.mem := by
  unfold State.record
  dsimp only
  (repeat' split) <;> simp

@[simp] theorem State.recordCore_mem (x0 : State) (x1 : Nat) (x2 : TraceRec) : (State.recordCore x0 x1 x2).mem = x0.mem := by
  unfold State.recordCore
  (repeat' split) <;> simp

@[simp] theorem State.traceCore_mem (x0 : State) (x1 : Nat) (x2 : Nat) (x3 : W64) :
    (State.traceCore x0 x1 x2 x3).mem = x0.mem := by
  simp [State.traceCore]

@[simp] theorem State.traceOther_mem (x0 : State) (x1 : Nat) (x2 : Nat) (x3 : Nat) (x4 : BitVec 16) (x5 : W64) :
    (State.traceOther x0 x1 x2 x3 x4 x5).mem = x0.mem := by
  simp [State.traceOther]

@[simp] theorem State.logDcr_mem (x0 : State) (x1 : Nat) (x2 : Nat) (x3 : Nat) (x4 : Nat) :
    (State.logDcr x0 x1 x2 x3 x4).mem = x0.mem := by
  simp [State.logDcr]

@[simp] theorem State.haltAt_mem (x0 : State) (x1 : Nat) (x2 : CSt) (x3 : Nat) : (State.haltAt x0 x1 x2 x3).mem = x0.mem := by
  simp [State.haltAt]

@[simp] theorem State.postFrame_mem (x0 : State) (x1 : Nat) : (State.postFrame x0 x1).mem = x0.mem := by
  unfold State.postFrame
  dsimp only
  split <;> simp

@[simp] theorem State.startCore_mem (x0 : State) (x1 : Nat) (x2 : Nat) : (State.startCore x0 x1 x2).mem = x0.mem := by
  unfold State.startCore
  dsimp only
  (repeat' split) <;> simp

@[simp] theorem State.setReach_mem (x0 : State) (x1 : Nat) (x2 : Nat) : (State.setReach x0 x1 x2).mem = x0.mem := by
  simp [State.setReach]

@[simp] theorem State.beginHalt_mem (x0 : State) (x1 : Nat) (x2 : Nat) : (State.beginHalt x0 x1 x2).mem = x0.mem := by
  unfold State.beginHalt
  (repeat' split) <;> simp

@[simp] theorem State.modGang_mem (x0 : State) (x1 : Nat) (x2 : Gang → Gang) : (State.modGang x0 x1 x2).mem = x0.mem := by
  simp [State.modGang]

@[simp] theorem State.cancelStop_mem (x0 : State) (x1 : Nat) : (State.cancelStop x0 x1).mem = x0.mem := by
  simp [State.cancelStop]

@[simp] theorem State.faultCancels_mem (x0 : State) (x1 : Nat) : (State.faultCancels x0 x1).mem = x0.mem := by
  unfold State.faultCancels
  (repeat' split) <;> simp

@[simp] theorem State.noteTrapped_mem (x0 : State) (x1 : Nat) : (State.noteTrapped x0 x1).mem = x0.mem := by
  unfold State.noteTrapped
  split <;> simp

@[simp] theorem State.dropIssue_mem (x0 : State) : (State.dropIssue x0).mem = x0.mem := by
  simp [State.dropIssue]

@[simp] theorem State.abortFrom_mem (x0 : State) (x1 : Nat) (x2 : LStatus) (x3 : Nat) : (State.abortFrom x0 x1 x2 x3).mem = x0.mem := by
  unfold State.abortFrom
  (repeat' split) <;> simp

@[simp] theorem State.abort_mem (x0 : State) (x1 : Nat) (x2 : LStatus) : (State.abort x0 x1 x2).mem = x0.mem := by
  simp [State.abort]

@[simp] theorem State.traceFault_mem (x0 : State) (x1 : Nat) (x2 : W64) (x3 : Nat) (x4 : W64) :
    (State.traceFault x0 x1 x2 x3 x4).mem = x0.mem := by
  simp [State.traceFault]

@[simp] theorem State.doubleFault_mem (x0 : State) (x1 : Nat) (x2 : FaultInfo) (x3 : W64) :
    (State.doubleFault x0 x1 x2 x3).mem = x0.mem := by
  unfold State.doubleFault
  dsimp only
  split <;> simp

@[simp] theorem State.debugHalt_mem (x0 : State) (x1 : Nat) (x2 : Nat) : (State.debugHalt x0 x1 x2).mem = x0.mem := by
  unfold State.debugHalt
  (repeat' split) <;> simp

@[simp] theorem State.debugBreak_mem (x0 : State) (x1 : Nat) (x2 : FaultInfo) (x3 : W64) :
    (State.debugBreak x0 x1 x2 x3).mem = x0.mem := by
  unfold State.debugBreak
  dsimp only
  split <;> simp

@[simp] theorem State.takeTrap_mem (x0 : State) (x1 : Nat) (x2 : FaultInfo) (x3 : W64) :
    (State.takeTrap x0 x1 x2 x3).mem = x0.mem := by
  unfold State.takeTrap
  extract_lets k r s k' moved k1 dir st done wraps tr x q k2 s3
  have h : s3.mem = x0.mem := by simp [s3, s]
  clear_value s3
  (repeat' split) <;> simp [h]

@[simp] theorem State.raise_mem (x0 : State) (x1 : Nat) (x2 : W64) : Kept (State.raise x0 x1 x2) x0.mem := by
  simp [State.raise]

@[simp] theorem State.raiseGroup_mem (x0 : State) (x1 : Nat) (x2 : W64) : Kept (State.raiseGroup x0 x1 x2) x0.mem := by
  simp [State.raiseGroup]

theorem kept_checked (s : State) (c : Check) (e : State) (m : Mem) (h1 : s.mem = m) (h2 : e.mem = m) :
    Kept (s.checked c e) m := by
  unfold State.checked
  split
  · unfold State.raise
    simp [h1]
  · simpa using h2

@[simp] theorem State.checked_mem (s : State) (c : Check) (e : State) (h : e.mem = s.mem) : Kept (s.checked c e) s.mem :=
  kept_checked s c e _ rfl h

@[simp] theorem State.claim_mem (x0 : State) (x1 : Nat) (x2 : List BankUse) : (State.claim x0 x1 x2).mem = x0.mem := by
  simp [State.claim]

@[simp] theorem State.tileOp_mem (x0 : State) (x1 : Nat) (x2 : Nat) (x3 : TAct) : (State.tileOp x0 x1 x2 x3).mem = x0.mem := by
  simp [State.tileOp]

@[simp] theorem State.vTake_mem (x0 : State) (x1 : Nat) (x2 : Nat) (x3 : Bool) : (State.vTake x0 x1 x2 x3).mem = x0.mem := by
  simp [State.vTake]

@[simp] theorem State.latch_mem (x0 : State) (x1 : Hold) (x2 : VReg) (x3 : Option VReg) :
    (State.latch x0 x1 x2 x3).mem = x0.mem := by
  unfold State.latch
  (repeat' split) <;> simp

@[simp] theorem State.wrV_mem (x0 : State) (x1 : Fin 32) (x2 : Nat) (x3 : VReg) (x4 : Mask) :
    (State.wrV x0 x1 x2 x3 x4).mem = x0.mem := by
  simp [State.wrV]

@[simp] theorem State.wrK_mem (x0 : State) (x1 : Fin 8) (x2 : Nat) (x3 : Mask) (x4 : Mask) :
    (State.wrK x0 x1 x2 x3 x4).mem = x0.mem := by
  unfold State.wrK
  split <;> simp

@[simp] theorem State.wrSF_mem (x0 : State) (x1 : Fin 32) (x2 : Nat) (x3 : W64 × Flags) :
    (State.wrSF x0 x1 x2 x3).mem = x0.mem := by
  simp [State.wrSF]

@[simp] theorem State.wrFloat_mem (x0 : State) (x1 : Fin 32) (x2 : Nat × Flags) : (State.wrFloat x0 x1 x2).mem = x0.mem := by
  simp [State.wrFloat]

@[simp] theorem State.alu_mem (x0 : State) (x1 : Fin 32) (x2 : W64) : Kept (State.alu x0 x1 x2) x0.mem := by
  simp [State.alu]

@[simp] theorem State.mulOut_mem (x0 : State) (x1 : Fin 32) (x2 : W64) : Kept (State.mulOut x0 x1 x2) x0.mem := by
  simp [State.mulOut]

@[simp] theorem State.divTake_mem (x0 : State) : (State.divTake x0).mem = x0.mem := by
  simp [State.divTake]

@[simp] theorem State.divOut_mem (x0 : State) (x1 : Fin 32) (x2 : W64 × Flags) : Kept (State.divOut x0 x1 x2) x0.mem := by
  simp [State.divOut]

@[simp] theorem execAdd_mem (x0 : Fin 32) (x1 : Fin 32) (x2 : Fin 32) (x3 : State) : Kept (execAdd x0 x1 x2 x3) x3.mem := by
  simp [execAdd]

@[simp] theorem execSub_mem (x0 : Fin 32) (x1 : Fin 32) (x2 : Fin 32) (x3 : State) : Kept (execSub x0 x1 x2 x3) x3.mem := by
  simp [execSub]

@[simp] theorem execAnd_mem (x0 : Fin 32) (x1 : Fin 32) (x2 : Fin 32) (x3 : State) : Kept (execAnd x0 x1 x2 x3) x3.mem := by
  simp [execAnd]

@[simp] theorem execOr_mem (x0 : Fin 32) (x1 : Fin 32) (x2 : Fin 32) (x3 : State) : Kept (execOr x0 x1 x2 x3) x3.mem := by
  simp [execOr]

@[simp] theorem execXor_mem (x0 : Fin 32) (x1 : Fin 32) (x2 : Fin 32) (x3 : State) : Kept (execXor x0 x1 x2 x3) x3.mem := by
  simp [execXor]

@[simp] theorem execShl_mem (x0 : Fin 32) (x1 : Fin 32) (x2 : Fin 32) (x3 : State) : Kept (execShl x0 x1 x2 x3) x3.mem := by
  simp [execShl]

@[simp] theorem execShr_mem (x0 : Fin 32) (x1 : Fin 32) (x2 : Fin 32) (x3 : State) : Kept (execShr x0 x1 x2 x3) x3.mem := by
  simp [execShr]

@[simp] theorem execSar_mem (x0 : Fin 32) (x1 : Fin 32) (x2 : Fin 32) (x3 : State) : Kept (execSar x0 x1 x2 x3) x3.mem := by
  simp [execSar]

@[simp] theorem execMul_mem (x0 : Fin 32) (x1 : Fin 32) (x2 : Fin 32) (x3 : State) : Kept (execMul x0 x1 x2 x3) x3.mem := by
  simp [execMul]

@[simp] theorem execMulh_mem (x0 : Fin 32) (x1 : Fin 32) (x2 : Fin 32) (x3 : State) : Kept (execMulh x0 x1 x2 x3) x3.mem := by
  simp [execMulh]

@[simp] theorem execMulhu_mem (x0 : Fin 32) (x1 : Fin 32) (x2 : Fin 32) (x3 : State) : Kept (execMulhu x0 x1 x2 x3) x3.mem := by
  simp [execMulhu]

@[simp] theorem execDiv_mem (x0 : Fin 32) (x1 : Fin 32) (x2 : Fin 32) (x3 : State) : Kept (execDiv x0 x1 x2 x3) x3.mem := by
  simp [execDiv]

@[simp] theorem execDivu_mem (x0 : Fin 32) (x1 : Fin 32) (x2 : Fin 32) (x3 : State) : Kept (execDivu x0 x1 x2 x3) x3.mem := by
  simp [execDivu]

@[simp] theorem execRem_mem (x0 : Fin 32) (x1 : Fin 32) (x2 : Fin 32) (x3 : State) : Kept (execRem x0 x1 x2 x3) x3.mem := by
  simp [execRem]

@[simp] theorem execRemu_mem (x0 : Fin 32) (x1 : Fin 32) (x2 : Fin 32) (x3 : State) : Kept (execRemu x0 x1 x2 x3) x3.mem := by
  simp [execRemu]

@[simp] theorem execMin_mem (x0 : Fin 32) (x1 : Fin 32) (x2 : Fin 32) (x3 : State) : Kept (execMin x0 x1 x2 x3) x3.mem := by
  simp [execMin]

@[simp] theorem execMax_mem (x0 : Fin 32) (x1 : Fin 32) (x2 : Fin 32) (x3 : State) : Kept (execMax x0 x1 x2 x3) x3.mem := by
  simp [execMax]

@[simp] theorem execMinu_mem (x0 : Fin 32) (x1 : Fin 32) (x2 : Fin 32) (x3 : State) : Kept (execMinu x0 x1 x2 x3) x3.mem := by
  simp [execMinu]

@[simp] theorem execMaxu_mem (x0 : Fin 32) (x1 : Fin 32) (x2 : Fin 32) (x3 : State) : Kept (execMaxu x0 x1 x2 x3) x3.mem := by
  simp [execMaxu]

@[simp] theorem execSlt_mem (x0 : Fin 32) (x1 : Fin 32) (x2 : Fin 32) (x3 : State) : Kept (execSlt x0 x1 x2 x3) x3.mem := by
  simp [execSlt]

@[simp] theorem execSltu_mem (x0 : Fin 32) (x1 : Fin 32) (x2 : Fin 32) (x3 : State) : Kept (execSltu x0 x1 x2 x3) x3.mem := by
  simp [execSltu]

@[simp] theorem execSeq_mem (x0 : Fin 32) (x1 : Fin 32) (x2 : Fin 32) (x3 : State) : Kept (execSeq x0 x1 x2 x3) x3.mem := by
  simp [execSeq]

@[simp] theorem execSel_mem (x0 : Fin 32) (x1 : Fin 32) (x2 : Fin 32) (x3 : Fin 32) (x4 : State) :
    Kept (execSel x0 x1 x2 x3 x4) x4.mem := by
  simp [execSel]

@[simp] theorem execClz_mem (x0 : Fin 32) (x1 : Fin 32) (x2 : State) : Kept (execClz x0 x1 x2) x2.mem := by
  simp [execClz]

@[simp] theorem execCtz_mem (x0 : Fin 32) (x1 : Fin 32) (x2 : State) : Kept (execCtz x0 x1 x2) x2.mem := by
  simp [execCtz]

@[simp] theorem execPopc_mem (x0 : Fin 32) (x1 : Fin 32) (x2 : State) : Kept (execPopc x0 x1 x2) x2.mem := by
  simp [execPopc]

@[simp] theorem execBrev_mem (x0 : Fin 32) (x1 : Fin 32) (x2 : State) : Kept (execBrev x0 x1 x2) x2.mem := by
  simp [execBrev]

@[simp] theorem execExtb_mem (x0 : Fin 32) (x1 : Fin 32) (x2 : Fin 8) (x3 : State) : Kept (execExtb x0 x1 x2 x3) x3.mem := by
  simp [execExtb]

@[simp] theorem execInsb_mem (x0 : Fin 32) (x1 : Fin 32) (x2 : Fin 32) (x3 : Fin 8) (x4 : State) :
    Kept (execInsb x0 x1 x2 x3 x4) x4.mem := by
  simp [execInsb]

@[simp] theorem execAddi_mem (x0 : Fin 32) (x1 : Fin 32) (x2 : BitVec 14) (x3 : State) : Kept (execAddi x0 x1 x2 x3) x3.mem := by
  simp [execAddi]

@[simp] theorem execAndi_mem (x0 : Fin 32) (x1 : Fin 32) (x2 : BitVec 14) (x3 : State) : Kept (execAndi x0 x1 x2 x3) x3.mem := by
  simp [execAndi]

@[simp] theorem execOri_mem (x0 : Fin 32) (x1 : Fin 32) (x2 : BitVec 14) (x3 : State) : Kept (execOri x0 x1 x2 x3) x3.mem := by
  simp [execOri]

@[simp] theorem execXori_mem (x0 : Fin 32) (x1 : Fin 32) (x2 : BitVec 14) (x3 : State) : Kept (execXori x0 x1 x2 x3) x3.mem := by
  simp [execXori]

@[simp] theorem execShli_mem (x0 : Fin 32) (x1 : Fin 32) (x2 : Fin 64) (x3 : State) : Kept (execShli x0 x1 x2 x3) x3.mem := by
  simp [execShli]

@[simp] theorem execShri_mem (x0 : Fin 32) (x1 : Fin 32) (x2 : Fin 64) (x3 : State) : Kept (execShri x0 x1 x2 x3) x3.mem := by
  simp [execShri]

@[simp] theorem execSari_mem (x0 : Fin 32) (x1 : Fin 32) (x2 : Fin 64) (x3 : State) : Kept (execSari x0 x1 x2 x3) x3.mem := by
  simp [execSari]

@[simp] theorem execSlti_mem (x0 : Fin 32) (x1 : Fin 32) (x2 : BitVec 14) (x3 : State) : Kept (execSlti x0 x1 x2 x3) x3.mem := by
  simp [execSlti]

@[simp] theorem execLui_mem (x0 : Fin 32) (x1 : BitVec 19) (x2 : State) : Kept (execLui x0 x1 x2) x2.mem := by
  simp [execLui]

@[simp] theorem execMuli_mem (x0 : Fin 32) (x1 : Fin 32) (x2 : BitVec 14) (x3 : State) : Kept (execMuli x0 x1 x2 x3) x3.mem := by
  simp [execMuli]

@[simp] theorem execFadd_mem (x0 : FFmt) (x1 : RMode) (x2 : Fin 32) (x3 : Fin 32) (x4 : Fin 32) (x5 : State) :
    Kept (execFadd x0 x1 x2 x3 x4 x5) x5.mem := by
  simp [execFadd]

@[simp] theorem execFsub_mem (x0 : FFmt) (x1 : RMode) (x2 : Fin 32) (x3 : Fin 32) (x4 : Fin 32) (x5 : State) :
    Kept (execFsub x0 x1 x2 x3 x4 x5) x5.mem := by
  simp [execFsub]

@[simp] theorem execFmul_mem (x0 : FFmt) (x1 : RMode) (x2 : Fin 32) (x3 : Fin 32) (x4 : Fin 32) (x5 : State) :
    Kept (execFmul x0 x1 x2 x3 x4 x5) x5.mem := by
  simp [execFmul]

@[simp] theorem execFfma_mem (x0 : FFmt) (x1 : RMode) (x2 : Fin 32) (x3 : Fin 32) (x4 : Fin 32) (x5 : State) :
    Kept (execFfma x0 x1 x2 x3 x4 x5) x5.mem := by
  simp [execFfma]

@[simp] theorem execFmin_mem (x0 : FFmt) (x1 : RMode) (x2 : Fin 32) (x3 : Fin 32) (x4 : Fin 32) (x5 : State) :
    Kept (execFmin x0 x1 x2 x3 x4 x5) x5.mem := by
  simp [execFmin]

@[simp] theorem execFmax_mem (x0 : FFmt) (x1 : RMode) (x2 : Fin 32) (x3 : Fin 32) (x4 : Fin 32) (x5 : State) :
    Kept (execFmax x0 x1 x2 x3 x4 x5) x5.mem := by
  simp [execFmax]

@[simp] theorem execFcmp_mem (x0 : FFmt) (x1 : RMode) (x2 : FCond) (x3 : Fin 32) (x4 : Fin 32) (x5 : Fin 32) (x6 : State) :
    Kept (execFcmp x0 x1 x2 x3 x4 x5 x6) x6.mem := by
  simp [execFcmp]

@[simp] theorem execFcvti_mem (x0 : FFmt) (x1 : RMode) (x2 : IntTy) (x3 : Fin 32) (x4 : Fin 32) (x5 : State) :
    Kept (execFcvti x0 x1 x2 x3 x4 x5) x5.mem := by
  simp [execFcvti]

@[simp] theorem execFcvtf_mem (x0 : FFmt) (x1 : RMode) (x2 : CvtSrc) (x3 : Fin 32) (x4 : Fin 32) (x5 : State) :
    Kept (execFcvtf x0 x1 x2 x3 x4 x5) x5.mem := by
  simp [execFcvtf]

@[simp] theorem State.modCoreIn_mem (x0 : State) (x1 : Nat) (x2 : Nat) (x3 : Core → Core) :
    (State.modCoreIn x0 x1 x2 x3).mem = x0.mem := by
  unfold State.modCoreIn
  (repeat' split) <;> simp

@[simp] theorem State.sendLine_mem (x0 : State) (x1 : Nat) (x2 : Nat) (x3 : FwdEnt) (x4 : SubLine) (x5 : Nat) :
    (State.sendLine x0 x1 x2 x3 x4 x5).mem = x0.mem := by
  unfold State.sendLine
  split <;> simp

@[simp] theorem State.sendLines_mem (p j : Nat) (mk : Bool → List (Nat × Byte) → SubLine) (l : List (List (Nat × Byte))) :
    ∀ (s : State) (i : Nat), (s.sendLines p j mk i l).mem = s.mem := by
  induction l with
  | nil => intro s i; rfl
  | cons g r ih =>
    intro s i
    unfold State.sendLines
    split <;> simp [ih]

@[simp] theorem State.closeWin_mem (x0 : State) (x1 : Nat) (x2 : Nat) : (State.closeWin x0 x1 x2).mem = x0.mem := by
  unfold State.closeWin
  (repeat' split) <;> simp

@[simp] theorem State.closeAll_mem (x0 : State) (x1 : Nat) : (State.closeAll x0 x1).mem = x0.mem := by
  simp [State.closeAll]

@[simp] theorem State.collect_mem (s : State) (c index : Nat) (ent : TEntry) (offs : List Nat) :
    (s.collect c index ent offs).mem = s.mem := by
  unfold State.collect
  apply foldl_mem
  intro s x
  dsimp only
  split
  · split <;> simp
  · rfl

@[simp] theorem State.forwardMc_mem (s : State) (c index : Nat) (ent : TEntry) (bs : List MByte) (pc : W64) :
    (s.forwardMc c index ent bs pc).mem = s.mem := by
  unfold State.forwardMc
  apply foldl_mem
  intro s x
  dsimp only
  split <;> simp

@[simp] theorem State.commit_mem (x0 : State) (x1 : Nat) (x2 : Nat) (x3 : TEntry) (x4 : List MByte) (x5 : W64) :
    (State.commit x0 x1 x2 x3 x4 x5).mem = x0.mem := by
  simp [State.commit]

@[simp] theorem State.refuse_mem (x0 : State) (x1 : Nat) (x2 : Nat) (x3 : Nat) (x4 : Nat) :
    (State.refuse x0 x1 x2 x3 x4).mem = x0.mem := by
  unfold State.refuse
  dsimp only
  (repeat' split) <;> simp

@[simp] theorem State.countNow_mem (x0 : State) (x1 : Nat) (x2 : Nat) (x3 : Option (Nat × W64)) (x4 : Bool) (x5 : Flags) :
    (State.countNow x0 x1 x2 x3 x4 x5).mem = x0.mem := by
  simp [State.countNow]

@[simp] theorem State.wakeUi_mem (x0 : State) (x1 : Nat) : (State.wakeUi x0 x1).mem = x0.mem := by
  unfold State.wakeUi
  dsimp only
  (repeat' split) <;> simp

@[simp] theorem State.count_mem (x0 : State) (x1 : Nat) (x2 : Nat) (x3 : Option (Nat × W64)) (x4 : Bool) (x5 : Flags) :
    (State.count x0 x1 x2 x3 x4 x5).mem = x0.mem := by
  simp [State.count]

@[simp] theorem State.tileAct_mem (x0 : State) (x1 : Nat) (x2 : TOp) : (State.tileAct x0 x1 x2).mem = x0.mem := by
  unfold State.tileAct
  split <;> simp

@[simp] theorem State.tileAll_mem (c : Nat) (l : List TOp) : ∀ s : State, (s.tileAll c l).mem = s.mem := by
  induction l with
  | nil => intro s; rfl
  | cons o r ih => intro s; unfold State.tileAll; simp [ih]

@[simp] theorem State.tileDue_mem (x0 : State) (x1 : Nat) (x2 : Bool) : (State.tileDue x0 x1 x2).mem = x0.mem := by
  unfold State.tileDue
  dsimp only
  split <;> simp

@[simp] theorem execSld_mem (x0 : Fin 32) (x1 : Fin 256) (x2 : Fin 32) (x3 : State) : Kept (execSld x0 x1 x2 x3) x3.mem := by
  simp [execSld]

@[simp] theorem execSst_mem (x0 : Fin 256) (x1 : Fin 32) (x2 : Fin 32) (x3 : State) : Kept (execSst x0 x1 x2 x3) x3.mem := by
  simp [execSst]

@[simp] theorem State.transfer_mem (x0 : State) (x1 : W64) : (State.transfer x0 x1).mem = x0.mem := by
  simp [State.transfer]

@[simp] theorem State.branch_mem (x0 : State) (x1 : Bool) (x2 : BitVec 14) : Kept (State.branch x0 x1 x2) x0.mem := by
  unfold State.branch
  split <;> simp

@[simp] theorem execBeq_mem (x0 : Fin 32) (x1 : Fin 32) (x2 : BitVec 14) (x3 : State) : Kept (execBeq x0 x1 x2 x3) x3.mem := by
  simp [execBeq]

@[simp] theorem execBne_mem (x0 : Fin 32) (x1 : Fin 32) (x2 : BitVec 14) (x3 : State) : Kept (execBne x0 x1 x2 x3) x3.mem := by
  simp [execBne]

@[simp] theorem execBlt_mem (x0 : Fin 32) (x1 : Fin 32) (x2 : BitVec 14) (x3 : State) : Kept (execBlt x0 x1 x2 x3) x3.mem := by
  simp [execBlt]

@[simp] theorem execBge_mem (x0 : Fin 32) (x1 : Fin 32) (x2 : BitVec 14) (x3 : State) : Kept (execBge x0 x1 x2 x3) x3.mem := by
  simp [execBge]

@[simp] theorem execBltu_mem (x0 : Fin 32) (x1 : Fin 32) (x2 : BitVec 14) (x3 : State) : Kept (execBltu x0 x1 x2 x3) x3.mem := by
  simp [execBltu]

@[simp] theorem execBgeu_mem (x0 : Fin 32) (x1 : Fin 32) (x2 : BitVec 14) (x3 : State) : Kept (execBgeu x0 x1 x2 x3) x3.mem := by
  simp [execBgeu]

@[simp] theorem execJmp_mem (x0 : BitVec 24) (x1 : State) : Kept (execJmp x0 x1) x1.mem := by
  simp [execJmp]

@[simp] theorem execJal_mem (x0 : BitVec 24) (x1 : State) : Kept (execJal x0 x1) x1.mem := by
  simp [execJal]

@[simp] theorem execJr_mem (x0 : Fin 32) (x1 : State) : Kept (execJr x0 x1) x1.mem := by
  simp [execJr]

@[simp] theorem execLoop_mem (x0 : Fin 32) (x1 : BitVec 14) (x2 : State) : Kept (execLoop x0 x1 x2) x2.mem := by
  unfold execLoop
  dsimp only
  split <;> simp

@[simp] theorem execEnd_mem (x0 : State) : Kept (execEnd x0) x0.mem := by
  simp [execEnd]

@[simp] theorem execChk_mem (x0 : Fin 32) (x1 : Fin 16) (x2 : State) : Kept (execChk x0 x1 x2) x2.mem := by
  unfold execChk
  dsimp only
  split <;> simp

@[simp] theorem execUiwin_mem (x0 : BitVec 14) (x1 : State) : Kept (execUiwin x0 x1) x1.mem := by
  simp [execUiwin]

@[simp] theorem execUiret_mem (x0 : State) : Kept (execUiret x0) x0.mem := by
  simp [execUiret]

@[simp] theorem State.raiseAfter_mem (x0 : State) (x1 : Nat) (x2 : BitVec 14) : Kept (State.raiseAfter x0 x1 x2) x0.mem := by
  simp [State.raiseAfter]

@[simp] theorem execTrap_mem (x0 : BitVec 14) (x1 : State) : Kept (execTrap x0 x1) x1.mem := by
  simp [execTrap]

@[simp] theorem execBkpt_mem (x0 : BitVec 14) (x1 : State) : Kept (execBkpt x0 x1) x1.mem := by
  simp [execBkpt]

@[simp] theorem execRett_mem (x0 : Fin 32) (x1 : State) : Kept (execRett x0 x1) x1.mem := by
  simp [execRett]

@[simp] theorem State.wrA_mem (x0 : State) (x1 : Fin 16) (x2 : W32) : Kept (State.wrA x0 x1 x2) x0.mem := by
  simp [State.wrA]

@[simp] theorem execAmov_mem (x0 : Fin 16) (x1 : BitVec 16) (x2 : State) : Kept (execAmov x0 x1 x2) x2.mem := by
  simp [execAmov]

@[simp] theorem execAget_mem (x0 : Fin 32) (x1 : Fin 16) (x2 : State) : Kept (execAget x0 x1 x2) x2.mem := by
  simp [execAget]

@[simp] theorem execAadd_mem (x0 : Fin 16) (x1 : BitVec 16) (x2 : State) : Kept (execAadd x0 x1 x2) x2.mem := by
  simp [execAadd]

@[simp] theorem execAadds_mem (x0 : Fin 16) (x1 : Fin 32) (x2 : State) : Kept (execAadds x0 x1 x2) x2.mem := by
  simp [execAadds]

@[simp] theorem execAsetb_mem (x0 : Fin 16) (x1 : Fin 32) (x2 : State) : Kept (execAsetb x0 x1 x2) x2.mem := by
  simp [execAsetb]

@[simp] theorem State.advanced_mem (x0 : State) (x1 : Fin 16) (x2 : Fin 16) (x3 : W32 × W32) :
    Kept (State.advanced x0 x1 x2 x3) x0.mem := by
  unfold State.advanced
  split <;> simp

@[simp] theorem execAinc_mem (x0 : Fin 16) (x1 : Fin 16) (x2 : State) : Kept (execAinc x0 x1 x2) x2.mem := by
  simp [execAinc]

@[simp] theorem execAinc2_mem (x0 : Fin 16) (x1 : Fin 16) (x2 : State) : Kept (execAinc2 x0 x1 x2) x2.mem := by
  simp [execAinc2]

@[simp] theorem State.vRes_mem (x0 : State) (x1 : Fin 32) (x2 : Nat) (x3 : VReg) (x4 : Mask) (x5 : Flags) :
    (State.vRes x0 x1 x2 x3 x4 x5).mem = x0.mem := by
  simp [State.vRes]

@[simp] theorem State.vElem_mem (x0 : State) (x1 : Fin 32) (x2 : Fin 8) (x3 : Hold) (x4 : VReg) (x5 : Option VReg) (x6 : Option VReg) (x7 : Nat) (x8 : Tag → Bool) (x9 : Bool) (x10 : Nat) (x11 : Tag → Nat → Nat → Nat → Nat → Nat × Flags) :
    Kept (State.vElem x0 x1 x2 x3 x4 x5 x6 x7 x8 x9 x10 x11) x0.mem := by
  simp [State.vElem]

@[simp] theorem State.vBin_mem (x0 : State) (x1 : Fin 32) (x2 : Fin 32) (x3 : Fin 32) (x4 : Fin 8) (x5 : Hold) (x6 : Tag → Bool) (x7 : Bool) (x8 : Tag → Nat → Nat → Nat → Nat × Flags) :
    Kept (State.vBin x0 x1 x2 x3 x4 x5 x6 x7 x8) x0.mem := by
  simp [State.vBin]

@[simp] theorem State.vTer_mem (x0 : State) (x1 : Fin 32) (x2 : Fin 32) (x3 : Fin 32) (x4 : Fin 8) (x5 : Hold) (x6 : Tag → Bool) (x7 : Tag → Nat → Nat → Nat → Nat → Nat × Flags) :
    Kept (State.vTer x0 x1 x2 x3 x4 x5 x6 x7) x0.mem := by
  simp [State.vTer]

@[simp] theorem State.vUn_mem (x0 : State) (x1 : Fin 32) (x2 : Fin 32) (x3 : Fin 8) (x4 : Hold) (x5 : Tag → Bool) (x6 : Nat) (x7 : Tag → Nat → Nat → Nat × Flags) :
    Kept (State.vUn x0 x1 x2 x3 x4 x5 x6 x7) x0.mem := by
  simp [State.vUn]

@[simp] theorem execVadd_mem (x0 : Fin 32) (x1 : Fin 32) (x2 : Fin 32) (x3 : Fin 8) (x4 : Hold) (x5 : RMode) (x6 : State) :
    Kept (execVadd x0 x1 x2 x3 x4 x5 x6) x6.mem := by
  simp [execVadd]

@[simp] theorem execVsub_mem (x0 : Fin 32) (x1 : Fin 32) (x2 : Fin 32) (x3 : Fin 8) (x4 : Hold) (x5 : RMode) (x6 : State) :
    Kept (execVsub x0 x1 x2 x3 x4 x5 x6) x6.mem := by
  simp [execVsub]

@[simp] theorem execVmul_mem (x0 : Fin 32) (x1 : Fin 32) (x2 : Fin 32) (x3 : Fin 8) (x4 : Hold) (x5 : RMode) (x6 : State) :
    Kept (execVmul x0 x1 x2 x3 x4 x5 x6) x6.mem := by
  simp [execVmul]

@[simp] theorem execVfma_mem (x0 : Fin 32) (x1 : Fin 32) (x2 : Fin 32) (x3 : Fin 8) (x4 : Hold) (x5 : RMode) (x6 : State) :
    Kept (execVfma x0 x1 x2 x3 x4 x5 x6) x6.mem := by
  simp [execVfma]

@[simp] theorem execVfms_mem (x0 : Fin 32) (x1 : Fin 32) (x2 : Fin 32) (x3 : Fin 8) (x4 : Hold) (x5 : RMode) (x6 : State) :
    Kept (execVfms x0 x1 x2 x3 x4 x5 x6) x6.mem := by
  simp [execVfms]

@[simp] theorem execVmin_mem (x0 : Fin 32) (x1 : Fin 32) (x2 : Fin 32) (x3 : Fin 8) (x4 : Hold) (x5 : State) :
    Kept (execVmin x0 x1 x2 x3 x4 x5) x5.mem := by
  simp [execVmin]

@[simp] theorem execVmax_mem (x0 : Fin 32) (x1 : Fin 32) (x2 : Fin 32) (x3 : Fin 8) (x4 : Hold) (x5 : State) :
    Kept (execVmax x0 x1 x2 x3 x4 x5) x5.mem := by
  simp [execVmax]

@[simp] theorem execVabs_mem (x0 : Fin 32) (x1 : Fin 32) (x2 : Fin 8) (x3 : Hold) (x4 : State) :
    Kept (execVabs x0 x1 x2 x3 x4) x4.mem := by
  simp [execVabs]

@[simp] theorem execVneg_mem (x0 : Fin 32) (x1 : Fin 32) (x2 : Fin 8) (x3 : Hold) (x4 : State) :
    Kept (execVneg x0 x1 x2 x3 x4) x4.mem := by
  simp [execVneg]

@[simp] theorem execVand_mem (x0 : Fin 32) (x1 : Fin 32) (x2 : Fin 32) (x3 : Fin 8) (x4 : Hold) (x5 : State) :
    Kept (execVand x0 x1 x2 x3 x4 x5) x5.mem := by
  simp [execVand]

@[simp] theorem execVor_mem (x0 : Fin 32) (x1 : Fin 32) (x2 : Fin 32) (x3 : Fin 8) (x4 : Hold) (x5 : State) :
    Kept (execVor x0 x1 x2 x3 x4 x5) x5.mem := by
  simp [execVor]

@[simp] theorem execVxor_mem (x0 : Fin 32) (x1 : Fin 32) (x2 : Fin 32) (x3 : Fin 8) (x4 : Hold) (x5 : State) :
    Kept (execVxor x0 x1 x2 x3 x4 x5) x5.mem := by
  simp [execVxor]

@[simp] theorem execVshl_mem (x0 : Fin 32) (x1 : Fin 32) (x2 : Fin 32) (x3 : Fin 8) (x4 : Hold) (x5 : State) :
    Kept (execVshl x0 x1 x2 x3 x4 x5) x5.mem := by
  simp [execVshl]

@[simp] theorem execVshr_mem (x0 : Fin 32) (x1 : Fin 32) (x2 : Fin 32) (x3 : Fin 8) (x4 : Hold) (x5 : State) :
    Kept (execVshr x0 x1 x2 x3 x4 x5) x5.mem := by
  simp [execVshr]

@[simp] theorem execVsar_mem (x0 : Fin 32) (x1 : Fin 32) (x2 : Fin 32) (x3 : Fin 8) (x4 : Hold) (x5 : State) :
    Kept (execVsar x0 x1 x2 x3 x4 x5) x5.mem := by
  simp [execVsar]

@[simp] theorem execVmulh_mem (x0 : Fin 32) (x1 : Fin 32) (x2 : Fin 32) (x3 : Fin 8) (x4 : Hold) (x5 : State) :
    Kept (execVmulh x0 x1 x2 x3 x4 x5) x5.mem := by
  simp [execVmulh]

@[simp] theorem execVadds_mem (x0 : Fin 32) (x1 : Fin 32) (x2 : Fin 32) (x3 : Fin 8) (x4 : Hold) (x5 : State) :
    Kept (execVadds x0 x1 x2 x3 x4 x5) x5.mem := by
  simp [execVadds]

@[simp] theorem execVsubs_mem (x0 : Fin 32) (x1 : Fin 32) (x2 : Fin 32) (x3 : Fin 8) (x4 : Hold) (x5 : State) :
    Kept (execVsubs x0 x1 x2 x3 x4 x5) x5.mem := by
  simp [execVsubs]

@[simp] theorem execVcmp_mem (x0 : Fin 8) (x1 : Fin 32) (x2 : Fin 32) (x3 : Fin 8) (x4 : Hold) (x5 : FCond) (x6 : State) :
    Kept (execVcmp x0 x1 x2 x3 x4 x5 x6) x6.mem := by
  simp [execVcmp]

@[simp] theorem State.kForm_mem (x0 : State) (x1 : Fin 8) (x2 : Mask) : Kept (State.kForm x0 x1 x2) x0.mem := by
  simp [State.kForm]

@[simp] theorem execKand_mem (x0 : Fin 8) (x1 : Fin 8) (x2 : Fin 8) (x3 : State) : Kept (execKand x0 x1 x2 x3) x3.mem := by
  simp [execKand]

@[simp] theorem execKor_mem (x0 : Fin 8) (x1 : Fin 8) (x2 : Fin 8) (x3 : State) : Kept (execKor x0 x1 x2 x3) x3.mem := by
  simp [execKor]

@[simp] theorem execKxor_mem (x0 : Fin 8) (x1 : Fin 8) (x2 : Fin 8) (x3 : State) : Kept (execKxor x0 x1 x2 x3) x3.mem := by
  simp [execKxor]

@[simp] theorem execKnot_mem (x0 : Fin 8) (x1 : Fin 8) (x2 : State) : Kept (execKnot x0 x1 x2) x2.mem := by
  simp [execKnot]

@[simp] theorem execKpop_mem (x0 : Fin 32) (x1 : Fin 8) (x2 : State) : Kept (execKpop x0 x1 x2) x2.mem := by
  simp [execKpop]

@[simp] theorem execKset_mem (x0 : Fin 8) (x1 : BitVec 14) (x2 : State) : Kept (execKset x0 x1 x2) x2.mem := by
  simp [execKset]

@[simp] theorem State.vSpecial_mem (x0 : State) (x1 : Fin 32) (x2 : Fin 32) (x3 : Fin 8) (x4 : Hold) (x5 : SpFn) :
    Kept (State.vSpecial x0 x1 x2 x3 x4 x5) x0.mem := by
  simp [State.vSpecial]

@[simp] theorem execVrcp_mem (x0 : Fin 32) (x1 : Fin 32) (x2 : Fin 8) (x3 : Hold) (x4 : State) :
    Kept (execVrcp x0 x1 x2 x3 x4) x4.mem := by
  simp [execVrcp]

@[simp] theorem execVsqrt_mem (x0 : Fin 32) (x1 : Fin 32) (x2 : Fin 8) (x3 : Hold) (x4 : State) :
    Kept (execVsqrt x0 x1 x2 x3 x4) x4.mem := by
  simp [execVsqrt]

@[simp] theorem execVrsq_mem (x0 : Fin 32) (x1 : Fin 32) (x2 : Fin 8) (x3 : Hold) (x4 : State) :
    Kept (execVrsq x0 x1 x2 x3 x4) x4.mem := by
  simp [execVrsq]

@[simp] theorem execVexp2_mem (x0 : Fin 32) (x1 : Fin 32) (x2 : Fin 8) (x3 : Hold) (x4 : State) :
    Kept (execVexp2 x0 x1 x2 x3 x4) x4.mem := by
  simp [execVexp2]

@[simp] theorem execVlog2_mem (x0 : Fin 32) (x1 : Fin 32) (x2 : Fin 8) (x3 : Hold) (x4 : State) :
    Kept (execVlog2 x0 x1 x2 x3 x4) x4.mem := by
  simp [execVlog2]

@[simp] theorem execVtanh_mem (x0 : Fin 32) (x1 : Fin 32) (x2 : Fin 8) (x3 : Hold) (x4 : State) :
    Kept (execVtanh x0 x1 x2 x3 x4) x4.mem := by
  simp [execVtanh]

@[simp] theorem execVcvt_mem (x0 : Fin 32) (x1 : Fin 32) (x2 : Fin 8) (x3 : Hold) (x4 : Tag) (x5 : Bool) (x6 : RMode) (x7 : State) :
    Kept (execVcvt x0 x1 x2 x3 x4 x5 x6 x7) x7.mem := by
  simp [execVcvt]

@[simp] theorem execVpack4_mem (x0 : Fin 32) (x1 : Fin 32) (x2 : Hold) (x3 : Sn4Ty) (x4 : RMode) (x5 : State) :
    Kept (execVpack4 x0 x1 x2 x3 x4 x5) x5.mem := by
  simp [execVpack4]

@[simp] theorem execVunpack4_mem (x0 : Fin 32) (x1 : Fin 32) (x2 : Fin 8) (x3 : Hold) (x4 : RMode) (x5 : State) :
    Kept (execVunpack4 x0 x1 x2 x3 x4 x5) x5.mem := by
  simp [execVunpack4]

@[simp] theorem execVtag_mem (x0 : Fin 32) (x1 : Fin 32) (x2 : Fin 8) (x3 : Hold) (x4 : Tag) (x5 : State) :
    Kept (execVtag x0 x1 x2 x3 x4 x5) x5.mem := by
  simp [execVtag]

@[simp] theorem State.vMove_mem (x0 : State) (x1 : Fin 32) (x2 : Fin 32) (x3 : Fin 8) (x4 : Hold) (x5 : Nat) (x6 : Nat → Nat) :
    Kept (State.vMove x0 x1 x2 x3 x4 x5 x6) x0.mem := by
  simp [State.vMove]

@[simp] theorem execVmov_mem (x0 : Fin 32) (x1 : Fin 32) (x2 : Fin 8) (x3 : Hold) (x4 : State) :
    Kept (execVmov x0 x1 x2 x3 x4) x4.mem := by
  simp [execVmov]

@[simp] theorem execVsel_mem (x0 : Fin 32) (x1 : Fin 32) (x2 : Fin 32) (x3 : Fin 8) (x4 : Hold) (x5 : State) :
    Kept (execVsel x0 x1 x2 x3 x4 x5) x5.mem := by
  simp [execVsel]

@[simp] theorem State.vMake_mem (x0 : State) (x1 : Fin 32) (x2 : Nat) (x3 : Nat) (x4 : VReg) :
    Kept (State.vMake x0 x1 x2 x3 x4) x0.mem := by
  simp [State.vMake]

@[simp] theorem execVbcs_mem (vd a : Fin 32) (tag : Tag) (s : State) : Kept (execVbcs vd a tag s) s.mem := by
  unfold execVbcs
  exact State.vMake_mem _ _ _ _ _

@[simp] theorem execViota_mem (x0 : Fin 32) (x1 : BitVec 14) (x2 : State) : Kept (execViota x0 x1 x2) x2.mem := by
  simp [execViota]

@[simp] theorem execVrand_mem (x0 : Fin 32) (x1 : Fin 32) (x2 : State) : Kept (execVrand x0 x1 x2) x2.mem := by
  simp [execVrand]

@[simp] theorem execVbrow_mem (x0 : Fin 32) (x1 : Fin 32) (x2 : Fin 16) (x3 : Fin 8) (x4 : Hold) (x5 : State) :
    Kept (execVbrow x0 x1 x2 x3 x4 x5) x5.mem := by
  simp [execVbrow]

@[simp] theorem execVbcol_mem (x0 : Fin 32) (x1 : Fin 32) (x2 : Fin 64) (x3 : Fin 8) (x4 : Hold) (x5 : State) :
    Kept (execVbcol x0 x1 x2 x3 x4 x5) x5.mem := by
  simp [execVbcol]

@[simp] theorem execVrotr_mem (x0 : Fin 32) (x1 : Fin 32) (x2 : Fin 64) (x3 : Fin 8) (x4 : Hold) (x5 : State) :
    Kept (execVrotr x0 x1 x2 x3 x4 x5) x5.mem := by
  simp [execVrotr]

@[simp] theorem execVrotc_mem (x0 : Fin 32) (x1 : Fin 32) (x2 : Fin 16) (x3 : Fin 8) (x4 : Hold) (x5 : State) :
    Kept (execVrotc x0 x1 x2 x3 x4 x5) x5.mem := by
  simp [execVrotc]

@[simp] theorem execVtrn_mem (x0 : Fin 32) (x1 : Fin 32) (x2 : Fin 8) (x3 : Hold) (x4 : State) :
    Kept (execVtrn x0 x1 x2 x3 x4) x4.mem := by
  simp [execVtrn]

@[simp] theorem execVperm_mem (x0 : Fin 32) (x1 : Fin 32) (x2 : Fin 32) (x3 : Fin 8) (x4 : Hold) (x5 : State) :
    Kept (execVperm x0 x1 x2 x3 x4 x5) x5.mem := by
  simp [execVperm]

@[simp] theorem State.vReduce_mem (x0 : State) (x1 : Fin 32) (x2 : Fin 32) (x3 : RedOp) (x4 : Fin 8) (x5 : Hold) (x6 : Nat) (x7 : Tag → List (Nat × Flags) → List (Nat × Flags)) :
    Kept (State.vReduce x0 x1 x2 x3 x4 x5 x6 x7) x0.mem := by
  simp [State.vReduce]

@[simp] theorem execVredr_mem (x0 : Fin 32) (x1 : Fin 32) (x2 : RedOp) (x3 : Fin 8) (x4 : Hold) (x5 : State) :
    Kept (execVredr x0 x1 x2 x3 x4 x5) x5.mem := by
  simp [execVredr]

@[simp] theorem execVredc_mem (x0 : Fin 32) (x1 : Fin 32) (x2 : RedOp) (x3 : Fin 8) (x4 : Hold) (x5 : State) :
    Kept (execVredc x0 x1 x2 x3 x4 x5) x5.mem := by
  simp [execVredc]

@[simp] theorem execVscanr_mem (x0 : Fin 32) (x1 : Fin 32) (x2 : RedOp) (x3 : Fin 8) (x4 : Hold) (x5 : State) :
    Kept (execVscanr x0 x1 x2 x3 x4 x5) x5.mem := by
  simp [execVscanr]

@[simp] theorem State.vLoad_mem (x0 : State) (x1 : Fin 32) (x2 : Fin 256) (x3 : Fin 16) (x4 : Fin 8) (x5 : Nat) (x6 : Nat) (x7 : Nat) (x8 : Bool) (x9 : LoadKind) :
    Kept (State.vLoad x0 x1 x2 x3 x4 x5 x6 x7 x8 x9) x0.mem := by
  simp [State.vLoad]

@[simp] theorem execVld_mem (x0 : Fin 32) (x1 : Fin 256) (x2 : Fin 16) (x3 : Fin 8) (x4 : State) :
    Kept (execVld x0 x1 x2 x3 x4) x4.mem := by
  simp [execVld]

@[simp] theorem execVldb_mem (x0 : Fin 32) (x1 : Fin 256) (x2 : Fin 16) (x3 : Fin 8) (x4 : State) :
    Kept (execVldb x0 x1 x2 x3 x4) x4.mem := by
  simp [execVldb]

@[simp] theorem execVst_mem (x0 : Fin 32) (x1 : Fin 256) (x2 : Fin 16) (x3 : Fin 8) (x4 : State) :
    Kept (execVst x0 x1 x2 x3 x4) x4.mem := by
  simp [execVst]

@[simp] theorem execVldx_mem (x0 : Fin 32) (x1 : Fin 256) (x2 : Fin 16) (x3 : Fin 8) (x4 : State) :
    Kept (execVldx x0 x1 x2 x3 x4) x4.mem := by
  simp [execVldx]

@[simp] theorem execVstx_mem (x0 : Fin 32) (x1 : Fin 256) (x2 : Fin 16) (x3 : Fin 8) (x4 : State) :
    Kept (execVstx x0 x1 x2 x3 x4) x4.mem := by
  simp [execVstx]

@[simp] theorem State.pipeTake_mem (x0 : State) (x1 : Nat) (x2 : PipeCmd) : (State.pipeTake x0 x1 x2).mem = x0.mem := by
  simp [State.pipeTake]

@[simp] theorem State.planZero_mem (s : State) (c n : Nat) (b : CubeBy) : (s.planZero c n b).eff.mem = s.mem := by
  simp [State.planZero]

@[simp] theorem State.planLoad_mem (s : State) (c n h : Nat) (b : CubeBy) : (s.planLoad c n h b).eff.mem = s.mem := by
  simp [State.planLoad]

@[simp] theorem State.planLatch_mem (s : State) (c n h : Nat) (b : CubeBy) : (s.planLatch c n h b).eff.mem = s.mem := by
  simp [State.planLatch]

@[simp] theorem State.planStep_mem (s : State) (c : Nat) (tri : Bool) (n : Nat) (a b w : Sel) (pa pb pw : Bool) (kv : Nat) (y : CubeBy) :
    (s.planStep c tri n a b w pa pb pw kv y).eff.mem = s.mem := by
  simp [State.planStep]

@[simp] theorem State.planDrain_mem (s : State) (c n : Nat) (out : Option (Nat × Nat)) (vd : Option Nat) (h : Nat) (y : CubeBy) :
    (s.planDrain c n out vd h y).eff.mem = s.mem := by
  unfold State.planDrain
  dsimp only
  (repeat' split) <;> simp

@[simp] theorem State.onPipe_mem (s : State) (p : CubePlan) (h : p.eff.mem = s.mem) : Kept (s.onPipe p) s.mem := by
  simp [State.onPipe, h]

@[simp] theorem State.onDrain_mem (s : State) (n : Nat) (p : CubePlan) (h : p.eff.mem = s.mem) : Kept (s.onDrain n p) s.mem := by
  simp [State.onDrain, h]

@[simp] theorem execMcfg_mem (x0 : BitVec 20) (x1 : W32) (x2 : State) : Kept (execMcfg x0 x1 x2) x2.mem := by
  simp [execMcfg]

@[simp] theorem execMzero_mem (st : BitVec 20) (n : Fin 8) (s : State) : Kept (execMzero st n s) s.mem :=
  State.onPipe_mem _ _ (State.planZero_mem _ _ _ _)

@[simp] theorem execMload_mem (st : BitVec 20) (n : Fin 8) (h : Fin 256) (s : State) : Kept (execMload st n h s) s.mem :=
  State.onPipe_mem _ _ (State.planLoad_mem _ _ _ _ _)

@[simp] theorem execMlatch_mem (st : BitVec 20) (l : Fin 4) (h : Fin 256) (s : State) : Kept (execMlatch st l h s) s.mem :=
  State.onPipe_mem _ _ (State.planLatch_mem _ _ _ _ _)

@[simp] theorem execMmul_mem (x0 : BitVec 20) (x1 : Fin 8) (x2 : Sel) (x3 : Sel) (x4 : Bool) (x5 : Bool) (x6 : Fin 256) (x7 : State) :
    Kept (execMmul x0 x1 x2 x3 x4 x5 x6 x7) x7.mem := by
  simp [execMmul]

@[simp] theorem execMmul3_mem (x0 : BitVec 20) (x1 : Fin 8) (x2 : Sel) (x3 : Sel) (x4 : Sel) (x5 : Bool) (x6 : Bool) (x7 : Bool) (x8 : Fin 256) (x9 : State) :
    Kept (execMmul3 x0 x1 x2 x3 x4 x5 x6 x7 x8 x9) x9.mem := by
  simp [execMmul3]

@[simp] theorem execMdrain_mem (x0 : BitVec 20) (x1 : Fin 8) (x2 : Fin 256) (x3 : Fin 256) (x4 : BitVec 16) (x5 : State) :
    Kept (execMdrain x0 x1 x2 x3 x4 x5) x5.mem := by
  simp [execMdrain]

@[simp] theorem execMdrainv_mem (x0 : BitVec 20) (x1 : Fin 8) (x2 : Fin 32) (x3 : Fin 256) (x4 : State) :
    Kept (execMdrainv x0 x1 x2 x3 x4) x4.mem := by
  simp [execMdrainv]

@[simp] theorem execMsetf_mem (x0 : BitVec 20) (x1 : Fin 8) (x2 : Fin 256) (x3 : BitVec 16) (x4 : State) :
    Kept (execMsetf x0 x1 x2 x3 x4) x4.mem := by
  simp [execMsetf]

@[simp] theorem execNset_mem (x0 : BitVec 20) (x1 : Fin 16) (x2 : Fin 256) (x3 : Fin 16) (x4 : State) :
    Kept (execNset x0 x1 x2 x3 x4) x4.mem := by
  simp [execNset]

@[simp] theorem execNadv_mem (x0 : BitVec 20) (x1 : Fin 16) (x2 : BitVec 16) (x3 : State) :
    Kept (execNadv x0 x1 x2 x3) x3.mem := by
  simp [execNadv]

@[simp] theorem execNchk_mem (x0 : BitVec 20) (x1 : Fin 16) (x2 : BitVec 16) (x3 : State) :
    Kept (execNchk x0 x1 x2 x3) x3.mem := by
  simp [execNchk]

@[simp] theorem execMstep_mem (x0 : BitVec 20) (x1 : Fin 32) (x2 : State) : Kept (execMstep x0 x1 x2) x2.mem := by
  simp [execMstep]

@[simp] theorem State.tileStep_mem (s : State) (c : Nat) (tri : Bool) (d : TileDesc_) (q i : Nat) (b : CubeBy) :
    (s.tileStep c tri d q i b).eff.mem = s.mem := by
  unfold State.tileStep
  exact State.planStep_mem _ _ _ _ _ _ _ _ _ _ _ _

@[simp] theorem State.tileDrain_mem (s : State) (c : Nat) (d : TileDesc_) (q : Nat) (b : CubeBy) :
    (s.tileDrain c d q b).eff.mem = s.mem := by
  unfold State.tileDrain
  exact State.planDrain_mem _ _ _ _ _ _ _

@[simp] theorem State.tileStart_mem (s : State) (c : Nat) (m : MacroTile) (q : Nat) : (s.tileStart c m q).mem = s.mem := by
  simp [State.tileStart]

@[simp] theorem State.tileFault_mem (x0 : State) (x1 : Nat) (x2 : MacroTile) (x3 : Nat × W64) :
    (State.tileFault x0 x1 x2 x3).mem = x0.mem := by
  unfold State.tileFault
  dsimp only
  (repeat' split) <;> simp

@[simp] theorem State.tileEnd_mem (x0 : State) (x1 : Nat) (x2 : MacroTile) : (State.tileEnd x0 x1 x2).mem = x0.mem := by
  unfold State.tileEnd
  dsimp only
  (repeat' split) <;> simp

@[simp] theorem execMtileExpansion_mem (c : Nat) (s : State) : Kept (execMtileExpansion c s) s.mem := by
  unfold execMtileExpansion
  dsimp only
  (repeat' split) <;> first | (rw [kept_next]; done) | (rw [kept_next]; first | rfl | simp only [State.modCore_mem, State.tileDrain_mem, State.tileEnd_mem, State.tileFault_mem])

@[simp] theorem State.planMtile_mem (s : State) (c : Nat) (tri : Bool) (h : Nat) (b : CubeBy) :
    (s.planMtile c tri h b).eff.mem = s.mem := by
  unfold State.planMtile
  exact State.tileStart_mem _ _ _ _

@[simp] theorem State.onMtile_mem (s : State) (p : CubePlan) (h : p.eff.mem = s.mem) : Kept (s.onMtile p) s.mem := by
  simp [State.onMtile, h]

@[simp] theorem execMtile_mem (x0 : BitVec 20) (x1 : Fin 256) (x2 : State) : Kept (execMtile x0 x1 x2) x2.mem := by
  simp [execMtile]

@[simp] theorem execMtile3_mem (x0 : BitVec 20) (x1 : Fin 256) (x2 : State) : Kept (execMtile3 x0 x1 x2) x2.mem := by
  simp [execMtile3]

@[simp] theorem State.kickFollow_mem (x0 : State) (x1 : Nat) : (State.kickFollow x0 x1).mem = x0.mem := by
  unfold State.kickFollow
  dsimp only
  split <;> simp

@[simp] theorem execCubeStepRetire_mem (x0 : Nat) (x1 : State) : Kept (execCubeStepRetire x0 x1) x1.mem := by
  unfold execCubeStepRetire
  dsimp only
  (repeat' split) <;> simp

@[simp] theorem execDrainCommit_mem (x0 : Nat) (x1 : State) : Kept (execDrainCommit x0 x1) x1.mem := by
  unfold execDrainCommit
  dsimp only
  (repeat' split) <;> simp

@[simp] theorem State.followDrain_mem (s : State) (c n : Nat) (p : CubePlan) : (s.followDrain c n p).eff = p.eff := rfl

@[simp] theorem State.planFollow_mem (s : State) (c : Nat) (i : Instr) (b : CubeBy) : (s.planFollow c i b).2.eff.mem = s.mem := by
  unfold State.planFollow
  split <;> simp [State.followDrain_mem]

@[simp] theorem execFollowOnStart_mem (c : Nat) (s : State) : Kept (execFollowOnStart c s) s.mem := by
  unfold execFollowOnStart
  dsimp only
  (repeat' split) <;> simp

@[simp] theorem State.logDenial_mem (x0 : State) (x1 : Nat) (x2 : Nat) (x3 : Nat) (x4 : XKind) :
    (State.logDenial x0 x1 x2 x3 x4).mem = x0.mem := by
  simp [State.logDenial]

@[simp] theorem State.modEng_mem (x0 : State) (x1 : Nat) (x2 : Engines → Engines) : (State.modEng x0 x1 x2).mem = x0.mem := by
  simp [State.modEng]

@[simp] theorem State.modDie_mem (x0 : State) (x1 : Nat) (x2 : Die → Die) : (State.modDie x0 x1 x2).mem = x0.mem := by
  simp [State.modDie]

@[simp] theorem State.tlbFill_mem (x0 : State) (x1 : Nat) (x2 : TlbEnt) : (State.tlbFill x0 x1 x2).mem = x0.mem := by
  simp [State.tlbFill]

@[simp] theorem State.modMigr_mem (x0 : State) (x1 : Nat) (x2 : Nat) (x3 : Migr → Migr) :
    (State.modMigr x0 x1 x2 x3).mem = x0.mem := by
  simp [State.modMigr]

@[simp] theorem State.countReq_mem (x0 : State) (x1 : Nat) (x2 : Nat) (x3 : Nat) : (State.countReq x0 x1 x2 x3).mem = x0.mem := by
  unfold State.countReq
  split <;> simp

theorem State.heldRow_kept {s t : State} {a n : Nat} {i : Instr} (h : s.heldRow a n i = some t) : t.mem = s.mem := by
  obtain ⟨j, -, h⟩ := List.exists_of_findSome?_eq_some h
  (repeat' split at h) <;> first
    | contradiction
    | (obtain rfl := Option.some.inj h; simp)

@[simp] theorem State.fetchLine_mem (x0 : State) (x1 : Nat) (x2 : Bool) (x3 : W64) (x4 : Nat) :
    (State.fetchLine x0 x1 x2 x3 x4).mem = x0.mem := by
  unfold State.fetchLine
  dsimp only
  (repeat' split) <;> simp

@[simp] theorem State.fetched_mem (s : State) (c : Nat) (pc : W64) : (s.fetched c pc).mem = s.mem :=
  foldl_mem _ (fun s x => by simp) _ _

theorem State.fetchHeld_kept {s t : State} {c : Nat} {pc : W64} (h : s.fetchHeld c pc = some t) : t.mem = s.mem := by
  obtain ⟨a, -, h⟩ := List.exists_of_findSome?_eq_some h
  split at h
  · exact State.heldRow_kept h
  · contradiction

@[simp] theorem State.stopCore_mem (x0 : State) (x1 : Nat) (x2 : CSt) : (State.stopCore x0 x1 x2).mem = x0.mem := by
  simp [State.stopCore]

@[simp] theorem State.tickLate_mem (x0 : State) (x1 : Nat) (x2 : W64) (x3 : W64) (x4 : Nat) :
    (State.tickLate x0 x1 x2 x3 x4).mem = x0.mem := by
  unfold State.tickLate
  split <;> simp

@[simp] theorem State.resumeTwait_mem (x0 : State) (x1 : Nat) (x2 : Nat) : (State.resumeTwait x0 x1 x2).mem = x0.mem := by
  unfold State.resumeTwait
  dsimp only
  (repeat' split) <;> simp

@[simp] theorem State.postTask_mem (x0 : State) (x1 : Nat) (x2 : Nat) : (State.postTask x0 x1 x2).mem = x0.mem := by
  unfold State.postTask
  (repeat' split) <;> simp

@[simp] theorem State.retireTry_mem (x0 : State) (x1 : Nat) : (State.retireTry x0 x1).mem = x0.mem := by
  unfold State.retireTry
  split <;> simp

@[simp] theorem State.unhold_mem (x0 : State) (x1 : Nat) (x2 : Nat) : (State.unhold x0 x1 x2).mem = x0.mem := by
  unfold State.unhold
  split <;> simp

@[simp] theorem State.wakeCore_mem (x0 : State) (x1 : Nat) (x2 : Nat) : (State.wakeCore x0 x1 x2).mem = x0.mem := by
  unfold State.wakeCore
  dsimp only
  split <;> simp

@[simp] theorem State.repost_mem (x0 : State) (x1 : Nat) (x2 : Nat) : (State.repost x0 x1 x2).mem = x0.mem := by
  unfold State.repost
  dsimp only
  split <;> simp

@[simp] theorem State.returnFrom_mem (x0 : State) (x1 : Nat) (x2 : Nat) : (State.returnFrom x0 x1 x2).mem = x0.mem := by
  simp [State.returnFrom]

@[simp] theorem State.wakeMember_mem (x0 : State) (x1 : Gang) (x2 : Nat) (x3 : Nat) :
    (State.wakeMember x0 x1 x2 x3).mem = x0.mem := by
  unfold State.wakeMember
  dsimp only
  (repeat' split) <;> simp

@[simp] theorem State.haltMember_mem (x0 : State) (x1 : Nat) (x2 : Gang) (x3 : Nat) :
    (State.haltMember x0 x1 x2 x3).mem = x0.mem := by
  unfold State.haltMember
  dsimp only
  (repeat' split) <;> simp

@[simp] theorem State.handlerHalt_mem (s : State) (g : Nat) : (s.handlerHalt g).mem = s.mem := by
  unfold State.handlerHalt
  split
  · split
    · refine foldl_mem _ (fun s x => ?_) _ _
      dsimp only
      split <;> simp
    · rfl
  · rfl

@[simp] theorem State.stepGang_mem (s : State) (g : Nat) (x : Gang) (n : Nat) : (s.stepGang g x n).mem = s.mem := by
  unfold State.stepGang
  dsimp only
  rw [State.postEv_mem, foldl_mem]
  intro s x
  split <;> simp

@[simp] theorem State.tryRestart_mem (x0 : State) (x1 : Nat) : (State.tryRestart x0 x1).mem = x0.mem := by
  unfold State.tryRestart
  dsimp only
  (repeat' split) <;> simp

@[simp] theorem execGangHalt_mem (x0 : Nat) (x1 : State) : Kept (execGangHalt x0 x1) x1.mem := by
  unfold execGangHalt
  dsimp only
  (repeat' split) <;> simp

@[simp] theorem State.restartMember_mem (x0 : State) (x1 : Gang) (x2 : Nat) (x3 : Nat) :
    (State.restartMember x0 x1 x2 x3).mem = x0.mem := by
  unfold State.restartMember
  dsimp only
  (repeat' split) <;> simp

@[simp] theorem State.stopLaunch_mem (s : State) (l : Nat) : (s.stopLaunch l).mem = s.mem := by
  unfold State.stopLaunch
  dsimp only
  rw [State.postEv_mem, foldl_mem]
  intro s x
  split <;> simp

@[simp] theorem State.noteLate_mem (x0 : State) (x1 : Nat) : (State.noteLate x0 x1).mem = x0.mem := by
  unfold State.noteLate
  split <;> simp

@[simp] theorem State.nextTask_mem (x0 : State) (x1 : Nat) (x2 : Nat) : (State.nextTask x0 x1 x2).mem = x0.mem := by
  unfold State.nextTask
  (repeat' split) <;> simp

@[simp] theorem State.taskEnd_mem (x0 : State) (x1 : Nat) (x2 : W64) : (State.taskEnd x0 x1 x2).mem = x0.mem := by
  unfold State.taskEnd
  dsimp only
  (repeat' split) <;> simp

@[simp] theorem State.return_mem (x0 : State) (x1 : Nat) (x2 : W64) (x3 : W64) : (State.return x0 x1 x2 x3).mem = x0.mem := by
  unfold State.return
  dsimp only
  split <;> simp

@[simp] theorem State.idleFor_mem (x0 : State) (x1 : Nat) (x2 : Nat) (x3 : IdleKind) :
    (State.idleFor x0 x1 x2 x3).mem = x0.mem := by
  simp [State.idleFor]

@[simp] theorem State.stepTrap_mem (x0 : State) (x1 : Nat) : (State.stepTrap x0 x1).mem = x0.mem := by
  simp [State.stepTrap]

@[simp] theorem State.goOn_mem (x0 : State) (x1 : Nat) (x2 : Issue) : (State.goOn x0 x1 x2).mem = x0.mem := by
  unfold State.goOn
  dsimp only
  (repeat' split) <;> simp

@[simp] theorem State.finishGroup_mem (x0 : State) : (State.finishGroup x0).mem = x0.mem := by
  unfold State.finishGroup
  dsimp only
  (repeat' split) <;> simp

@[simp] theorem State.reaching_mem (x0 : State) (x1 : Nat) : (State.reaching x0 x1).mem = x0.mem := by
  simp [State.reaching]

@[simp] theorem State.groupFault_mem (x0 : State) (x1 : Nat) (x2 : Nat) (x3 : W64) (x4 : Nat) (x5 : Bool) :
    (State.groupFault x0 x1 x2 x3 x4 x5).mem = x0.mem := by
  simp [State.groupFault]

@[simp] theorem State.issueGroup_mem (x0 : State) (x1 : Nat) (x2 : List SlotWord) (x3 : W64) :
    (State.issueGroup x0 x1 x2 x3).mem = x0.mem := by
  unfold State.issueGroup
  dsimp only
  split <;> simp

@[simp] theorem State.reached_mem (x0 : State) (x1 : Nat) : (State.reached x0 x1).mem = x0.mem := by
  unfold State.reached
  dsimp only
  (repeat' split) <;> first
    | (simp; done)
    | (simp; exact State.fetchHeld_kept (by assumption))

@[simp] theorem execGroupReach_mem (x0 : Nat) (x1 : State) : Kept (execGroupReach x0 x1) x1.mem := by
  unfold execGroupReach
  dsimp only
  (repeat' split) <;> simp

@[simp] theorem State.popSlot_mem (x0 : State) (x1 : SlotWord) (x2 : List SlotWord) : (State.popSlot x0 x1 x2).mem = x0.mem := by
  simp [State.popSlot]

@[simp] theorem State.badSlot_mem (x0 : State) (x1 : DecErr) : (State.badSlot x0 x1).mem = x0.mem := by
  simp [State.badSlot]

@[simp] theorem execPendingWriteLand_mem (x0 : Nat) (x1 : State) : Kept (execPendingWriteLand x0 x1) x1.mem := by
  simp [execPendingWriteLand]

@[simp] theorem execTwaitLeave_mem (x0 : Nat) (x1 : State) : Kept (execTwaitLeave x0 x1) x1.mem := by
  unfold execTwaitLeave
  dsimp only
  (repeat' split) <;> simp

@[simp] theorem execUserInterrupt_mem (x0 : Nat) (x1 : State) : Kept (execUserInterrupt x0 x1) x1.mem := by
  unfold execUserInterrupt
  dsimp only
  (repeat' split) <;> simp

@[simp] theorem execUiwinClose_mem (x0 : Nat) (x1 : State) : Kept (execUiwinClose x0 x1) x1.mem := by
  unfold execUiwinClose
  dsimp only
  (repeat' split) <;> simp

@[simp] theorem State.loadPhase_mem (x0 : State) (x1 : Nat) (x2 : Nat) : (State.loadPhase x0 x1 x2).mem = x0.mem := by
  unfold State.loadPhase
  split <;> simp

@[simp] theorem State.frameLast_mem (x0 : State) (x1 : Nat) : (State.frameLast x0 x1).mem = x0.mem := by
  unfold State.frameLast
  dsimp only
  split <;> simp

@[simp] theorem State.arrive_mem (x0 : State) (x1 : Nat) (x2 : List Due) : (State.arrive x0 x1 x2).mem = x0.mem := by
  simp [State.arrive]

@[simp] theorem State.edge_mem (x0 : State) : (State.edge x0).mem = x0.mem := by
  simp [State.edge]

@[simp] theorem State.loadSlot_mem (x0 : State) (x1 : SlotWord) (x2 : Nat) : (State.loadSlot x0 x1 x2).mem = x0.mem := by
  simp [State.loadSlot]

@[simp] theorem State.useId_mem (x0 : State) (x1 : Nat) : (State.useId x0 x1).mem = x0.mem := by
  simp [State.useId]

@[simp] theorem State.kick_mem (x0 : State) (x1 : Nat) : (State.kick x0 x1).mem = x0.mem := by
  simp [State.kick]

@[simp] theorem State.fenceKick_mem (x0 : State) (x1 : Nat) : (State.fenceKick x0 x1).mem = x0.mem := by
  unfold State.fenceKick
  dsimp only
  split <;> simp

@[simp] theorem State.performed_mem (x0 : State) (x1 : Nat) : (State.performed x0 x1).mem = x0.mem := by
  simp [State.performed]

@[simp] theorem State.judge_mem (x0 : State) (x1 : Nat) (x2 : Nat) (x3 : W64) (x4 : W64) :
    (State.judge x0 x1 x2 x3 x4).mem = x0.mem := by
  unfold State.judge
  (repeat' split) <;> simp

@[simp] theorem execFenceComplete_mem (x0 : Nat) (x1 : Nat) (x2 : State) : Kept (execFenceComplete x0 x1 x2) x2.mem := by
  unfold execFenceComplete
  dsimp only
  (repeat' split) <;> simp

@[simp] theorem execFence_mem (x0 : BitVec 20) (x1 : Scope) (x2 : State) : Kept (execFence x0 x1 x2) x2.mem := by
  simp [execFence]

@[simp] theorem State.saturate_mem (x0 : State) (x1 : Nat) (x2 : Nat) (x3 : Nat) (x4 : W64) :
    (State.saturate x0 x1 x2 x3 x4).mem = x0.mem := by
  simp [State.saturate]

@[simp] theorem State.raceCheck_mem (x0 : State) (x1 : Nat) (x2 : Nat) (x3 : Nat) (x4 : Nat) (x5 : XKind) (x6 : W64) :
    (State.raceCheck x0 x1 x2 x3 x4 x5 x6).1.mem = x0.mem := by
  unfold State.raceCheck
  dsimp only
  (repeat' split) <;> simp

@[simp] theorem State.dirtied_mem (x0 : State) (x1 : Nat) : (State.dirtied x0 x1).mem = x0.mem := by
  unfold State.dirtied
  (repeat' split) <;> simp

@[simp] theorem State.atTarget_mem (x0 : State) (x1 : Nat) (x2 : Nat) (x3 : Nat) (x4 : Nat) (x5 : Nat) (x6 : Trans) (x7 : XKind) (x8 : Nat) (x9 : W64) :
    (State.atTarget x0 x1 x2 x3 x4 x5 x6 x7 x8 x9).1.mem = x0.mem := by
  unfold State.atTarget
  (repeat' split) <;> simp

@[simp] theorem State.request_mem (x0 : State) (x1 : Nat) (x2 : Nat) (x3 : Trans) (x4 : XKind) (x5 : Nat) (x6 : W64) (x7 : Instr) :
    (State.request x0 x1 x2 x3 x4 x5 x6 x7).1.mem = x0.mem := by
  unfold State.request
  dsimp only
  (repeat' split) <;> simp

@[simp] theorem State.noteWrite_mem (x0 : State) (x1 : Nat) (x2 : Nat) (x3 : Nat) (x4 : Nat) (x5 : Nat) (x6 : Bool) :
    (State.noteWrite x0 x1 x2 x3 x4 x5 x6).mem = x0.mem := by
  simp [State.noteWrite]

@[simp] theorem State.drawnLine_mem (x0 : State) : (State.drawnLine x0).mem = x0.mem := by
  simp [State.drawnLine]

@[simp] theorem State.homeRead_mem (x0 : State) (x1 : Nat) (x2 : Nat) (x3 : Nat) (x4 : Nat) (x5 : Nat) (x6 : Nat) :
    (State.homeRead x0 x1 x2 x3 x4 x5 x6).1.mem = x0.mem := by
  unfold State.homeRead
  split <;> simp

@[simp] theorem State.agentDenied_mem (x0 : State) (x1 : Nat) (x2 : Nat) (x3 : XKind) :
    (State.agentDenied x0 x1 x2 x3).mem = x0.mem := by
  unfold State.agentDenied
  split <;> simp

@[simp] theorem State.agentCount_mem (s : State) (a n : Nat) : (s.agentCount a n).mem = s.mem := by
  unfold State.agentCount
  refine foldl_mem _ (fun s x => ?_) _ _
  (repeat' split) <;> simp

@[simp] theorem State.dirtiedFrom_mem (s : State) (a n : Nat) : (s.dirtiedFrom a n).mem = s.mem := by
  unfold State.dirtiedFrom
  refine foldl_mem _ (fun s x => ?_) _ _
  split <;> simp

@[simp] theorem State.agentGet_mem (x0 : State) (x1 : Nat) (x2 : Nat) (x3 : Nat) (x4 : Option Nat) :
    (State.agentGet x0 x1 x2 x3 x4).1.mem = x0.mem := by
  unfold State.agentGet
  split <;> simp

@[simp] theorem State.shootdown_mem (s : State) (ctx lo hi : Nat) (m : Option (Nat × Nat)) :
    (s.shootdown ctx lo hi m).mem = s.mem := by
  unfold State.shootdown
  dsimp only
  rw [foldl_mem]
  intro s x
  split <;> simp

@[simp] theorem State.sendHeld_mem (x0 : State) (x1 : List Instr) : (State.sendHeld x0 x1).mem = x0.mem := by
  refine foldl_mem _ (fun s i => ?_) _ _
  split <;> simp

@[simp] theorem State.issueCopy_mem (x0 : State) (x1 : CopyIssue) (x2 : List Byte) : (State.issueCopy x0 x1 x2).mem = x0.mem := by
  unfold State.issueCopy
  dsimp only
  split <;> simp

@[simp] theorem State.copyForm_mem (x0 : State) (x1 : CopyIssue) (x2 : List Byte) : Kept (State.copyForm x0 x1 x2) x0.mem := by
  simp [State.copyForm]

@[simp] theorem execCpy_mem (x0 : BitVec 20) (x1 : Fin 4) (x2 : Bool) (x3 : Fin 256) (x4 : Dir) (x5 : State) :
    Kept (execCpy x0 x1 x2 x3 x4 x5) x5.mem := by
  simp [execCpy]

@[simp] theorem execCpym_mem (x0 : BitVec 20) (x1 : Fin 4) (x2 : Bool) (x3 : Fin 256) (x4 : Dir) (x5 : Fin 8) (x6 : State) :
    Kept (execCpym x0 x1 x2 x3 x4 x5 x6) x6.mem := by
  simp [execCpym]

@[simp] theorem execCpyx_mem (x0 : BitVec 20) (x1 : Fin 4) (x2 : Bool) (x3 : Fin 256) (x4 : State) :
    Kept (execCpyx x0 x1 x2 x3 x4) x4.mem := by
  simp [execCpyx]

@[simp] theorem execCpya_mem (x0 : BitVec 20) (x1 : Fin 4) (x2 : Bool) (x3 : Fin 256) (x4 : CpyaOp) (x5 : Fin 64) (x6 : State) :
    Kept (execCpya x0 x1 x2 x3 x4 x5 x6) x6.mem := by
  simp [execCpya]

@[simp] theorem execCpyd_mem (x0 : BitVec 20) (x1 : Fin 4) (x2 : Bool) (x3 : Fin 256) (x4 : Fin 256) (x5 : State) :
    Kept (execCpyd x0 x1 x2 x3 x4 x5) x5.mem := by
  simp [execCpyd]

@[simp] theorem execCpyi_mem (x0 : BitVec 20) (x1 : Fin 4) (x2 : Bool) (x3 : Fin 256) (x4 : Fin 16) (x5 : State) :
    Kept (execCpyi x0 x1 x2 x3 x4 x5) x5.mem := by
  simp [execCpyi]

@[simp] theorem execCpyc_mem (x0 : BitVec 20) (x1 : Fin 4) (x2 : Bool) (x3 : Fin 256) (x4 : State) :
    Kept (execCpyc x0 x1 x2 x3 x4) x4.mem := by
  simp [execCpyc]

@[simp] theorem State.modFl_mem (x0 : State) (x1 : Nat) (x2 : Flight → Flight) : (State.modFl x0 x1 x2).mem = x0.mem := by
  simp [State.modFl]

@[simp] theorem State.unask_mem (x0 : State) (x1 : Nat) (x2 : Nat × Nat) : (State.unask x0 x1 x2).mem = x0.mem := by
  simp [State.unask]

@[simp] theorem State.ask_mem (x0 : State) (x1 : Nat) (x2 : Nat × Nat) (x3 : Nat) (x4 : Nat) (x5 : Option (Nat × BitVec 8 × TEntry)) :
    (State.ask x0 x1 x2 x3 x4 x5).mem = x0.mem := by
  simp [State.ask]

@[simp] theorem State.letPass_mem (x0 : State) (x1 : Nat) (x2 : Nat × Nat) : (State.letPass x0 x1 x2).mem = x0.mem := by
  simp [State.letPass]

@[simp] theorem State.serve_mem (x0 : State) (x1 : Nat) (x2 : Nat × Nat) (x3 : Nat) (x4 : Nat) (x5 : Nat) :
    (State.serve x0 x1 x2 x3 x4 x5).mem = x0.mem := by
  simp [State.serve]

@[simp] theorem State.onCycle_mem (s : State) (c : Nat) (a : Instr) (f : State → Out) (h : ∀ t : State, Kept (f t) t.mem) :
    Kept (s.onCycle c a f) s.mem := by
  unfold State.onCycle
  split <;> simp [h]

/-- An access by way of a bank keeps device memory when its effect, its wait and its refusal do. -/
@[simp] theorem State.atBank_mem (s : State) (c : Nat) (id : Nat × Nat) (rank : Nat) (e : TEntry) (j : Nat) (a : Instr)
    (w : Option (State → State)) (got : Option (Nat × BitVec 8 × TEntry)) (check : Option LandCheck) (f : State → Out)
    (hw : ∀ g ∈ w, ∀ t : State, (g t).mem = t.mem) (hc : ∀ x ∈ check, ∀ t : State, Kept (x.refused t) t.mem)
    (h : ∀ t : State, Kept (f t) t.mem) : Kept (s.atBank c id rank e j a w got check f) s.mem := by
  unfold State.atBank
  refine State.onCycle_mem _ _ _ _ fun t => ?_
  dsimp only
  split
  · simp
  · split
    · rename_i x hx
      have hx : x ∈ check := by
        split at hx
        · contradiction
        · exact hx
      split
      · simpa using hc x hx (t.serve c id (entBank e j) (entLine e j) (t.cyc c))
      · simp
    · split
      · simpa using h (t.serve c id (entBank e j) (entLine e j) (t.cyc c))
      · cases w with
        | none => simp
        | some g => simpa using hw g rfl t

@[simp] theorem State.modCopy_mem (x0 : State) (x1 : Nat) (x2 : Nat) (x3 : CopyCmd → CopyCmd) :
    (State.modCopy x0 x1 x2 x3).mem = x0.mem := by
  simp [State.modCopy]

@[simp] theorem State.copyPerf_mem (x0 : State) (x1 : Nat) (x2 : Nat) : (State.copyPerf x0 x1 x2).mem = x0.mem := by
  unfold State.copyPerf
  (repeat' split) <;> simp

@[simp] theorem State.copyOver_mem (x0 : State) (x1 : Nat) (x2 : Nat) : (State.copyOver x0 x1 x2).mem = x0.mem := by
  simp [State.copyOver]

@[simp] theorem State.endCopy_mem (x0 : State) (x1 : Nat) (x2 : Nat) (x3 : Nat) (x4 : W64) :
    (State.endCopy x0 x1 x2 x3 x4).mem = x0.mem := by
  simp [State.endCopy]

@[simp] theorem State.nextLine_mem (x0 : State) (x1 : Nat) (x2 : Nat) : (State.nextLine x0 x1 x2).mem = x0.mem := by
  simp [State.nextLine]

@[simp] theorem State.landLocal_mem (x0 : State) (x1 : Nat) (x2 : Nat) (x3 : CopyCmd) (x4 : List Byte) :
    (State.landLocal x0 x1 x2 x3 x4).mem = x0.mem := by
  simp [State.landLocal]

@[simp] theorem State.sendReq_mem (x0 : State) (x1 : Nat) (x2 : Nat) (x3 : CopyCmd) :
    (State.sendReq x0 x1 x2 x3).mem = x0.mem := by
  unfold State.sendReq
  dsimp only
  (repeat' split) <;> simp

@[simp] theorem execCopyCommandStart_mem (x0 : Nat) (x1 : Nat) (x2 : State) : Kept (execCopyCommandStart x0 x1 x2) x2.mem := by
  unfold execCopyCommandStart
  dsimp only
  (repeat' split) <;> simp

@[simp] theorem State.copyBeat_mem (s : State) (c ch index off : Nat) (f : State → Out) (h : ∀ t : State, Kept (f t) t.mem) :
    Kept (s.copyBeat c ch index off f) s.mem :=
  State.atBank_mem _ _ _ _ _ _ _ _ _ _ _ (by simp) (by simp) h

@[simp] theorem State.huffLine_mem (x0 : State) (x1 : Nat) (x2 : Nat) (x3 : CopyCmd) (x4 : List Byte) :
    Kept (State.huffLine x0 x1 x2 x3 x4) x0.mem := by
  unfold State.huffLine
  dsimp only
  (repeat' split) <;> simp

@[simp] theorem execCopyLine_mem (c ch : Nat) (s : State) : Kept (execCopyLine c ch s) s.mem := by
  unfold execCopyLine
  dsimp only
  (repeat' split) <;> first
    | simp
    | (refine State.copyBeat_mem _ _ _ _ _ _ fun t => ?_
       (repeat' split) <;> simp)

@[simp] theorem State.answer_mem (x0 : State) (x1 : Nat) (x2 : Nat) (x3 : Nat) (x4 : Nat) (x5 : Nat) (x6 : Option (Nat × BitVec 8)) (x7 : Flags) (x8 : Nat) :
    (State.answer x0 x1 x2 x3 x4 x5 x6 x7 x8).mem = x0.mem := by
  simp [State.answer]

@[simp] theorem execRemoteBeatArrival_mem (c : Nat) (b : Beat) (s : State) : Kept (execRemoteBeatArrival c b s) s.mem := by
  unfold execRemoteBeatArrival
  dsimp only
  split
  · simp
  · split
    · simp
    · refine State.onCycle_mem _ _ _ _ fun t => ?_
      (repeat' split) <;> simp

@[simp] theorem execCopyCompletion_mem (x0 : Nat) (x1 : Nat) (x2 : State) : Kept (execCopyCompletion x0 x1 x2) x2.mem := by
  unfold execCopyCompletion
  dsimp only
  (repeat' split) <;> simp

@[simp] theorem execSeminc_mem (x0 : BitVec 20) (x1 : Fin 64) (x2 : SemSrc) (x3 : State) :
    Kept (execSeminc x0 x1 x2 x3) x3.mem := by
  simp [execSeminc]

@[simp] theorem execSemset_mem (x0 : BitVec 20) (x1 : Fin 64) (x2 : SemSrc) (x3 : State) :
    Kept (execSemset x0 x1 x2 x3) x3.mem := by
  simp [execSemset]

@[simp] theorem execSemchk_mem (x0 : BitVec 20) (x1 : Fin 64) (x2 : SemSrc) (x3 : State) :
    Kept (execSemchk x0 x1 x2 x3) x3.mem := by
  simp [execSemchk]

@[simp] theorem State.rendezvous_mem (x0 : State) (x1 : Nat) (x2 : W64) (x3 : W64) :
    (State.rendezvous x0 x1 x2 x3).mem = x0.mem := by
  unfold State.rendezvous
  (repeat' split) <;> simp

@[simp] theorem execTwait_mem (x0 : BitVec 20) (x1 : Fin 32) (x2 : Bool) (x3 : State) : Kept (execTwait x0 x1 x2 x3) x3.mem := by
  unfold execTwait
  dsimp only
  split <;> simp

@[simp] theorem execTstamp_mem (x0 : BitVec 20) (x1 : Fin 32) (x2 : State) : Kept (execTstamp x0 x1 x2) x2.mem := by
  unfold execTstamp
  split <;> simp

@[simp] theorem execRealign_mem (st : BitVec 20) (g : Fin 256) (sa : Fin 32) (s : State) :
    Kept (execRealign st g sa s) s.mem := by
  unfold execRealign
  apply State.checked_mem
  split
  · simp
  · apply foldl_mem
    intro s x
    dsimp only
    split <;> simp

@[simp] theorem execRealignTick_mem (x0 : Nat) (x1 : Nat) (x2 : State) : Kept (execRealignTick x0 x1 x2) x2.mem := by
  unfold execRealignTick
  dsimp only
  split <;> simp

@[simp] theorem State.sendMisc_mem (x0 : State) (x1 : Nat) (x2 : MiscSend) : (State.sendMisc x0 x1 x2).mem = x0.mem := by
  unfold State.sendMisc
  dsimp only
  (repeat' split) <;> simp

@[simp] theorem execTrace_mem (x0 : BitVec 20) (x1 : BitVec 8) (x2 : Fin 32) (x3 : State) :
    Kept (execTrace x0 x1 x2 x3) x3.mem := by
  simp [execTrace]

@[simp] theorem State.modTr_mem (x0 : State) (x1 : Nat) (x2 : TraceSt → TraceSt) : (State.modTr x0 x1 x2).mem = x0.mem := by
  simp [State.modTr]

@[simp] theorem State.traceSent_mem (x0 : State) (x1 : TraceRec) : (State.traceSent x0 x1).mem = x0.mem := by
  unfold State.traceSent
  dsimp only
  (repeat' split) <;> simp

@[simp] theorem execTraceRecord_mem (x0 : Fin 9) (x1 : TraceRec) (x2 : State) : Kept (execTraceRecord x0 x1 x2) x2.mem := by
  unfold execTraceRecord
  dsimp only
  split <;> simp

@[simp] theorem State.modAmo_mem (x0 : State) (x1 : Nat) (x2 : Nat) (x3 : AmoCmd → AmoCmd) :
    (State.modAmo x0 x1 x2 x3).mem = x0.mem := by
  simp [State.modAmo]

@[simp] theorem State.amoFails_mem (x0 : State) (x1 : Nat) (x2 : AmoCmd) (x3 : Nat) :
    (State.amoFails x0 x1 x2 x3).mem = x0.mem := by
  simp [State.amoFails]

@[simp] theorem State.amoLand_mem (x0 : State) (x1 : Nat) (x2 : AmoCmd) : (State.amoLand x0 x1 x2).mem = x0.mem := by
  unfold State.amoLand
  split <;> simp

@[simp] theorem State.amoDone_mem (x0 : State) (x1 : Nat) (x2 : AmoCmd) : (State.amoDone x0 x1 x2).mem = x0.mem := by
  simp [State.amoDone]

@[simp] theorem State.amoBack_mem (x0 : State) (x1 : Nat) (x2 : Nat) : (State.amoBack x0 x1 x2).mem = x0.mem := by
  simp [State.amoBack]

@[simp] theorem execAmo_mem (x0 : BitVec 20) (x1 : Bool) (x2 : AmoOp) (x3 : Fin 32) (x4 : Fin 32) (x5 : Fin 32) (x6 : State) :
    Kept (execAmo x0 x1 x2 x3 x4 x5 x6) x6.mem := by
  simp [execAmo]

@[simp] theorem State.amoSend_mem (x0 : State) (x1 : Nat) (x2 : AmoCmd) : (State.amoSend x0 x1 x2).mem = x0.mem := by
  unfold State.amoSend
  dsimp only
  (repeat' split) <;> simp

@[simp] theorem State.amoGo_mem (c : Nat) (l : List AmoCmd) : ∀ s : State, (s.amoGo c l).mem = s.mem := by
  induction l with
  | nil => intro s; rfl
  | cons o r ih =>
    intro s
    unfold State.amoGo
    dsimp only
    (repeat' split) <;> simp [ih]

@[simp] theorem execAmoCompletion_mem (x0 : Nat) (x1 : Nat) (x2 : State) : Kept (execAmoCompletion x0 x1 x2) x2.mem := by
  unfold execAmoCompletion
  (repeat' split) <;> simp

@[simp] theorem State.scLeave_mem (s : State) (c id : Nat) : (s.scLeave c id).mem = s.mem := by
  unfold State.scLeave
  dsimp only
  (repeat' split) <;> simp

@[simp] theorem State.scPost_mem (s : State) (c id w0 : Nat) : (s.scPost c id w0).mem = s.mem := by
  simp [State.scPost]

@[simp] theorem State.scForm_mem (x0 : State) (x1 : Bool) (x2 : AmoOp) (x3 : Bool) (x4 : Bool) (x5 : Fin 32) (x6 : Fin 32) (x7 : Fin 32) :
    Kept (State.scForm x0 x1 x2 x3 x4 x5 x6 x7) x0.mem := by
  unfold State.scForm
  dsimp only
  split <;> simp

@[simp] theorem execScld_mem (x0 : BitVec 20) (x1 : Bool) (x2 : Fin 32) (x3 : Fin 32) (x4 : State) :
    Kept (execScld x0 x1 x2 x3 x4) x4.mem := by
  simp [execScld]

@[simp] theorem execScst_mem (x0 : BitVec 20) (x1 : Bool) (x2 : Fin 32) (x3 : Fin 32) (x4 : State) :
    Kept (execScst x0 x1 x2 x3 x4) x4.mem := by
  simp [execScst]

@[simp] theorem execScamo_mem (x0 : BitVec 20) (x1 : Bool) (x2 : AmoOp) (x3 : Fin 32) (x4 : Fin 32) (x5 : Fin 32) (x6 : State) :
    Kept (execScamo x0 x1 x2 x3 x4 x5 x6) x6.mem := by
  simp [execScamo]

@[simp] theorem State.scAfresh_mem (c : Nat) (l : List AmoCmd) : ∀ s : State, (s.scAfresh c l).mem = s.mem := by
  induction l with
  | nil => intro s; rfl
  | cons o r ih =>
    intro s
    unfold State.scAfresh
    dsimp only
    (repeat' split) <;> simp [ih]

@[simp] theorem State.scLeaf_mem (x0 : State) (x1 : Nat) (x2 : Nat) : (State.scLeaf x0 x1 x2).1.mem = x0.mem := by
  unfold State.scLeaf
  (repeat' split) <;> simp

@[simp] theorem execScCompletion_mem (x0 : Nat) (x1 : Nat) (x2 : State) : Kept (execScCompletion x0 x1 x2) x2.mem := by
  unfold execScCompletion
  (repeat' split) <;> simp

@[simp] theorem execTranslationWalk_mem (x0 : Nat) (x1 : WalkFor) (x2 : State) : Kept (execTranslationWalk x0 x1 x2) x2.mem := by
  unfold execTranslationWalk
  dsimp only
  (repeat' split) <;> simp

@[simp] theorem State.modX_mem (x0 : State) (x1 : Nat) (x2 : Xchg → Xchg) : (State.modX x0 x1 x2).mem = x0.mem := by
  simp [State.modX]

@[simp] theorem State.xIssue_mem (x0 : State) (x1 : XCmd) : (State.xIssue x0 x1).mem = x0.mem := by
  simp [State.xIssue]

@[simp] theorem execXbegin_mem (x0 : State) : Kept (execXbegin x0) x0.mem := by
  simp [execXbegin]

@[simp] theorem execXend_mem (x0 : State) : Kept (execXend x0) x0.mem := by
  simp [execXend]

@[simp] theorem execXtx_mem (x0 : Fin 16) (x1 : Fin 32) (x2 : Fin 16) (x3 : BitVec 11) (x4 : State) :
    Kept (execXtx x0 x1 x2 x3 x4) x4.mem := by
  simp [execXtx]

@[simp] theorem execXrx_mem (x0 : Fin 16) (x1 : Fin 32) (x2 : Fin 16) (x3 : BitVec 11) (x4 : State) :
    Kept (execXrx x0 x1 x2 x3 x4) x4.mem := by
  simp [execXrx]

@[simp] theorem execXsel_mem (x0 : Fin 16) (x1 : Fin 16) (x2 : BitVec 16) (x3 : State) : Kept (execXsel x0 x1 x2 x3) x3.mem := by
  simp [execXsel]

@[simp] theorem State.driveRow_mem (x0 : State) (x1 : Nat) (x2 : Nat) (x3 : Nat) (x4 : VReg) :
    (State.driveRow x0 x1 x2 x3 x4).mem = x0.mem := by
  unfold State.driveRow
  dsimp only
  (repeat' split) <;> simp

@[simp] theorem State.takeRow_mem (x0 : State) (x1 : Nat) (x2 : Nat) (x3 : XCmd) (x4 : Option VReg) :
    (State.takeRow x0 x1 x2 x3 x4).mem = x0.mem := by
  simp [State.takeRow]

@[simp] theorem State.xAct_mem (x0 : State) (x1 : Nat) (x2 : Nat) (x3 : XCmd) : (State.xAct x0 x1 x2 x3).mem = x0.mem := by
  unfold State.xAct
  dsimp only
  (repeat' split) <;> simp

@[simp] theorem execExchangeRow_mem (x0 : Nat) (x1 : State) : Kept (execExchangeRow x0 x1) x1.mem := by
  unfold execExchangeRow
  dsimp only
  (repeat' split) <;> simp

@[simp] theorem State.recordIn_mem (x0 : State) (x1 : Nat) (x2 : Nat) (x3 : Nat) (x4 : W64) :
    (State.recordIn x0 x1 x2 x3 x4).mem = x0.mem := by
  unfold State.recordIn
  (repeat' split) <;> simp

@[simp] theorem State.logIn_mem (x0 : State) (x1 : Nat) (x2 : Nat) (x3 : Nat) (x4 : Nat) (x5 : Nat) :
    (State.logIn x0 x1 x2 x3 x4 x5).mem = x0.mem := by
  unfold State.logIn
  split <;> simp

@[simp] theorem State.modSub_mem (x0 : State) (x1 : Nat) (x2 : Subs → Subs) : (State.modSub x0 x1 x2).mem = x0.mem := by
  simp [State.modSub]

@[simp] theorem execSubon_mem (x0 : BitVec 20) (x1 : Fin 256) (x2 : Fin 256) (x3 : BitVec 12) (x4 : Fin 4) (x5 : State) :
    Kept (execSubon x0 x1 x2 x3 x4 x5) x5.mem := by
  simp [execSubon]

@[simp] theorem State.modSubIn_mem (x0 : State) (x1 : Nat) (x2 : Nat) (x3 : Subs → Subs) :
    (State.modSubIn x0 x1 x2 x3).mem = x0.mem := by
  simp [State.modSubIn]

@[simp] theorem execSubonRequest_mem (x0 : Nat) (x1 : Nat) (x2 : Nat) (x3 : State) :
    Kept (execSubonRequest x0 x1 x2 x3) x3.mem := by
  unfold execSubonRequest
  dsimp only
  (repeat' split) <;> simp

@[simp] theorem execSubonReply_mem (x0 : Nat) (x1 : Nat) (x2 : Bool) (x3 : State) : Kept (execSubonReply x0 x1 x2 x3) x3.mem := by
  unfold execSubonReply
  (repeat' split) <;> simp

@[simp] theorem execBatchWindowClose_mem (x0 : Nat) (x1 : Nat) (x2 : State) : Kept (execBatchWindowClose x0 x1 x2) x2.mem := by
  unfold execBatchWindowClose
  (repeat' split) <;> simp

@[simp] theorem State.deferLine_mem (x0 : State) (x1 : Nat) (x2 : SubLine) : (State.deferLine x0 x1 x2).mem = x0.mem := by
  simp [State.deferLine]

@[simp] theorem State.syncGo_mem (s : State) (p : Nat) : (s.syncGo p).mem = s.mem := by
  unfold State.syncGo
  apply foldl_mem
  intro s x
  dsimp only
  split <;> simp

@[simp] theorem State.batchDone_mem (x0 : State) (x1 : Nat) (x2 : SubLine) : (State.batchDone x0 x1 x2).mem = x0.mem := by
  simp [State.batchDone]

@[simp] theorem State.dropRest_mem (x0 : State) (x1 : Nat) (x2 : SubLine) : (State.dropRest x0 x1 x2).mem = x0.mem := by
  unfold State.dropRest
  split <;> simp

@[simp] theorem State.staleDrop_mem (x0 : State) (x1 : Nat) (x2 : SubLine) : (State.staleDrop x0 x1 x2).mem = x0.mem := by
  unfold State.staleDrop
  dsimp only
  (repeat' split) <;> simp

@[simp] theorem State.landResync_mem (x0 : State) (x1 : Nat) (x2 : SubLine) : (State.landResync x0 x1 x2).mem = x0.mem := by
  unfold State.landResync
  split <;> simp

@[simp] theorem execBatchLineLanding_mem (c : Nat) (l : SubLine) (s : State) : Kept (execBatchLineLanding c l s) s.mem := by
  unfold execBatchLineLanding
  split
  · simp
  · refine State.onCycle_mem _ _ _ _ fun t => ?_
    dsimp only
    (repeat' split) <;> simp

@[simp] theorem execSubscriptionResync_mem (x0 : Nat) (x1 : Nat) (x2 : State) :
    Kept (execSubscriptionResync x0 x1 x2) x2.mem := by
  unfold execSubscriptionResync
  split <;> simp

@[simp] theorem State.resyncs_mem (s : State) (l c : Nat) (all : Bool) : (s.resyncs l c all).mem = s.mem := by
  unfold State.resyncs
  apply foldl_mem
  intro s x
  split <;> simp

@[simp] theorem State.unfresh_mem (x0 : State) (x1 : Nat) (x2 : Nat) : (State.unfresh x0 x1 x2).mem = x0.mem := by
  simp [State.unfresh]

@[simp] theorem execSuboff_mem (x0 : BitVec 20) (x1 : Fin 256) (x2 : State) : Kept (execSuboff x0 x1 x2) x2.mem := by
  unfold execSuboff
  dsimp only
  split <;> simp

@[simp] theorem execSuboffRequest_mem (x0 : Nat) (x1 : Nat) (x2 : Nat) (x3 : State) :
    Kept (execSuboffRequest x0 x1 x2 x3) x3.mem := by
  unfold execSuboffRequest
  dsimp only
  (repeat' split) <;> simp

@[simp] theorem execSuboffAck_mem (x0 : Nat) (x1 : Nat) (x2 : State) : Kept (execSuboffAck x0 x1 x2) x2.mem := by
  unfold execSuboffAck
  dsimp only
  (repeat' split) <;> simp

@[simp] theorem execSubsync_mem (x0 : BitVec 20) (x1 : Fin 256) (x2 : State) : Kept (execSubsync x0 x1 x2) x2.mem := by
  unfold execSubsync
  dsimp only
  split <;> simp

@[simp] theorem execSubsyncCompletion_mem (x0 : Nat) (x1 : Nat) (x2 : State) : Kept (execSubsyncCompletion x0 x1 x2) x2.mem := by
  unfold execSubsyncCompletion
  split <;> simp

@[simp] theorem execMcwin_mem (x0 : BitVec 20) (x1 : Fin 256) (x2 : Fin 256) (x3 : Fin 256) (x4 : State) :
    Kept (execMcwin x0 x1 x2 x3 x4) x4.mem := by
  simp [execMcwin]

@[simp] theorem execMcoff_mem (x0 : BitVec 20) (x1 : Fin 256) (x2 : State) : Kept (execMcoff x0 x1 x2) x2.mem := by
  simp [execMcoff]

@[simp] theorem execMulticastLanding_mem (x0 : Nat) (x1 : McStore) (x2 : State) :
    Kept (execMulticastLanding x0 x1 x2) x2.mem := by
  unfold execMulticastLanding
  dsimp only
  (repeat' split) <;> simp

@[simp] theorem State.sourceEvent_mem (s : State) (r code : Nat) (rec : Bool) : (s.sourceEvent r code rec).mem = s.mem := by
  unfold State.sourceEvent
  split
  · dsimp only
    split <;> (try simp only [State.traceOther_mem]) <;>
      exact foldl_mem _ (fun s x => by split <;> simp) _ _
  · rfl

@[simp] theorem State.slipped_mem (x0 : State) (x1 : Nat) (x2 : Crossing) (x3 : Int) :
    (State.slipped x0 x1 x2 x3).mem = x0.mem := by
  unfold State.slipped
  dsimp only
  split <;> simp

@[simp] theorem State.sampleSent_mem (x0 : State) (x1 : Nat) : (State.sampleSent x0 x1).mem = x0.mem := by
  unfold State.sampleSent
  dsimp only
  split <;> simp

@[simp] theorem execProducerSampleArrival_mem (x0 : Fin 64) (x1 : List W32) (x2 : State) :
    Kept (execProducerSampleArrival x0 x1 x2) x2.mem := by
  unfold execProducerSampleArrival
  dsimp only
  (repeat' split) <;> simp

@[simp] theorem State.reanchor_mem (x0 : State) (x1 : Nat) (x2 : Crossing) (x3 : Nat) :
    (State.reanchor x0 x1 x2 x3).mem = x0.mem := by
  unfold State.reanchor
  split <;> simp

@[simp] theorem execConsumerSampleDelivery_mem (x0 : Fin 64) (x1 : State) : Kept (execConsumerSampleDelivery x0 x1) x1.mem := by
  unfold execConsumerSampleDelivery
  dsimp only
  (repeat' split) <;> simp

@[simp] theorem execSlpwr_mem (x0 : BitVec 20) (x1 : Fin 64) (x2 : Fin 256) (x3 : Fin 32) (x4 : State) :
    Kept (execSlpwr x0 x1 x2 x3 x4) x4.mem := by
  simp [execSlpwr]

@[simp] theorem State.slipForm_mem (x0 : State) (x1 : Fin 64) (x2 : Fin 256) (x3 : Tag) (x4 : Nat) (x5 : Nat) (x6 : SlipRes) (x7 : Crossing → Bool) :
    Kept (State.slipForm x0 x1 x2 x3 x4 x5 x6 x7) x0.mem := by
  simp [State.slipForm]

@[simp] theorem execSlprd_mem (x0 : BitVec 20) (x1 : Fin 64) (x2 : Fin 256) (x3 : Fin 32) (x4 : State) :
    Kept (execSlprd x0 x1 x2 x3 x4) x4.mem := by
  simp [execSlprd]

@[simp] theorem execSlpst_mem (x0 : BitVec 20) (x1 : Fin 64) (x2 : Fin 256) (x3 : Fin 32) (x4 : State) :
    Kept (execSlpst x0 x1 x2 x3 x4) x4.mem := by
  simp [execSlpst]

@[simp] theorem State.slipSend_mem (x0 : State) (x1 : Nat) (x2 : SlipRes) : (State.slipSend x0 x1 x2).mem = x0.mem := by
  unfold State.slipSend
  split <;> simp

@[simp] theorem State.slipLine_mem (x0 : State) (x1 : Nat) (x2 : Nat) (x3 : SlipRes) (x4 : List W32) (x5 : Nat) :
    (State.slipLine x0 x1 x2 x3 x4 x5).mem = x0.mem := by
  unfold State.slipLine
  dsimp only
  split <;> simp

@[simp] theorem execSlpResultLanding_mem (c id : Nat) (s : State) : Kept (execSlpResultLanding c id s) s.mem := by
  unfold execSlpResultLanding
  dsimp only
  split
  · simp
  · split
    · simp
    · refine State.onCycle_mem _ _ _ _ fun t => ?_
      (repeat' split) <;> simp

@[simp] theorem State.modInst_mem (x0 : State) (x1 : Nat) (x2 : CollInst → CollInst) : (State.modInst x0 x1 x2).mem = x0.mem := by
  simp [State.modInst]

@[simp] theorem State.collTrace_mem (x0 : State) (x1 : Nat) (x2 : Nat) (x3 : Nat) (x4 : CollInst) (x5 : Nat) :
    (State.collTrace x0 x1 x2 x3 x4 x5).mem = x0.mem := by
  simp [State.collTrace]

@[simp] theorem State.collSteps_mem (x0 : State) (x1 : Nat) (x2 : Nat) (x3 : CollInst) (x4 : Nat) :
    (State.collSteps x0 x1 x2 x3 x4).mem = x0.mem := by
  unfold State.collSteps
  split <;> simp

@[simp] theorem State.collSettle_mem (s : State) (i c : Nat) (x : CollInst) (code lines : Nat) (faddr : W64) (f : Flags) :
    (s.collSettle i c x code lines faddr f).mem = s.mem := by
  simp [State.collSettle]

@[simp] theorem State.collFinish_mem (s : State) (i c : Nat) (x : CollInst) (y : CollCmd) (code : Nat) :
    (s.collFinish i c x y code).mem = s.mem := by
  unfold State.collFinish
  dsimp only
  (repeat' split) <;> simp

@[simp] theorem State.collEnd_mem (s : State) (i : Nat) (st : CollSt) : (s.collEnd i st).mem = s.mem := by
  unfold State.collEnd
  split
  · dsimp only
    rw [foldl_mem]
    · split <;> simp
    · intro s x
      (repeat' split) <;> simp
  · rfl

@[simp] theorem execColl_mem (x0 : BitVec 20) (x1 : CollKind) (x2 : Fin 4) (x3 : Bool) (x4 : Fin 256) (x5 : Fin 256) (x6 : CollOp) (x7 : State) :
    Kept (execColl x0 x1 x2 x3 x4 x5 x6 x7) x7.mem := by
  unfold execColl
  dsimp only
  (repeat' split) <;> simp

@[simp] theorem State.collAccess_mem (x0 : State) (x1 : CollFor) (x2 : Nat) (x3 : Nat) (x4 : XKind) :
    (State.collAccess x0 x1 x2 x3 x4).1.mem = x0.mem := by
  unfold State.collAccess
  dsimp only
  (repeat' split) <;> simp

@[simp] theorem State.collLine_mem (x0 : State) (x1 : CollFor) (x2 : Nat) (x3 : Trans) (x4 : Nat) :
    (State.collLine x0 x1 x2 x3 x4).1.mem = x0.mem := by
  unfold State.collLine
  dsimp only
  split <;> simp

@[simp] theorem State.collRead_mem (f : CollFor) (since : Nat) (l : List (Nat × Nat)) :
    ∀ s : State, (s.collRead f since l).1.mem = s.mem := by
  induction l with
  | nil => intro s; rfl
  | cons q r ih =>
    intro s
    unfold State.collRead
    dsimp only
    (repeat' split) <;> simp [ih]

@[simp] theorem State.collMerged_mem (x0 : State) (x1 : Nat) : (State.collMerged x0 x1).mem = x0.mem := by
  unfold State.collMerged
  split <;> simp

@[simp] theorem State.collLocal_mem (x0 : State) (x1 : Nat) : (State.collLocal x0 x1).mem = x0.mem := by
  unfold State.collLocal
  (repeat' split) <;> simp

theorem State.collHeld_kept {s t : State} {f : CollFor} {x : XKind} {ls : List (Nat × Nat)} {i : Instr}
    (h : s.collHeld f x ls i = some t) : t.mem = s.mem := by
  obtain ⟨q, -, h⟩ := List.exists_of_findSome?_eq_some h
  obtain ⟨u, -, h⟩ := Option.bind_eq_some_iff.1 h
  exact State.heldRow_kept h

@[simp] theorem execCollContribution_mem (i c : Nat) (s : State) : Kept (execCollContribution i c s) s.mem := by
  unfold execCollContribution
  dsimp only
  (repeat' split) <;> first
    | (simp; done)
    | (rw [kept_next]; exact State.collHeld_kept (by assumption))

@[simp] theorem execCollDeadline_mem (x0 : Nat) (x1 : State) : Kept (execCollDeadline x0 x1) x1.mem := by
  unfold execCollDeadline
  (repeat' split) <;> simp

@[simp] theorem State.sendAcked_mem (s : State) (l c id : Nat) : (s.sendAcked l c id).mem = s.mem := by
  unfold State.sendAcked
  dsimp only
  split <;> simp

@[simp] theorem State.sendsOut_mem (s : State) (x : CollInst) : (s.sendsOut x).mem = s.mem := by
  unfold State.sendsOut
  apply foldl_mem
  intro s p
  simp

@[simp] theorem execKamrexContrib_mem (x0 : Nat) (x1 : State) : Kept (execKamrexContrib x0 x1) x1.mem := by
  unfold execKamrexContrib
  (repeat' split) <;> simp

@[simp] theorem State.collRemote_mem (x0 : State) (x1 : Nat) (x2 : Nat) (x3 : List W32) :
    (State.collRemote x0 x1 x2 x3).mem = x0.mem := by
  unfold State.collRemote
  dsimp only
  (repeat' split) <;> simp

@[simp] theorem execKamrexResult_mem (x0 : Nat) (x1 : List (List W32)) (x2 : State) :
    Kept (execKamrexResult x0 x1 x2) x2.mem := by
  unfold execKamrexResult
  (repeat' split) <;> simp

@[simp] theorem execKamrexAbort_mem (x0 : Nat) (x1 : State) : Kept (execKamrexAbort x0 x1) x1.mem := by
  unfold execKamrexAbort
  (repeat' split) <;> simp

@[simp] theorem execCollectiveDatagram_mem (x0 : Nat) (x1 : Nat) (x2 : List W32) (x3 : State) :
    Kept (execCollectiveDatagram x0 x1 x2 x3) x3.mem := by
  unfold execCollectiveDatagram
  (repeat' split) <;> simp

@[simp] theorem State.modCtx_mem (x0 : State) (x1 : Nat) (x2 : Ctx → Ctx) : (State.modCtx x0 x1 x2).mem = x0.mem := by
  simp [State.modCtx]

@[simp] theorem State.answered_mem (x0 : State) (x1 : Nat) : (State.answered x0 x1).mem = x0.mem := by
  simp [State.answered]

@[simp] theorem State.setXcid_mem (x0 : State) (x1 : Nat) (x2 : XcidCtx) : (State.setXcid x0 x1 x2).mem = x0.mem := by
  unfold State.setXcid
  split <;> simp

@[simp] theorem execXcidContextSetup_mem (x0 : Fin 8) (x1 : XcidCtx) (x2 : State) :
    Kept (execXcidContextSetup x0 x1 x2) x2.mem := by
  unfold execXcidContextSetup
  rw [kept_next]
  split <;> simp

@[simp] theorem execKamrexMgmt_mem (x0 : Fin 8) (x1 : XcidCtx) (x2 : State) : Kept (execKamrexMgmt x0 x1 x2) x2.mem := by
  simp [execKamrexMgmt]

@[simp] theorem execKamrexPlaneDown_mem (x0 : Fin 36) (x1 : State) : Kept (execKamrexPlaneDown x0 x1) x1.mem := by
  simp [execKamrexPlaneDown]

@[simp] theorem State.modPkg_mem (x0 : State) (x1 : Pkg → Pkg) : (State.modPkg x0 x1).mem = x0.mem := by
  simp [State.modPkg]

@[simp] theorem State.abortAll_mem (x0 : State) (x1 : Launch → Bool) : (State.abortAll x0 x1).mem = x0.mem := by
  simp [State.abortAll]

@[simp] theorem State.lostFreeze_mem (x0 : State) (x1 : Nat) : (State.lostFreeze x0 x1).mem = x0.mem := by
  unfold State.lostFreeze
  split <;> simp

@[simp] theorem State.freezeLost_mem (x0 : State) : (State.freezeLost x0).mem = x0.mem := by
  simp [State.freezeLost]

@[simp] theorem execLinkDown_mem (x0 : Fin 36) (x1 : State) : Kept (execLinkDown x0 x1) x1.mem := by
  unfold execLinkDown
  dsimp only
  split <;> simp

@[simp] theorem execPartitionSetup_mem (x0 : Fin 8) (x1 : List Nat) (x2 : Topology) (x3 : State) :
    Kept (execPartitionSetup x0 x1 x2 x3) x3.mem := by
  unfold execPartitionSetup
  dsimp only
  (repeat' split) <;> simp

@[simp] theorem State.modPort_mem (x0 : State) (x1 : Nat) (x2 : Port → Port) : (State.modPort x0 x1 x2).mem = x0.mem := by
  simp [State.modPort]

@[simp] theorem State.modRegion_mem (x0 : State) (x1 : Nat) (x2 : Region → Region) : (State.modRegion x0 x1 x2).mem = x0.mem := by
  simp [State.modRegion]

@[simp] theorem State.endRead_mem (x0 : State) (x1 : Nat) : (State.endRead x0 x1).mem = x0.mem := by
  unfold State.endRead
  dsimp only
  (repeat' split) <;> simp

@[simp] theorem State.stopMember_mem (x0 : State) (x1 : Gang) (x2 : Nat) : (State.stopMember x0 x1 x2).mem = x0.mem := by
  unfold State.stopMember
  split <;> simp

@[simp] theorem State.gangStopped_mem (x0 : State) (x1 : Nat) : (State.gangStopped x0 x1).mem = x0.mem := by
  unfold State.gangStopped
  (repeat' split) <;> simp

@[simp] theorem execGangStop_mem (g : Nat) (s : State) : Kept (execGangStop g s) s.mem := by
  unfold execGangStop
  split
  · split
    · split
      · simp
      · rw [kept_next, State.gangStopped_mem, foldl_mem]
        intro s x
        split <;> simp
    · simp
  · simp

@[simp] theorem State.boundaryStops_mem (s : State) (r : Nat) : (s.boundaryStops r).mem = s.mem := by
  unfold State.boundaryStops
  split
  · apply foldl_mem
    intro s x
    (repeat' split) <;> simp
  · rfl

@[simp] theorem State.reclock_mem (x0 : State) (x1 : Nat) (x2 : Region) (x3 : Region) :
    (State.reclock x0 x1 x2 x3).mem = x0.mem := by
  simp [State.reclock]

@[simp] theorem State.frameCore_mem (x0 : State) (x1 : Nat) (x2 : Nat) (x3 : Bool) :
    (State.frameCore x0 x1 x2 x3).mem = x0.mem := by
  unfold State.frameCore
  dsimp only
  (repeat' split) <;> simp

@[simp] theorem State.regionFrame_mem (x0 : State) (x1 : Nat) : (State.regionFrame x0 x1).mem = x0.mem := by
  unfold State.regionFrame
  (repeat' split) <;> simp

@[simp] theorem State.regionTry_mem (x0 : State) (x1 : Nat) : (State.regionTry x0 x1).mem = x0.mem := by
  unfold State.regionTry
  (repeat' split) <;> simp

@[simp] theorem State.coreFrameEnd_mem (x0 : State) (x1 : Nat) : (State.coreFrameEnd x0 x1).mem = x0.mem := by
  unfold State.coreFrameEnd
  dsimp only
  (repeat' split) <;> simp

@[simp] theorem State.regionFrameEnd_mem (s : State) (r : Nat) : (s.regionFrameEnd r).mem = s.mem := by
  have hs : ∀ (l : List Nat) (s : State), (l.foldl (fun s c =>
      if (s.core c).seq.counting then s.haltAt c (s.core c).seq.st (s.cyc c) else s) s).mem = s.mem := by
    intro l s
    apply foldl_mem
    intro s x
    split <;> simp
  unfold State.regionFrameEnd
  dsimp only
  split
  · split
    · rfl
    · split
      · simp
      · rw [State.postEv_mem]
        split <;> simp [hs]
  · rfl

@[simp] theorem execFrameEnd_mem (x0 : FrameOf) (x1 : State) : Kept (execFrameEnd x0 x1) x1.mem := by
  unfold execFrameEnd
  split <;> simp

@[simp] theorem State.freezeRegion_mem (s : State) (r : Nat) : (s.freezeRegion r).mem = s.mem := by
  unfold State.freezeRegion
  apply foldl_mem
  intro s x
  split <;> simp

@[simp] theorem execSrcStop_mem (x0 : Nat) (x1 : State) : Kept (execSrcStop x0 x1) x1.mem := by
  unfold execSrcStop
  (repeat' split) <;> simp

@[simp] theorem execRegionClockGate_mem (x0 : Nat) (x1 : State) : Kept (execRegionClockGate x0 x1) x1.mem := by
  unfold execRegionClockGate
  (repeat' split) <;> simp

@[simp] theorem State.relock_mem (x0 : State) (x1 : Nat) (x2 : Region) : (State.relock x0 x1 x2).mem = x0.mem := by
  unfold State.relock
  split <;> simp

@[simp] theorem State.edgesBack_mem (x0 : State) (x1 : Nat) : (State.edgesBack x0 x1).mem = x0.mem := by
  simp [State.edgesBack]

@[simp] theorem execSourceEdgesReturn_mem (x0 : Fin 16) (x1 : State) : Kept (execSourceEdgesReturn x0 x1) x1.mem := by
  simp [execSourceEdgesReturn]

@[simp] theorem execSourceEdgesCease_mem (p : Fin 16) (s : State) : Kept (execSourceEdgesCease p s) s.mem := by
  unfold execSourceEdgesCease
  rw [kept_next, foldl_mem]
  · simp
  · intro s x
    split <;> simp

@[simp] theorem State.powerUp_mem (x0 : State) (x1 : List Nat) : (State.powerUp x0 x1).mem = x0.mem := by
  simp [State.powerUp]

@[simp] theorem execRcgLock_mem (x0 : Nat) (x1 : State) : Kept (execRcgLock x0 x1) x1.mem := by
  unfold execRcgLock
  (repeat' split) <;> simp

@[simp] theorem State.edgeJitter_mem (x0 : State) (x1 : Nat) (x2 : Region) (x3 : Nat) (x4 : Nat) (x5 : Nat) :
    (State.edgeJitter x0 x1 x2 x3 x4 x5).mem = x0.mem := by
  unfold State.edgeJitter
  split <;> simp

@[simp] theorem State.lockSample_mem (x0 : State) (x1 : Nat) (x2 : Region) : (State.lockSample x0 x1 x2).mem = x0.mem := by
  unfold State.lockSample
  (repeat' split) <;> simp

@[simp] theorem State.countDrops_mem (s : State) (p : Nat) : (s.countDrops p).mem = s.mem := by
  unfold State.countDrops
  apply foldl_mem
  intro s x
  simp

@[simp] theorem State.landPort_mem (x0 : State) (x1 : Nat) (x2 : PortFrame) : (State.landPort x0 x1 x2).mem = x0.mem := by
  unfold State.landPort
  dsimp only
  (repeat' split) <;> simp

@[simp] theorem State.takeSample_mem (x0 : State) (x1 : Nat) (x2 : List W32) (x3 : Nat) :
    (State.takeSample x0 x1 x2 x3).mem = x0.mem := by
  unfold State.takeSample
  dsimp only
  (repeat' split) <;> simp

@[simp] theorem State.consumers_mem (s : State) (p : Nat) : (s.consumers p).mem = s.mem := by
  unfold State.consumers
  apply foldl_mem
  intro s x
  (repeat' split) <;> simp

@[simp] theorem State.sampleEdge_mem (x0 : State) (x1 : Nat) (x2 : Nat) : (State.sampleEdge x0 x1 x2).mem = x0.mem := by
  simp [State.sampleEdge]

@[simp] theorem execSampleArrival_mem (x0 : Fin 16) (x1 : SampleSrc) (x2 : List W32) (x3 : State) :
    Kept (execSampleArrival x0 x1 x2 x3) x3.mem := by
  unfold execSampleArrival
  (repeat' split) <;> simp

@[simp] theorem State.tryRegions_mem (x0 : State) (x1 : List Nat) : (State.tryRegions x0 x1).mem = x0.mem := by
  simp [State.tryRegions]

@[simp] theorem execGangRestart_mem (x0 : Nat) (x1 : State) : Kept (execGangRestart x0 x1) x1.mem := by
  unfold execGangRestart
  dsimp only
  (repeat' split) <;> simp

@[simp] theorem State.firstPhase_mem (x0 : State) (x1 : Nat) (x2 : Nat) : (State.firstPhase x0 x1 x2).mem = x0.mem := by
  unfold State.firstPhase
  dsimp only
  (repeat' split) <;> simp

@[simp] theorem execTaskStart_mem (x0 : Nat) (x1 : State) : Kept (execTaskStart x0 x1) x1.mem := by
  unfold execTaskStart
  dsimp only
  (repeat' split) <;> simp

@[simp] theorem State.modQueue_mem (x0 : State) (x1 : Nat) (x2 : CmdQueue → CmdQueue) :
    (State.modQueue x0 x1 x2).mem = x0.mem := by
  simp [State.modQueue]

@[simp] theorem State.admissionPass_mem (x0 : State) (x1 : Nat) : (State.admissionPass x0 x1).mem = x0.mem := by
  unfold State.admissionPass
  split <;> simp

@[simp] theorem execQctlWrite_mem (x0 : Fin 256) (x1 : W64) (x2 : State) : Kept (execQctlWrite x0 x1 x2) x2.mem := by
  unfold execQctlWrite
  dsimp only
  (repeat' split) <;> simp

@[simp] theorem execQtailWrite_mem (x0 : Fin 256) (x1 : W32) (x2 : State) : Kept (execQtailWrite x0 x1 x2) x2.mem := by
  unfold execQtailWrite
  dsimp only
  (repeat' split) <;> simp

@[simp] theorem State.tryPreempt_mem (x0 : State) (x1 : Nat) : (State.tryPreempt x0 x1).mem = x0.mem := by
  unfold State.tryPreempt
  (repeat' split) <;> simp

@[simp] theorem State.want_mem (x0 : State) (x1 : Nat) (x2 : Nat) : (State.want x0 x1 x2).mem = x0.mem := by
  unfold State.want
  (repeat' split) <;> simp

@[simp] theorem State.tryResume_mem (x0 : State) (x1 : Nat) : (State.tryResume x0 x1).mem = x0.mem := by
  unfold State.tryResume
  dsimp only
  (repeat' split) <;> simp

@[simp] theorem State.resumeAll_mem (x0 : State) : (State.resumeAll x0).mem = x0.mem := by
  simp [State.resumeAll]

@[simp] theorem State.wakeWaiters_mem (x0 : State) (x1 : Nat) : (State.wakeWaiters x0 x1).mem = x0.mem := by
  simp [State.wakeWaiters]

@[simp] theorem State.entryImage_mem (x0 : State) (x1 : Nat) (x2 : Nat) : (State.entryImage x0 x1 x2).1.mem = x0.mem := by
  unfold State.entryImage
  dsimp only
  (repeat' split) <;> simp

@[simp] theorem State.addRegion_mem (x0 : State) (x1 : Nat) (x2 : RegionDesc) : (State.addRegion x0 x1 x2).mem = x0.mem := by
  unfold State.addRegion
  dsimp only
  (repeat' split) <;> simp

@[simp] theorem State.addGang_mem (x0 : State) (x1 : Nat) (x2 : GroupDesc) : (State.addGang x0 x1 x2).mem = x0.mem := by
  simp [State.addGang]

@[simp] theorem State.addCross_mem (x0 : State) (x1 : Nat) (x2 : CrossDesc) : (State.addCross x0 x1 x2).mem = x0.mem := by
  unfold State.addCross
  dsimp only
  (repeat' split) <;> simp

@[simp] theorem State.addCore_mem (x0 : State) (x1 : Nat) (x2 : Image) (x3 : Nat) : (State.addCore x0 x1 x2 x3).mem = x0.mem := by
  unfold State.addCore
  dsimp only
  split <;> simp

@[simp] theorem State.addSub_mem (x0 : State) (x1 : Image) (x2 : SubDesc) : (State.addSub x0 x1 x2).mem = x0.mem := by
  simp [State.addSub]

@[simp] theorem State.dropMoves_mem (x0 : State) (x1 : Nat) : (State.dropMoves x0 x1).mem = x0.mem := by
  simp [State.dropMoves]

@[simp] theorem State.admitLaunch_mem (x0 : State) (x1 : Nat) (x2 : Launch) : (State.admitLaunch x0 x1 x2).mem = x0.mem := by
  unfold State.admitLaunch
  dsimp only
  split <;> simp

@[simp] theorem State.release_mem (x0 : State) (x1 : Nat) (x2 : Launch) : (State.release x0 x1 x2).mem = x0.mem := by
  simp [State.release]

@[simp] theorem State.saveGang_mem (x0 : State) (x1 : Nat) (x2 : Gang) : (State.saveGang x0 x1 x2).mem = x0.mem := by
  simp [State.saveGang]

@[simp] theorem State.logArea_mem (s : State) (x : Gang) (q : XKind) : (s.logArea x q).mem = s.mem := by
  unfold State.logArea
  dsimp only
  apply foldl_mem
  intro s x
  simp

@[simp] theorem execContextSave_mem (x0 : Nat) (x1 : State) : Kept (execContextSave x0 x1) x1.mem := by
  unfold execContextSave
  (repeat' split) <;> simp

@[simp] theorem execContextRestore_mem (x0 : Nat) (x1 : State) : Kept (execContextRestore x0 x1) x1.mem := by
  unfold execContextRestore
  (repeat' split) <;> simp

@[simp] theorem State.resumeMember_mem (x0 : State) (x1 : Gang) (x2 : Nat) : (State.resumeMember x0 x1 x2).mem = x0.mem := by
  unfold State.resumeMember
  dsimp only
  (repeat' split) <;> simp

@[simp] theorem execGangResume_mem (x0 : Nat) (x1 : State) : Kept (execGangResume x0 x1) x1.mem := by
  unfold execGangResume
  (repeat' split) <;> simp

@[simp] theorem execDebugHalt_mem (x0 : Nat) (x1 : State) : Kept (execDebugHalt x0 x1) x1.mem := by
  unfold execDebugHalt
  (repeat' split) <;> simp

@[simp] theorem State.debugStep_mem (x0 : State) (x1 : Nat) (x2 : Nat) : (State.debugStep x0 x1 x2).mem = x0.mem := by
  unfold State.debugStep
  (repeat' split) <;> simp

@[simp] theorem execDebugStep_mem (x0 : Nat) (x1 : State) : Kept (execDebugStep x0 x1) x1.mem := by
  simp [execDebugStep]

@[simp] theorem execDebugStepg_mem (x0 : Nat) (x1 : State) : Kept (execDebugStepg x0 x1) x1.mem := by
  simp [execDebugStepg]

@[simp] theorem State.debugResume_mem (x0 : State) (x1 : Nat) (x2 : Nat) (x3 : Gang) :
    (State.debugResume x0 x1 x2 x3).mem = x0.mem := by
  unfold State.debugResume
  dsimp only
  split <;> simp

@[simp] theorem execDebugResume_mem (x0 : Nat) (x1 : State) : Kept (execDebugResume x0 x1) x1.mem := by
  unfold execDebugResume
  (repeat' split) <;> simp

@[simp] theorem execDebugRegisterWrite_mem (x0 : Nat) (x1 : DbgReg) (x2 : W64) (x3 : State) :
    Kept (execDebugRegisterWrite x0 x1 x2 x3) x3.mem := by
  unfold execDebugRegisterWrite
  split <;> simp

@[simp] theorem State.dbgctlFields_mem (x0 : State) (x1 : Nat) (x2 : W64) : (State.dbgctlFields x0 x1 x2).mem = x0.mem := by
  simp [State.dbgctlFields]

@[simp] theorem State.dbgctlWrite_mem (s : State) (c : Nat) (v : W64) : Kept (s.dbgctlWrite c v) s.mem := by
  have e : (s.dbgctlFields c v).mem = s.mem := State.dbgctlFields_mem _ _ _
  unfold State.dbgctlWrite
  dsimp only
  rw [← e]
  split <;> simp only [execDebugHalt_mem, execDebugStep_mem, execDebugStepg_mem, execDebugResume_mem, kept_next]

@[simp] theorem State.offerItems_mem (x0 : State) (x1 : Nat) : (State.offerItems x0 x1).mem = x0.mem := by
  unfold State.offerItems
  split <;> simp

@[simp] theorem execIqtailWrite_mem (x0 : Fin 16) (x1 : W32) (x2 : State) : Kept (execIqtailWrite x0 x1 x2) x2.mem := by
  unfold execIqtailWrite
  dsimp only
  (repeat' split) <;> simp

@[simp] theorem execItemAccept_mem (p : Fin 16) (s : State) : Kept (execItemAccept p s) s.mem := by
  have hg : ∀ (b : Bool) (u v : State × Option (List Byte)), u.1.mem = s.mem → v.1.mem = s.mem →
      (if b then u else v).1.mem = s.mem := by
    intro b u v hu hv
    split <;> assumption
  unfold execItemAccept
  dsimp only
  split
  · simp
  · split
    · rw [kept_next]; exact State.heldRow_kept (by assumption)
    · rw [kept_next]; exact State.heldRow_kept (by assumption)
    · simp only [kept_next, State.offerItems_mem, State.postFree_mem, State.modPort_mem]
      exact hg _ _ _ (by simp) (by simp)

@[simp] theorem execUnitReady_mem (x0 : Fin 16) (x1 : State) : Kept (execUnitReady x0 x1) x1.mem := by
  unfold execUnitReady
  dsimp only
  split <;> simp

@[simp] theorem execShootdown_mem (x0 : Fin 8) (x1 : Nat) (x2 : Nat) (x3 : State) : Kept (execShootdown x0 x1 x2 x3) x3.mem := by
  unfold execShootdown
  rw [kept_next]
  split <;> simp

@[simp] theorem State.invalidate_mem (x0 : State) (x1 : Nat) (x2 : Nat) (x3 : Nat) (x4 : Nat) :
    (State.invalidate x0 x1 x2 x3 x4).mem = x0.mem := by
  simp [State.invalidate]

@[simp] theorem State.modShoot_mem (x0 : State) (x1 : Nat) (x2 : Shoot → Shoot) : (State.modShoot x0 x1 x2).mem = x0.mem := by
  simp [State.modShoot]

@[simp] theorem State.acked_mem (x0 : State) (x1 : Shoot) (x2 : Nat) : (State.acked x0 x1 x2).mem = x0.mem := by
  unfold State.acked
  dsimp only
  (repeat' split) <;> simp

@[simp] theorem execShootdownAck_mem (x0 : Fin 9) (x1 : Nat) (x2 : State) : Kept (execShootdownAck x0 x1 x2) x2.mem := by
  unfold execShootdownAck
  dsimp only
  (repeat' split) <;> simp

@[simp] theorem State.setMigctl_mem (x0 : State) (x1 : Nat) (x2 : W64) : (State.setMigctl x0 x1 x2).mem = x0.mem := by
  unfold State.setMigctl
  dsimp only
  (repeat' split) <;> simp

@[simp] theorem execMigrationLock_mem (x0 : Fin 9) (x1 : Nat) (x2 : State) : Kept (execMigrationLock x0 x1 x2) x2.mem := by
  unfold execMigrationLock
  (repeat' split) <;> simp

@[simp] theorem execMigrationComplete_mem (x0 : Fin 9) (x1 : Nat) (x2 : State) :
    Kept (execMigrationComplete x0 x1 x2) x2.mem := by
  unfold execMigrationComplete
  (repeat' split) <;> simp

@[simp] theorem State.setStage_mem (x0 : State) (x1 : Nat) (x2 : Nat) : (State.setStage x0 x1 x2).mem = x0.mem := by
  simp [State.setStage]

@[simp] theorem State.nextStage_mem (x0 : State) (x1 : Nat) : (State.nextStage x0 x1).mem = x0.mem := by
  simp [State.nextStage]

@[simp] theorem State.postAgeing_mem (x0 : State) : (State.postAgeing x0).mem = x0.mem := by
  simp [State.postAgeing]

@[simp] theorem State.stageAct_mem (x0 : State) (x1 : Nat) : (State.stageAct x0 x1).mem = x0.mem := by
  unfold State.stageAct
  (repeat' split) <;> simp

@[simp] theorem State.bringUp_mem (x0 : State) (x1 : Nat) : (State.bringUp x0 x1).mem = x0.mem := by
  unfold State.bringUp
  dsimp only
  (repeat' split) <;> simp

@[simp] theorem State.ptcLocked_mem (x0 : State) : (State.ptcLocked x0).mem = x0.mem := by
  unfold State.ptcLocked
  dsimp only
  split <;> simp

@[simp] theorem State.setPtc_mem (x0 : State) (x1 : Nat) : (State.setPtc x0 x1).mem = x0.mem := by
  simp [State.setPtc]

@[simp] theorem execPtcLockTimeout_mem (x0 : State) : Kept (execPtcLockTimeout x0) x0.mem := by
  unfold execPtcLockTimeout
  split <;> simp

@[simp] theorem execModuleReset_mem (x0 : State) : Kept (execModuleReset x0) x0.mem := by
  simp [execModuleReset]

@[simp] theorem execPtpMessage_mem (x0 : Fin 8) (x1 : PtpMsg) (x2 : State) : Kept (execPtpMessage x0 x1 x2) x2.mem := by
  unfold execPtpMessage
  (repeat' split) <;> simp

@[simp] theorem execTimingReferencePulse_mem (x0 : State) : Kept (execTimingReferencePulse x0) x0.mem := by
  simp [execTimingReferencePulse]

@[simp] theorem execHoldover_mem (x0 : State) : Kept (execHoldover x0) x0.mem := by
  unfold execHoldover
  split <;> simp

@[simp] theorem execPtcStep_mem (x0 : Nat) (x1 : State) : Kept (execPtcStep x0 x1) x1.mem := by
  unfold execPtcStep
  split <;> simp

@[simp] theorem State.portWrite_mem (x0 : State) (x1 : Nat) (x2 : Nat) (x3 : W64) :
    Kept (State.portWrite x0 x1 x2 x3) x0.mem := by
  unfold State.portWrite
  (repeat' split) <;> simp

@[simp] theorem State.queueWrite_mem (x0 : State) (x1 : Nat) (x2 : Bool) (x3 : W64) :
    Kept (State.queueWrite x0 x1 x2 x3) x0.mem := by
  unfold State.queueWrite
  (repeat' split) <;> simp

@[simp] theorem execAgeingUpdate_mem (x0 : List Nat) (x1 : List Nat) (x2 : State) : Kept (execAgeingUpdate x0 x1 x2) x2.mem := by
  unfold execAgeingUpdate
  split <;> simp

@[simp] theorem execHostPortTraining_mem (x0 : Fin 8) (x1 : Fin 8) (x2 : State) :
    Kept (execHostPortTraining x0 x1 x2) x2.mem := by
  simp [execHostPortTraining]

@[simp] theorem execKeyLoad_mem (x0 : KeyPair) (x1 : State) : Kept (execKeyLoad x0 x1) x1.mem := by
  unfold execKeyLoad
  (repeat' split) <;> simp

@[simp] theorem execKeyClear_mem (x0 : Fin 64) (x1 : State) : Kept (execKeyClear x0 x1) x1.mem := by
  unfold execKeyClear
  (repeat' split) <;> simp

@[simp] theorem execAccessTableWrite_mem (x0 : Target) (x1 : Fin 4096) (x2 : BitVec 128) (x3 : State) :
    Kept (execAccessTableWrite x0 x1 x2 x3) x3.mem := by
  unfold execAccessTableWrite
  split <;> simp

@[simp] theorem execAttestationRequest_mem (x0 : List Byte) (x1 : State) : Kept (execAttestationRequest x0 x1) x1.mem := by
  unfold execAttestationRequest
  split <;> simp

@[simp] theorem State.dropImages_mem (x0 : State) (x1 : Nat) (x2 : Nat) : (State.dropImages x0 x1 x2).mem = x0.mem := by
  simp [State.dropImages]

@[simp] theorem State.cxlRead_mem (x0 : State) (x1 : Nat) (x2 : Nat) : (State.cxlRead x0 x1 x2).mem = x0.mem := by
  simp [State.cxlRead]

@[simp] theorem execPhase_mem (x0 : BitVec 14) (x1 : State) : Kept (execPhase x0 x1) x1.mem := by
  unfold execPhase
  (repeat' split) <;> simp

@[simp] theorem execMfs_mem (d : Fin 32) (r : SysReg) (s : State) : Kept (execMfs d r s) s.mem := by
  unfold execMfs
  split <;> simp

@[simp] theorem execMts_mem (x0 : SysReg) (x1 : Fin 32) (x2 : State) : Kept (execMts x0 x1 x2) x2.mem := by
  simp [execMts]

@[simp] theorem execRdfc_mem (x0 : Fin 32) (x1 : State) : Kept (execRdfc x0 x1) x1.mem := by
  simp [execRdfc]

@[simp] theorem execHalloc_mem (x0 : Fin 256) (x1 : Fin 32) (x2 : Fin 32) (x3 : Fin 32) (x4 : State) :
    Kept (execHalloc x0 x1 x2 x3 x4) x4.mem := by
  simp [execHalloc]

@[simp] theorem execHfree_mem (x0 : Fin 256) (x1 : State) : Kept (execHfree x0 x1) x1.mem := by
  simp [execHfree]

@[simp] theorem execHinfo_mem (x0 : Fin 32) (x1 : Fin 256) (x2 : Fin 2) (x3 : State) : Kept (execHinfo x0 x1 x2 x3) x3.mem := by
  simp [execHinfo]

@[simp] theorem State.kickChan_mem (x0 : State) (x1 : Nat) (x2 : Nat) : (State.kickChan x0 x1 x2).mem = x0.mem := by
  unfold State.kickChan
  (repeat' split) <;> simp

@[simp] theorem State.kickColls_mem (s : State) (c : Nat) : (s.kickColls c).mem = s.mem := by
  unfold State.kickColls
  apply foldl_mem
  intro s x
  split <;> simp

@[simp] theorem State.kicked_mem (x0 : State) (x1 : Nat) : (State.kicked x0 x1).mem = x0.mem := by
  unfold State.kicked
  split <;> simp

@[simp] theorem State.semArrive_mem (s : State) (c e : Nat) (x : W32) : (s.semArrive c e x).mem = s.mem := by
  unfold State.semArrive
  dsimp only
  (repeat' split) <;> simp

@[simp] theorem State.micro_mem (x0 : State) (x1 : Nat) (x2 : Micro) : (State.micro x0 x1 x2).mem = x0.mem := by
  unfold State.micro
  split <;> simp

@[simp] theorem State.withFetchWord_mem (x0 : State) (x1 : Nat) (x2 : Nat) : (State.withFetchWord x0 x1 x2).mem = x0.mem := by
  simp [State.withFetchWord]

end Sys2Proof.Machine
end

