-- ==== Sys2Proof/Laws/DeviceWrites.lean ====
section
/-! SUPPORT. What writes device memory keeps its canonical form. -/

namespace Sys2Proof.Machine

open Sys2Proof

theorem foldl_wf {α : Type} (f : State → α → State) (hf : ∀ s x, Mem.wf s.mem = true → Mem.wf (f s x).mem = true) :
    ∀ (l : List α) (s : State), Mem.wf s.mem = true → Mem.wf (l.foldl f s).mem = true := by
  intro l
  induction l with
  | nil => intro s h; exact h
  | cons x r ih => intro s h; exact ih _ (hf s x h)

/-- A next state, if there is one, has its device memory in canonical form. -/
def KeptWf (o : Out) : Prop := ∀ t, o = .next t → Mem.wf t.mem = true

@[simp] theorem keptWf_next (t : State) : KeptWf (.next t) ↔ Mem.wf t.mem = true := by
  constructor
  · intro h; exact h t rfl
  · intro h u e; cases e; exact h
@[simp] theorem keptWf_fault (r : Fault) : KeptWf (.fault r) := by intro t h; cases h

theorem Kept.wf {o : Out} {s : State} (k : Kept o s.mem) (h : Mem.wf s.mem = true) : KeptWf o := by
  intro t e
  rw [k t e]
  exact h

@[simp] theorem State.memWrite_wf (s : State) (a : Nat) (bs : List Byte) (h : Mem.wf s.mem = true) :
    Mem.wf (s.memWrite a bs).mem = true := by
  unfold State.memWrite
  generalize bs.zipIdx = l
  dsimp only
  generalize hm : s.mem = m at h
  clear hm
  induction l generalizing m with
  | nil => exact h
  | cons p r ih =>
    simp only [List.foldl_cons]
    split
    · exact ih _ (Mem.write_wf _ _ _ h)
    · exact ih _ h

@[simp] theorem State.underLine_wf (s : State) (m : BitVec 512) (l : Nat) (h : Mem.wf s.mem = true) :
    Mem.wf (s.underLine m l).mem = true := by
  unfold State.underLine
  dsimp only
  split
  · split
    · exact h
    · generalize layAt _ _ = l
      exact Mem.writes_wf l s.mem h
  · exact h

@[simp] theorem State.underKey_wf (s : State) (key a n : Nat) (h : Mem.wf s.mem = true) : Mem.wf (s.underKey key a n).mem = true := by
  unfold State.underKey
  split
  · refine foldl_wf _ (fun s x h => ?_) _ _ h
    (repeat' split) <;> simp [h]
  · exact h

@[simp] theorem State.memPut_wf (s : State) (key a : Nat) (bs : List Byte) (h : Mem.wf s.mem = true) :
    Mem.wf (s.memPut key a bs).mem = true := by
  simp [State.memPut, h]

@[simp] theorem State.homeWrite_wf (s : State) (l c g key a : Nat) (bs : List Byte) (p : Bool) (h : Mem.wf s.mem = true) :
    Mem.wf (s.homeWrite l c g key a bs p).mem = true := by
  simp [State.homeWrite, h]

@[simp] theorem State.agentBytesTo_wf (s : State) (a : Nat) (key : Option Nat) (bs : List Byte) (h : Mem.wf s.mem = true) :
    Mem.wf (s.agentBytesTo a key bs).mem = true := by
  unfold State.agentBytesTo
  refine foldl_wf _ (fun s x h => ?_) _ _ (by simp [h])
  dsimp only
  split <;> simp [h]

@[simp] theorem State.agentPut_wf (s : State) (m a : Nat) (key : Option Nat) (bs : List Byte) (h : Mem.wf s.mem = true) :
    Mem.wf (s.agentPut m a key bs).1.mem = true := by
  unfold State.agentPut
  split <;> simp [h]

@[simp] theorem State.moveLines_wf (s : State) (key old new : Nat) (p : Nat → Bool) (h : Mem.wf s.mem = true) :
    Mem.wf (s.moveLines key old new p).mem = true := by
  unfold State.moveLines
  exact foldl_wf _ (fun s x h => by simp [h]) _ _ h

@[simp] theorem State.clearLines_wf (s : State) (old new : Nat) (ls : List Nat) (h : Mem.wf s.mem = true) :
    Mem.wf (s.clearLines old new ls).mem = true := by
  unfold State.clearLines
  exact foldl_wf _ (fun s x h => State.memWrite_wf _ _ _ h) _ _ h

@[simp] theorem State.rewritePte_wf (s : State) (d : Nat) (m : Migr) (h : Mem.wf s.mem = true) : Mem.wf (s.rewritePte d m).mem = true := by
  unfold State.rewritePte
  exact foldl_wf _ (fun s x h => by simp [h]) _ _ h

@[simp] theorem State.forwardPage_wf (s : State) (d i : Nat) (m : Migr) (h : Mem.wf s.mem = true) :
    Mem.wf (s.forwardPage d i m).mem = true := by
  have h1 := State.clearLines_wf s m.old m.new m.dirty h
  have h2 := State.rewritePte_wf _ d m (State.moveLines_wf _ m.key m.old m.new (fun l => m.dirty.contains l) h1)
  simpa [State.forwardPage] using h2

@[simp] theorem execMemoryAccessPerform_wf (c ch : Nat) (s : State) (h : Mem.wf s.mem = true) :
    KeptWf (execMemoryAccessPerform c ch s) := by
  unfold execMemoryAccessPerform
  dsimp only
  (repeat' split) <;> simp [h]

@[simp] theorem State.writeRecord_wf (s : State) (d i : Nat) (rec : TraceRec) (h : Mem.wf s.mem = true) :
    Mem.wf (s.writeRecord d i rec).mem = true := by
  simp [State.writeRecord, h]

theorem State.heldRow_wf {s t : State} {a n : Nat} {i : Instr} (e : s.heldRow a n i = some t) (h : Mem.wf s.mem = true) :
    Mem.wf t.mem = true := by
  rw [State.heldRow_kept e]
  exact h

/-- A state that waits where it may keeps the form. -/
theorem held_wf {o : Option State} {t : State} (ho : ∀ u, o = some u → Mem.wf u.mem = true) (ht : Mem.wf t.mem = true) :
    Mem.wf (o.getD t).mem = true := by
  cases o with
  | none => exact ht
  | some u => exact ho u rfl

@[simp] theorem execTraceRecordPerformed_wf (die : Fin 9) (s : State) (h : Mem.wf s.mem = true) :
    KeptWf (execTraceRecordPerformed die s) := by
  unfold execTraceRecordPerformed
  split
  · exact (keptWf_next _).2 (held_wf (fun u e => State.heldRow_wf e h) (State.writeRecord_wf _ _ _ _ h))
  · exact (keptWf_next s).2 h

@[simp] theorem State.perform_wf (s : State) (c : Nat) (x : AmoCmd) (key a : Nat) (h : Mem.wf s.mem = true) :
    Mem.wf (s.perform c x key a).mem = true := by
  unfold State.perform
  dsimp only
  split <;> simp [h]

@[simp] theorem execAmoExecute_wf (c id : Nat) (s : State) (h : Mem.wf s.mem = true) : KeptWf (execAmoExecute c id s) := by
  unfold execAmoExecute
  dsimp only
  (repeat' split) <;> simp [h]

@[simp] theorem State.requestNow_wf (s : State) (c va : Nat) (t : Trans) (g : Nat) (pc : W64) (retry : Instr) (h : Mem.wf s.mem = true) :
    Mem.wf (s.requestNow c va t g pc retry).1.mem = true := by
  unfold State.requestNow
  (repeat' split) <;> simp [h]

@[simp] theorem State.scRun_wf (s : State) (c : Nat) (x : AmoCmd) (h : Mem.wf s.mem = true) : Mem.wf (s.scRun c x).mem = true := by
  unfold State.scRun
  dsimp only
  (repeat' split) <;> simp [h]

@[simp] theorem execScExecute_wf (c id : Nat) (s : State) (h : Mem.wf s.mem = true) : KeptWf (execScExecute c id s) := by
  unfold execScExecute
  dsimp only
  (repeat' split) <;> simp [h]

@[simp] theorem State.collMix_mem (s : State) (f : CollFor) (since : Nat) (t : Trans) (bs : List Byte) :
    (s.collMix f since t bs).1.mem = s.mem := by
  unfold State.collMix
  dsimp only
  split <;> simp

@[simp] theorem State.collWrite_wf (f : CollFor) (since : Nat) (l : List (Nat × Nat)) :
    ∀ (s : State) (bs : List Byte) (n : Nat), Mem.wf s.mem = true → Mem.wf (s.collWrite f since l bs n).1.mem = true := by
  induction l with
  | nil => intro s bs n h; exact h
  | cons q r ih =>
    intro s bs n h
    unfold State.collWrite
    dsimp only
    split
    · simp [h]
    · exact ih _ _ _ (by simp [h])

@[simp] theorem execCollCompletion_wf (i c : Nat) (s : State) (h : Mem.wf s.mem = true) : KeptWf (execCollCompletion i c s) := by
  unfold execCollCompletion
  dsimp only
  (repeat' split) <;> first
    | (simp [h]; done)
    | (refine Kept.wf (State.atBank_mem _ _ _ _ _ _ _ _ _ _ _ (by simp) (by simp) fun t => ?_) h; simp)
    | (rw [keptWf_next, State.collHeld_kept (by assumption)]; exact h)

@[simp] theorem State.recordDone_wf (s : State) (q : Nat) (id : BitVec 16) (st : LStatus) (h : Mem.wf s.mem = true) :
    Mem.wf (s.recordDone q id st).mem = true := by
  simp [State.recordDone, h]

@[simp] theorem State.reject_wf (s : State) (l : Nat) (x : Launch) (st : LStatus) (h : Mem.wf s.mem = true) :
    Mem.wf (s.reject l x st).mem = true := by
  simp [State.reject, h]

@[simp] theorem State.tryHead_wf (s : State) (q : Nat) (h : Mem.wf s.mem = true) : Mem.wf (s.tryHead q).mem = true := by
  unfold State.tryHead
  dsimp only
  (repeat' split) <;> simp [h]

@[simp] theorem execLaunchAdmission_wf (ctx : Fin 8) (s : State) (h : Mem.wf s.mem = true) :
    KeptWf (execLaunchAdmission ctx s) := by
  unfold execLaunchAdmission
  split
  · simpa using h
  · rw [keptWf_next]
    exact foldl_wf _ (fun s x h => State.tryHead_wf s x h) _ _ h

@[simp] theorem execAdmissionComplete_wf (l : Nat) (s : State) (h : Mem.wf s.mem = true) :
    KeptWf (execAdmissionComplete l s) := by
  unfold execAdmissionComplete
  dsimp only
  (repeat' split) <;> simp [h]

@[simp] theorem execLaunchRetire_wf (l : Nat) (s : State) (h : Mem.wf s.mem = true) : KeptWf (execLaunchRetire l s) := by
  unfold execLaunchRetire
  dsimp only
  (repeat' split) <;> simp [h]

@[simp] theorem State.beginMove_wf (s : State) (d ctx : Nat) (x : MovePage) (new : Nat) (h : Mem.wf s.mem = true) :
    Mem.wf (s.beginMove d ctx x new).mem = true := by
  unfold State.beginMove
  dsimp only
  split <;> simp [h]

@[simp] theorem State.tryMove_wf (s : State) (d ctx va : Nat) (h : Mem.wf s.mem = true) : Mem.wf (s.tryMove d ctx va).mem = true := by
  unfold State.tryMove
  dsimp only
  (repeat' split) <;> simp [h]

@[simp] theorem execMigrationInterval_wf (die : Fin 9) (s : State) (h : Mem.wf s.mem = true) :
    KeptWf (execMigrationInterval die s) := by
  unfold execMigrationInterval
  dsimp only
  (repeat' split) <;> simp [h]

@[simp] theorem execMigrationForwarding_wf (die : Fin 9) (page : Nat) (s : State) (h : Mem.wf s.mem = true) :
    KeptWf (execMigrationForwarding die page s) := by
  unfold execMigrationForwarding
  (repeat' split) <;> simp [h]

@[simp] theorem State.flushTrace_wf (s : State) (d : Nat) (h : Mem.wf s.mem = true) : Mem.wf (s.flushTrace d).mem = true := by
  unfold State.flushTrace
  exact foldl_wf _ (fun s x h => State.writeRecord_wf _ _ _ _ h) _ _ h

@[simp] theorem execTraceEnable_wf (die : Fin 9) (v : W64) (s : State) (h : Mem.wf s.mem = true) :
    KeptWf (execTraceEnable die v s) := by
  unfold execTraceEnable
  dsimp only
  split <;> simp [h]

@[simp] theorem State.traceWrite_wf (s : State) (d n : Nat) (v : W64) (h : Mem.wf s.mem = true) : KeptWf (s.traceWrite d n v) := by
  unfold State.traceWrite
  (repeat' split) <;> simp [h]

@[simp] theorem State.bar0Write_wf (s : State) (off : Nat) (v : W64) (h : Mem.wf s.mem = true) : KeptWf (s.bar0Write off v) := by
  unfold State.bar0Write
  (repeat' split) <;> first | simp [h] | exact (State.portWrite_mem _ _ _ _).wf h | exact (State.queueWrite_mem _ _ _ _).wf h | exact (State.dbgctlWrite_mem _ _ _).wf h

@[simp] theorem execRegisterWrite_wf (r : MReg) (v : W64) (s : State) (h : Mem.wf s.mem = true) :
    KeptWf (execRegisterWrite r v s) := by
  unfold execRegisterWrite
  (repeat' split) <;> simp [h]

@[simp] theorem execHostDma_wf (op : HostOp) (s : State) (h : Mem.wf s.mem = true) : KeptWf (execHostDma op s) := by
  unfold execHostDma
  dsimp only
  (repeat' split) <;> first
    | (simp [h]; done)
    | (rw [keptWf_next]; exact State.heldRow_wf (by assumption) h)

@[simp] theorem State.cxlWrite_wf (s : State) (a : Nat) (bs : List Byte) (h : Mem.wf s.mem = true) :
    Mem.wf (s.cxlWrite a bs).mem = true := by
  simp [State.cxlWrite, h]

@[simp] theorem execCxlHostAccess_wf (op : CxlOp) (s : State) (h : Mem.wf s.mem = true) : KeptWf (execCxlHostAccess op s) := by
  unfold execCxlHostAccess
  dsimp only
  (repeat' split) <;> first
    | (simp [h]; done)
    | (rw [keptWf_next]; exact held_wf (fun u e => State.heldRow_wf e h) (by simp [h]))

end Sys2Proof.Machine
end

