-- ==== Sys2Proof/Laws/State.lean ====
section
/-! SUPPORT. What each update of State leaves of its fields, one lemma for each, and what a core reads as after it. The lemmas about
device memory are in Laws/DeviceMemory.lean. -/

namespace Sys2Proof.Machine

open Sys2Proof

/-! ### setCore -/

@[simp] theorem State.setCore_now (s : State) (c : Nat) (k : Core) : (s.setCore c k).now = s.now := rfl
@[simp] theorem State.setCore_freeCtr (s : State) (c : Nat) (k : Core) : (s.setCore c k).freeCtr = s.freeCtr := rfl
@[simp] theorem State.setCore_issue (s : State) (c : Nat) (k : Core) : (s.setCore c k).issue = s.issue := rfl
@[simp] theorem State.setCore_pkg (s : State) (c : Nat) (k : Core) : (s.setCore c k).pkg = s.pkg := rfl
@[simp] theorem State.setCore_ctxs (s : State) (c : Nat) (k : Core) : (s.setCore c k).ctxs = s.ctxs := rfl
@[simp] theorem State.setCore_queues (s : State) (c : Nat) (k : Core) : (s.setCore c k).queues = s.queues := rfl
@[simp] theorem State.setCore_images (s : State) (c : Nat) (k : Core) : (s.setCore c k).images = s.images := rfl
@[simp] theorem State.setCore_launches (s : State) (c : Nat) (k : Core) : (s.setCore c k).launches = s.launches := rfl
@[simp] theorem State.setCore_regions (s : State) (c : Nat) (k : Core) : (s.setCore c k).regions = s.regions := rfl
@[simp] theorem State.setCore_gangs (s : State) (c : Nat) (k : Core) : (s.setCore c k).gangs = s.gangs := rfl
@[simp] theorem State.setCore_insts (s : State) (c : Nat) (k : Core) : (s.setCore c k).insts = s.insts := rfl
@[simp] theorem State.setCore_dies (s : State) (c : Nat) (k : Core) : (s.setCore c k).dies = s.dies := rfl
@[simp] theorem State.setCore_targets (s : State) (c : Nat) (k : Core) : (s.setCore c k).targets = s.targets := rfl
@[simp] theorem State.setCore_ports (s : State) (c : Nat) (k : Core) : (s.setCore c k).ports = s.ports := rfl
@[simp] theorem State.setCore_cross (s : State) (c : Nat) (k : Core) : (s.setCore c k).cross = s.cross := rfl
@[simp] theorem State.setCore_shoots (s : State) (c : Nat) (k : Core) : (s.setCore c k).shoots = s.shoots := rfl
@[simp] theorem State.setCore_nextKey (s : State) (c : Nat) (k : Core) : (s.setCore c k).nextKey = s.nextKey := rfl
@[simp] theorem State.setCore_agenda (s : State) (c : Nat) (k : Core) : (s.setCore c k).agenda = s.agenda := rfl

/-! ### modCore -/

@[simp] theorem State.modCore_now (s : State) (c : Nat) (f : Core → Core) : (s.modCore c f).now = s.now := rfl
@[simp] theorem State.modCore_freeCtr (s : State) (c : Nat) (f : Core → Core) : (s.modCore c f).freeCtr = s.freeCtr := rfl
@[simp] theorem State.modCore_issue (s : State) (c : Nat) (f : Core → Core) : (s.modCore c f).issue = s.issue := rfl
@[simp] theorem State.modCore_pkg (s : State) (c : Nat) (f : Core → Core) : (s.modCore c f).pkg = s.pkg := rfl
@[simp] theorem State.modCore_ctxs (s : State) (c : Nat) (f : Core → Core) : (s.modCore c f).ctxs = s.ctxs := rfl
@[simp] theorem State.modCore_queues (s : State) (c : Nat) (f : Core → Core) : (s.modCore c f).queues = s.queues := rfl
@[simp] theorem State.modCore_images (s : State) (c : Nat) (f : Core → Core) : (s.modCore c f).images = s.images := rfl
@[simp] theorem State.modCore_launches (s : State) (c : Nat) (f : Core → Core) : (s.modCore c f).launches = s.launches := rfl
@[simp] theorem State.modCore_regions (s : State) (c : Nat) (f : Core → Core) : (s.modCore c f).regions = s.regions := rfl
@[simp] theorem State.modCore_gangs (s : State) (c : Nat) (f : Core → Core) : (s.modCore c f).gangs = s.gangs := rfl
@[simp] theorem State.modCore_insts (s : State) (c : Nat) (f : Core → Core) : (s.modCore c f).insts = s.insts := rfl
@[simp] theorem State.modCore_dies (s : State) (c : Nat) (f : Core → Core) : (s.modCore c f).dies = s.dies := rfl
@[simp] theorem State.modCore_targets (s : State) (c : Nat) (f : Core → Core) : (s.modCore c f).targets = s.targets := rfl
@[simp] theorem State.modCore_ports (s : State) (c : Nat) (f : Core → Core) : (s.modCore c f).ports = s.ports := rfl
@[simp] theorem State.modCore_cross (s : State) (c : Nat) (f : Core → Core) : (s.modCore c f).cross = s.cross := rfl
@[simp] theorem State.modCore_shoots (s : State) (c : Nat) (f : Core → Core) : (s.modCore c f).shoots = s.shoots := rfl
@[simp] theorem State.modCore_nextKey (s : State) (c : Nat) (f : Core → Core) : (s.modCore c f).nextKey = s.nextKey := rfl
@[simp] theorem State.modCore_agenda (s : State) (c : Nat) (f : Core → Core) : (s.modCore c f).agenda = s.agenda := rfl

/-! ### post -/

@[simp] theorem State.post_now (s : State) (t r : Nat) (a : Act) : (s.post t r a).now = s.now := rfl
@[simp] theorem State.post_freeCtr (s : State) (t r : Nat) (a : Act) : (s.post t r a).freeCtr = s.freeCtr := rfl
@[simp] theorem State.post_issue (s : State) (t r : Nat) (a : Act) : (s.post t r a).issue = s.issue := rfl
@[simp] theorem State.post_pkg (s : State) (t r : Nat) (a : Act) : (s.post t r a).pkg = s.pkg := rfl
@[simp] theorem State.post_ctxs (s : State) (t r : Nat) (a : Act) : (s.post t r a).ctxs = s.ctxs := rfl
@[simp] theorem State.post_queues (s : State) (t r : Nat) (a : Act) : (s.post t r a).queues = s.queues := rfl
@[simp] theorem State.post_images (s : State) (t r : Nat) (a : Act) : (s.post t r a).images = s.images := rfl
@[simp] theorem State.post_launches (s : State) (t r : Nat) (a : Act) : (s.post t r a).launches = s.launches := rfl
@[simp] theorem State.post_regions (s : State) (t r : Nat) (a : Act) : (s.post t r a).regions = s.regions := rfl
@[simp] theorem State.post_gangs (s : State) (t r : Nat) (a : Act) : (s.post t r a).gangs = s.gangs := rfl
@[simp] theorem State.post_insts (s : State) (t r : Nat) (a : Act) : (s.post t r a).insts = s.insts := rfl
@[simp] theorem State.post_cores (s : State) (t r : Nat) (a : Act) : (s.post t r a).cores = s.cores := rfl
@[simp] theorem State.post_dies (s : State) (t r : Nat) (a : Act) : (s.post t r a).dies = s.dies := rfl
@[simp] theorem State.post_targets (s : State) (t r : Nat) (a : Act) : (s.post t r a).targets = s.targets := rfl
@[simp] theorem State.post_ports (s : State) (t r : Nat) (a : Act) : (s.post t r a).ports = s.ports := rfl
@[simp] theorem State.post_cross (s : State) (t r : Nat) (a : Act) : (s.post t r a).cross = s.cross := rfl
@[simp] theorem State.post_shoots (s : State) (t r : Nat) (a : Act) : (s.post t r a).shoots = s.shoots := rfl
@[simp] theorem State.post_nextKey (s : State) (t r : Nat) (a : Act) : (s.post t r a).nextKey = s.nextKey := rfl

/-! ### postEv -/

@[simp] theorem State.postEv_now (s : State) (t r : Nat) (i : Instr) : (s.postEv t r i).now = s.now := rfl
@[simp] theorem State.postEv_freeCtr (s : State) (t r : Nat) (i : Instr) : (s.postEv t r i).freeCtr = s.freeCtr := rfl
@[simp] theorem State.postEv_issue (s : State) (t r : Nat) (i : Instr) : (s.postEv t r i).issue = s.issue := rfl
@[simp] theorem State.postEv_pkg (s : State) (t r : Nat) (i : Instr) : (s.postEv t r i).pkg = s.pkg := rfl
@[simp] theorem State.postEv_ctxs (s : State) (t r : Nat) (i : Instr) : (s.postEv t r i).ctxs = s.ctxs := rfl
@[simp] theorem State.postEv_queues (s : State) (t r : Nat) (i : Instr) : (s.postEv t r i).queues = s.queues := rfl
@[simp] theorem State.postEv_images (s : State) (t r : Nat) (i : Instr) : (s.postEv t r i).images = s.images := rfl
@[simp] theorem State.postEv_launches (s : State) (t r : Nat) (i : Instr) : (s.postEv t r i).launches = s.launches := rfl
@[simp] theorem State.postEv_regions (s : State) (t r : Nat) (i : Instr) : (s.postEv t r i).regions = s.regions := rfl
@[simp] theorem State.postEv_gangs (s : State) (t r : Nat) (i : Instr) : (s.postEv t r i).gangs = s.gangs := rfl
@[simp] theorem State.postEv_insts (s : State) (t r : Nat) (i : Instr) : (s.postEv t r i).insts = s.insts := rfl
@[simp] theorem State.postEv_cores (s : State) (t r : Nat) (i : Instr) : (s.postEv t r i).cores = s.cores := rfl
@[simp] theorem State.postEv_dies (s : State) (t r : Nat) (i : Instr) : (s.postEv t r i).dies = s.dies := rfl
@[simp] theorem State.postEv_targets (s : State) (t r : Nat) (i : Instr) : (s.postEv t r i).targets = s.targets := rfl
@[simp] theorem State.postEv_ports (s : State) (t r : Nat) (i : Instr) : (s.postEv t r i).ports = s.ports := rfl
@[simp] theorem State.postEv_cross (s : State) (t r : Nat) (i : Instr) : (s.postEv t r i).cross = s.cross := rfl
@[simp] theorem State.postEv_shoots (s : State) (t r : Nat) (i : Instr) : (s.postEv t r i).shoots = s.shoots := rfl
@[simp] theorem State.postEv_nextKey (s : State) (t r : Nat) (i : Instr) : (s.postEv t r i).nextKey = s.nextKey := rfl

/-! ### postMi -/

@[simp] theorem State.postMi_now (s : State) (t r : Nat) (m : Micro) : (s.postMi t r m).now = s.now := rfl
@[simp] theorem State.postMi_freeCtr (s : State) (t r : Nat) (m : Micro) : (s.postMi t r m).freeCtr = s.freeCtr := rfl
@[simp] theorem State.postMi_issue (s : State) (t r : Nat) (m : Micro) : (s.postMi t r m).issue = s.issue := rfl
@[simp] theorem State.postMi_pkg (s : State) (t r : Nat) (m : Micro) : (s.postMi t r m).pkg = s.pkg := rfl
@[simp] theorem State.postMi_ctxs (s : State) (t r : Nat) (m : Micro) : (s.postMi t r m).ctxs = s.ctxs := rfl
@[simp] theorem State.postMi_queues (s : State) (t r : Nat) (m : Micro) : (s.postMi t r m).queues = s.queues := rfl
@[simp] theorem State.postMi_images (s : State) (t r : Nat) (m : Micro) : (s.postMi t r m).images = s.images := rfl
@[simp] theorem State.postMi_launches (s : State) (t r : Nat) (m : Micro) : (s.postMi t r m).launches = s.launches := rfl
@[simp] theorem State.postMi_regions (s : State) (t r : Nat) (m : Micro) : (s.postMi t r m).regions = s.regions := rfl
@[simp] theorem State.postMi_gangs (s : State) (t r : Nat) (m : Micro) : (s.postMi t r m).gangs = s.gangs := rfl
@[simp] theorem State.postMi_insts (s : State) (t r : Nat) (m : Micro) : (s.postMi t r m).insts = s.insts := rfl
@[simp] theorem State.postMi_cores (s : State) (t r : Nat) (m : Micro) : (s.postMi t r m).cores = s.cores := rfl
@[simp] theorem State.postMi_dies (s : State) (t r : Nat) (m : Micro) : (s.postMi t r m).dies = s.dies := rfl
@[simp] theorem State.postMi_targets (s : State) (t r : Nat) (m : Micro) : (s.postMi t r m).targets = s.targets := rfl
@[simp] theorem State.postMi_ports (s : State) (t r : Nat) (m : Micro) : (s.postMi t r m).ports = s.ports := rfl
@[simp] theorem State.postMi_cross (s : State) (t r : Nat) (m : Micro) : (s.postMi t r m).cross = s.cross := rfl
@[simp] theorem State.postMi_shoots (s : State) (t r : Nat) (m : Micro) : (s.postMi t r m).shoots = s.shoots := rfl
@[simp] theorem State.postMi_nextKey (s : State) (t r : Nat) (m : Micro) : (s.postMi t r m).nextKey = s.nextKey := rfl

/-! ### drawn -/

@[simp] theorem State.drawn_now (s : State) : (s.drawn).now = s.now := rfl
@[simp] theorem State.drawn_issue (s : State) : (s.drawn).issue = s.issue := rfl
@[simp] theorem State.drawn_pkg (s : State) : (s.drawn).pkg = s.pkg := rfl
@[simp] theorem State.drawn_ctxs (s : State) : (s.drawn).ctxs = s.ctxs := rfl
@[simp] theorem State.drawn_queues (s : State) : (s.drawn).queues = s.queues := rfl
@[simp] theorem State.drawn_images (s : State) : (s.drawn).images = s.images := rfl
@[simp] theorem State.drawn_launches (s : State) : (s.drawn).launches = s.launches := rfl
@[simp] theorem State.drawn_regions (s : State) : (s.drawn).regions = s.regions := rfl
@[simp] theorem State.drawn_gangs (s : State) : (s.drawn).gangs = s.gangs := rfl
@[simp] theorem State.drawn_insts (s : State) : (s.drawn).insts = s.insts := rfl
@[simp] theorem State.drawn_cores (s : State) : (s.drawn).cores = s.cores := rfl
@[simp] theorem State.drawn_dies (s : State) : (s.drawn).dies = s.dies := rfl
@[simp] theorem State.drawn_targets (s : State) : (s.drawn).targets = s.targets := rfl
@[simp] theorem State.drawn_ports (s : State) : (s.drawn).ports = s.ports := rfl
@[simp] theorem State.drawn_cross (s : State) : (s.drawn).cross = s.cross := rfl
@[simp] theorem State.drawn_shoots (s : State) : (s.drawn).shoots = s.shoots := rfl
@[simp] theorem State.drawn_nextKey (s : State) : (s.drawn).nextKey = s.nextKey := rfl
@[simp] theorem State.drawn_agenda (s : State) : (s.drawn).agenda = s.agenda := rfl

/-! ### pend -/

@[simp] theorem State.pend_now (s : State) (c l : Nat) (d : PDest) (v : PVal) : (s.pend c l d v).now = s.now := rfl
@[simp] theorem State.pend_freeCtr (s : State) (c l : Nat) (d : PDest) (v : PVal) : (s.pend c l d v).freeCtr = s.freeCtr := rfl
@[simp] theorem State.pend_issue (s : State) (c l : Nat) (d : PDest) (v : PVal) : (s.pend c l d v).issue = s.issue := rfl
@[simp] theorem State.pend_pkg (s : State) (c l : Nat) (d : PDest) (v : PVal) : (s.pend c l d v).pkg = s.pkg := rfl
@[simp] theorem State.pend_ctxs (s : State) (c l : Nat) (d : PDest) (v : PVal) : (s.pend c l d v).ctxs = s.ctxs := rfl
@[simp] theorem State.pend_queues (s : State) (c l : Nat) (d : PDest) (v : PVal) : (s.pend c l d v).queues = s.queues := rfl
@[simp] theorem State.pend_images (s : State) (c l : Nat) (d : PDest) (v : PVal) : (s.pend c l d v).images = s.images := rfl
@[simp] theorem State.pend_launches (s : State) (c l : Nat) (d : PDest) (v : PVal) : (s.pend c l d v).launches = s.launches := rfl
@[simp] theorem State.pend_regions (s : State) (c l : Nat) (d : PDest) (v : PVal) : (s.pend c l d v).regions = s.regions := rfl
@[simp] theorem State.pend_gangs (s : State) (c l : Nat) (d : PDest) (v : PVal) : (s.pend c l d v).gangs = s.gangs := rfl
@[simp] theorem State.pend_insts (s : State) (c l : Nat) (d : PDest) (v : PVal) : (s.pend c l d v).insts = s.insts := rfl
@[simp] theorem State.pend_dies (s : State) (c l : Nat) (d : PDest) (v : PVal) : (s.pend c l d v).dies = s.dies := rfl
@[simp] theorem State.pend_targets (s : State) (c l : Nat) (d : PDest) (v : PVal) : (s.pend c l d v).targets = s.targets := rfl
@[simp] theorem State.pend_ports (s : State) (c l : Nat) (d : PDest) (v : PVal) : (s.pend c l d v).ports = s.ports := rfl
@[simp] theorem State.pend_cross (s : State) (c l : Nat) (d : PDest) (v : PVal) : (s.pend c l d v).cross = s.cross := rfl
@[simp] theorem State.pend_shoots (s : State) (c l : Nat) (d : PDest) (v : PVal) : (s.pend c l d v).shoots = s.shoots := rfl
@[simp] theorem State.pend_nextKey (s : State) (c l : Nat) (d : PDest) (v : PVal) : (s.pend c l d v).nextKey = s.nextKey := rfl

/-! ### dropIssue -/

@[simp] theorem State.dropIssue_now (s : State) : (s.dropIssue).now = s.now := rfl
@[simp] theorem State.dropIssue_freeCtr (s : State) : (s.dropIssue).freeCtr = s.freeCtr := rfl
@[simp] theorem State.dropIssue_pkg (s : State) : (s.dropIssue).pkg = s.pkg := rfl
@[simp] theorem State.dropIssue_ctxs (s : State) : (s.dropIssue).ctxs = s.ctxs := rfl
@[simp] theorem State.dropIssue_queues (s : State) : (s.dropIssue).queues = s.queues := rfl
@[simp] theorem State.dropIssue_images (s : State) : (s.dropIssue).images = s.images := rfl
@[simp] theorem State.dropIssue_launches (s : State) : (s.dropIssue).launches = s.launches := rfl
@[simp] theorem State.dropIssue_regions (s : State) : (s.dropIssue).regions = s.regions := rfl
@[simp] theorem State.dropIssue_gangs (s : State) : (s.dropIssue).gangs = s.gangs := rfl
@[simp] theorem State.dropIssue_insts (s : State) : (s.dropIssue).insts = s.insts := rfl
@[simp] theorem State.dropIssue_cores (s : State) : (s.dropIssue).cores = s.cores := rfl
@[simp] theorem State.dropIssue_dies (s : State) : (s.dropIssue).dies = s.dies := rfl
@[simp] theorem State.dropIssue_targets (s : State) : (s.dropIssue).targets = s.targets := rfl
@[simp] theorem State.dropIssue_ports (s : State) : (s.dropIssue).ports = s.ports := rfl
@[simp] theorem State.dropIssue_cross (s : State) : (s.dropIssue).cross = s.cross := rfl
@[simp] theorem State.dropIssue_shoots (s : State) : (s.dropIssue).shoots = s.shoots := rfl
@[simp] theorem State.dropIssue_nextKey (s : State) : (s.dropIssue).nextKey = s.nextKey := rfl
@[simp] theorem State.dropIssue_agenda (s : State) : (s.dropIssue).agenda = s.agenda := rfl

/-! ### transfer -/

@[simp] theorem State.transfer_now (s : State) (t : W64) : (s.transfer t).now = s.now := rfl
@[simp] theorem State.transfer_freeCtr (s : State) (t : W64) : (s.transfer t).freeCtr = s.freeCtr := rfl
@[simp] theorem State.transfer_pkg (s : State) (t : W64) : (s.transfer t).pkg = s.pkg := rfl
@[simp] theorem State.transfer_ctxs (s : State) (t : W64) : (s.transfer t).ctxs = s.ctxs := rfl
@[simp] theorem State.transfer_queues (s : State) (t : W64) : (s.transfer t).queues = s.queues := rfl
@[simp] theorem State.transfer_images (s : State) (t : W64) : (s.transfer t).images = s.images := rfl
@[simp] theorem State.transfer_launches (s : State) (t : W64) : (s.transfer t).launches = s.launches := rfl
@[simp] theorem State.transfer_regions (s : State) (t : W64) : (s.transfer t).regions = s.regions := rfl
@[simp] theorem State.transfer_gangs (s : State) (t : W64) : (s.transfer t).gangs = s.gangs := rfl
@[simp] theorem State.transfer_insts (s : State) (t : W64) : (s.transfer t).insts = s.insts := rfl
@[simp] theorem State.transfer_dies (s : State) (t : W64) : (s.transfer t).dies = s.dies := rfl
@[simp] theorem State.transfer_targets (s : State) (t : W64) : (s.transfer t).targets = s.targets := rfl
@[simp] theorem State.transfer_ports (s : State) (t : W64) : (s.transfer t).ports = s.ports := rfl
@[simp] theorem State.transfer_cross (s : State) (t : W64) : (s.transfer t).cross = s.cross := rfl
@[simp] theorem State.transfer_shoots (s : State) (t : W64) : (s.transfer t).shoots = s.shoots := rfl
@[simp] theorem State.transfer_nextKey (s : State) (t : W64) : (s.transfer t).nextKey = s.nextKey := rfl
@[simp] theorem State.transfer_agenda (s : State) (t : W64) : (s.transfer t).agenda = s.agenda := rfl

/-! ### tileOp -/

@[simp] theorem State.tileOp_now (s : State) (c l : Nat) (a : TAct) : (s.tileOp c l a).now = s.now := rfl
@[simp] theorem State.tileOp_freeCtr (s : State) (c l : Nat) (a : TAct) : (s.tileOp c l a).freeCtr = s.freeCtr := rfl
@[simp] theorem State.tileOp_issue (s : State) (c l : Nat) (a : TAct) : (s.tileOp c l a).issue = s.issue := rfl
@[simp] theorem State.tileOp_pkg (s : State) (c l : Nat) (a : TAct) : (s.tileOp c l a).pkg = s.pkg := rfl
@[simp] theorem State.tileOp_ctxs (s : State) (c l : Nat) (a : TAct) : (s.tileOp c l a).ctxs = s.ctxs := rfl
@[simp] theorem State.tileOp_queues (s : State) (c l : Nat) (a : TAct) : (s.tileOp c l a).queues = s.queues := rfl
@[simp] theorem State.tileOp_images (s : State) (c l : Nat) (a : TAct) : (s.tileOp c l a).images = s.images := rfl
@[simp] theorem State.tileOp_launches (s : State) (c l : Nat) (a : TAct) : (s.tileOp c l a).launches = s.launches := rfl
@[simp] theorem State.tileOp_regions (s : State) (c l : Nat) (a : TAct) : (s.tileOp c l a).regions = s.regions := rfl
@[simp] theorem State.tileOp_gangs (s : State) (c l : Nat) (a : TAct) : (s.tileOp c l a).gangs = s.gangs := rfl
@[simp] theorem State.tileOp_insts (s : State) (c l : Nat) (a : TAct) : (s.tileOp c l a).insts = s.insts := rfl
@[simp] theorem State.tileOp_dies (s : State) (c l : Nat) (a : TAct) : (s.tileOp c l a).dies = s.dies := rfl
@[simp] theorem State.tileOp_targets (s : State) (c l : Nat) (a : TAct) : (s.tileOp c l a).targets = s.targets := rfl
@[simp] theorem State.tileOp_ports (s : State) (c l : Nat) (a : TAct) : (s.tileOp c l a).ports = s.ports := rfl
@[simp] theorem State.tileOp_cross (s : State) (c l : Nat) (a : TAct) : (s.tileOp c l a).cross = s.cross := rfl
@[simp] theorem State.tileOp_shoots (s : State) (c l : Nat) (a : TAct) : (s.tileOp c l a).shoots = s.shoots := rfl
@[simp] theorem State.tileOp_nextKey (s : State) (c l : Nat) (a : TAct) : (s.tileOp c l a).nextKey = s.nextKey := rfl

/-! ### claim -/

@[simp] theorem State.claim_now (s : State) (c : Nat) (us : List BankUse) : (s.claim c us).now = s.now := rfl
@[simp] theorem State.claim_freeCtr (s : State) (c : Nat) (us : List BankUse) : (s.claim c us).freeCtr = s.freeCtr := rfl
@[simp] theorem State.claim_issue (s : State) (c : Nat) (us : List BankUse) : (s.claim c us).issue = s.issue := rfl
@[simp] theorem State.claim_pkg (s : State) (c : Nat) (us : List BankUse) : (s.claim c us).pkg = s.pkg := rfl
@[simp] theorem State.claim_ctxs (s : State) (c : Nat) (us : List BankUse) : (s.claim c us).ctxs = s.ctxs := rfl
@[simp] theorem State.claim_queues (s : State) (c : Nat) (us : List BankUse) : (s.claim c us).queues = s.queues := rfl
@[simp] theorem State.claim_images (s : State) (c : Nat) (us : List BankUse) : (s.claim c us).images = s.images := rfl
@[simp] theorem State.claim_launches (s : State) (c : Nat) (us : List BankUse) : (s.claim c us).launches = s.launches := rfl
@[simp] theorem State.claim_regions (s : State) (c : Nat) (us : List BankUse) : (s.claim c us).regions = s.regions := rfl
@[simp] theorem State.claim_gangs (s : State) (c : Nat) (us : List BankUse) : (s.claim c us).gangs = s.gangs := rfl
@[simp] theorem State.claim_insts (s : State) (c : Nat) (us : List BankUse) : (s.claim c us).insts = s.insts := rfl
@[simp] theorem State.claim_dies (s : State) (c : Nat) (us : List BankUse) : (s.claim c us).dies = s.dies := rfl
@[simp] theorem State.claim_targets (s : State) (c : Nat) (us : List BankUse) : (s.claim c us).targets = s.targets := rfl
@[simp] theorem State.claim_ports (s : State) (c : Nat) (us : List BankUse) : (s.claim c us).ports = s.ports := rfl
@[simp] theorem State.claim_cross (s : State) (c : Nat) (us : List BankUse) : (s.claim c us).cross = s.cross := rfl
@[simp] theorem State.claim_shoots (s : State) (c : Nat) (us : List BankUse) : (s.claim c us).shoots = s.shoots := rfl
@[simp] theorem State.claim_nextKey (s : State) (c : Nat) (us : List BankUse) : (s.claim c us).nextKey = s.nextKey := rfl
@[simp] theorem State.claim_agenda (s : State) (c : Nat) (us : List BankUse) : (s.claim c us).agenda = s.agenda := rfl

/-! ### vTake -/

@[simp] theorem State.vTake_now (s : State) (n p : Nat) (b : Bool) : (s.vTake n p b).now = s.now := rfl
@[simp] theorem State.vTake_freeCtr (s : State) (n p : Nat) (b : Bool) : (s.vTake n p b).freeCtr = s.freeCtr := rfl
@[simp] theorem State.vTake_issue (s : State) (n p : Nat) (b : Bool) : (s.vTake n p b).issue = s.issue := rfl
@[simp] theorem State.vTake_pkg (s : State) (n p : Nat) (b : Bool) : (s.vTake n p b).pkg = s.pkg := rfl
@[simp] theorem State.vTake_ctxs (s : State) (n p : Nat) (b : Bool) : (s.vTake n p b).ctxs = s.ctxs := rfl
@[simp] theorem State.vTake_queues (s : State) (n p : Nat) (b : Bool) : (s.vTake n p b).queues = s.queues := rfl
@[simp] theorem State.vTake_images (s : State) (n p : Nat) (b : Bool) : (s.vTake n p b).images = s.images := rfl
@[simp] theorem State.vTake_launches (s : State) (n p : Nat) (b : Bool) : (s.vTake n p b).launches = s.launches := rfl
@[simp] theorem State.vTake_regions (s : State) (n p : Nat) (b : Bool) : (s.vTake n p b).regions = s.regions := rfl
@[simp] theorem State.vTake_gangs (s : State) (n p : Nat) (b : Bool) : (s.vTake n p b).gangs = s.gangs := rfl
@[simp] theorem State.vTake_insts (s : State) (n p : Nat) (b : Bool) : (s.vTake n p b).insts = s.insts := rfl
@[simp] theorem State.vTake_dies (s : State) (n p : Nat) (b : Bool) : (s.vTake n p b).dies = s.dies := rfl
@[simp] theorem State.vTake_targets (s : State) (n p : Nat) (b : Bool) : (s.vTake n p b).targets = s.targets := rfl
@[simp] theorem State.vTake_ports (s : State) (n p : Nat) (b : Bool) : (s.vTake n p b).ports = s.ports := rfl
@[simp] theorem State.vTake_cross (s : State) (n p : Nat) (b : Bool) : (s.vTake n p b).cross = s.cross := rfl
@[simp] theorem State.vTake_shoots (s : State) (n p : Nat) (b : Bool) : (s.vTake n p b).shoots = s.shoots := rfl
@[simp] theorem State.vTake_nextKey (s : State) (n p : Nat) (b : Bool) : (s.vTake n p b).nextKey = s.nextKey := rfl
@[simp] theorem State.vTake_agenda (s : State) (n p : Nat) (b : Bool) : (s.vTake n p b).agenda = s.agenda := rfl

/-! ### divTake -/

@[simp] theorem State.divTake_now (s : State) : (s.divTake).now = s.now := rfl
@[simp] theorem State.divTake_freeCtr (s : State) : (s.divTake).freeCtr = s.freeCtr := rfl
@[simp] theorem State.divTake_issue (s : State) : (s.divTake).issue = s.issue := rfl
@[simp] theorem State.divTake_pkg (s : State) : (s.divTake).pkg = s.pkg := rfl
@[simp] theorem State.divTake_ctxs (s : State) : (s.divTake).ctxs = s.ctxs := rfl
@[simp] theorem State.divTake_queues (s : State) : (s.divTake).queues = s.queues := rfl
@[simp] theorem State.divTake_images (s : State) : (s.divTake).images = s.images := rfl
@[simp] theorem State.divTake_launches (s : State) : (s.divTake).launches = s.launches := rfl
@[simp] theorem State.divTake_regions (s : State) : (s.divTake).regions = s.regions := rfl
@[simp] theorem State.divTake_gangs (s : State) : (s.divTake).gangs = s.gangs := rfl
@[simp] theorem State.divTake_insts (s : State) : (s.divTake).insts = s.insts := rfl
@[simp] theorem State.divTake_dies (s : State) : (s.divTake).dies = s.dies := rfl
@[simp] theorem State.divTake_targets (s : State) : (s.divTake).targets = s.targets := rfl
@[simp] theorem State.divTake_ports (s : State) : (s.divTake).ports = s.ports := rfl
@[simp] theorem State.divTake_cross (s : State) : (s.divTake).cross = s.cross := rfl
@[simp] theorem State.divTake_shoots (s : State) : (s.divTake).shoots = s.shoots := rfl
@[simp] theorem State.divTake_nextKey (s : State) : (s.divTake).nextKey = s.nextKey := rfl
@[simp] theorem State.divTake_agenda (s : State) : (s.divTake).agenda = s.agenda := rfl

/-! ### Cores -/

/-- A core as it was last set. -/
theorem State.core_setCore (s : State) (c d : Nat) (k : Core) : (s.setCore c k).core d = if d = c then k else s.core d := by
  simp only [State.core, State.setCore, AMap.get?_put]
  split <;> rfl

@[simp] theorem State.core_setCore_self (s : State) (c : Nat) (k : Core) : (s.setCore c k).core c = k := by
  simp [State.core_setCore]

theorem State.core_modCore (s : State) (c d : Nat) (f : Core → Core) :
    (s.modCore c f).core d = if d = c then f (s.core c) else s.core d := by
  simp [State.modCore, State.core_setCore]

@[simp] theorem State.core_modCore_self (s : State) (c : Nat) (f : Core → Core) : (s.modCore c f).core c = f (s.core c) := by
  simp [State.core_modCore]

@[simp] theorem State.core_post (s : State) (t r d : Nat) (a : Act) : (s.post t r a).core d = s.core d := rfl
@[simp] theorem State.core_postEv (s : State) (t r d : Nat) (i : Instr) : (s.postEv t r i).core d = s.core d := rfl
@[simp] theorem State.core_postMi (s : State) (t r d : Nat) (m : Micro) : (s.postMi t r m).core d = s.core d := rfl
@[simp] theorem State.core_drawn (s : State) (d : Nat) : s.drawn.core d = s.core d := rfl
@[simp] theorem State.core_dropIssue (s : State) (d : Nat) : s.dropIssue.core d = s.core d := rfl

/-! ### The agenda -/

/-- Putting an entry into the agenda keeps the others. -/
theorem mem_insertDue (d e : Due) (l : List Due) : e ∈ insertDue d l ↔ e = d ∨ e ∈ l := by
  induction l with
  | nil => simp [insertDue]
  | cons x r ih =>
    simp only [insertDue]
    split
    · simp
    · simp only [List.mem_cons, ih]
      tauto

/-- What is due after a posting: what was due, and what is posted, not before now. -/
theorem State.mem_post (s : State) (t r : Nat) (a : Act) (e : Due) :
    e ∈ (s.post t r a).agenda ↔ e = ⟨Nat.max s.now t, r, a⟩ ∨ e ∈ s.agenda := by
  have h : (if t < s.now then s.now else t) = Nat.max s.now t := by
    simp only [Nat.max_def]
    split <;> split <;> omega
  simp only [State.post, mem_insertDue, h]

/-! ### Time -/

/-- The cycle of a core is that of another state with the same regions, time and region of the core. -/
theorem State.cyc_congr {s t : State} {c : Nat} (hn : t.now = s.now) (hr : t.regions = s.regions)
    (hc : (t.core c).seq.region = (s.core c).seq.region) : t.cyc c = s.cyc c := by
  simp only [State.cyc, State.lockedRegion, hn, hr, hc]

/-- The same for the instant at which a cycle begins. -/
theorem State.inst_congr {s t : State} {c : Nat} (r : Nat) (hr : t.regions = s.regions)
    (hc : (t.core c).seq.region = (s.core c).seq.region) : t.inst c r = s.inst c r := by
  simp only [State.inst, State.lockedRegion, hr, hc]

end Sys2Proof.Machine
end

