-- ==== Sys2Proof/Laws/Flight.lean ====
section
/-! SUPPORT. What the shared operations of the slots add to what is in flight, said once for each and composed: a meaning built of them
adds what its parts add. -/

namespace Sys2Proof.Safety

open Sys2Proof Sys2Proof.Machine

/-! ### Leaving alone -/

theorem OnlyCore.refl (s : State) (c : Nat) : OnlyCore s s c :=
  ⟨rfl, rfl, rfl, rfl, rfl, rfl, rfl, rfl, rfl, rfl, rfl, rfl, rfl, rfl, rfl, rfl, rfl, rfl, fun _ _ => rfl, fun _ h => h⟩

theorem OnlyCore.trans {s t u : State} {c : Nat} (h : OnlyCore s t c) (g : OnlyCore t u c) : OnlyCore s u c :=
  ⟨g.now.trans h.now, g.freeCtr.trans h.freeCtr, g.issue.trans h.issue, g.pkg.trans h.pkg, g.ctxs.trans h.ctxs,
   g.queues.trans h.queues, g.images.trans h.images, g.launches.trans h.launches, g.regions.trans h.regions,
   g.gangs.trans h.gangs, g.insts.trans h.insts, g.dies.trans h.dies, g.targets.trans h.targets, g.ports.trans h.ports,
   g.cross.trans h.cross, g.shoots.trans h.shoots, g.mem.trans h.mem, g.nextKey.trans h.nextKey,
   fun d hd => (g.others d hd).trans (h.others d hd), fun e he => g.due e (h.due e he)⟩

theorem OnlyFlight.refl (s : State) (c : Nat) : OnlyFlight s s c := ⟨OnlyCore.refl s c, rfl⟩

theorem OnlyFlight.trans {s t u : State} {c : Nat} (h : OnlyFlight s t c) (g : OnlyFlight t u c) : OnlyFlight s u c := by
  refine ⟨h.apart.trans g.apart, ?_⟩
  rw [g.kept, h.kept]

/-- A core replaced touches that core alone. -/
theorem OnlyCore.setCore (s : State) (c : Nat) (k : Core) : OnlyCore s (s.setCore c k) c :=
  ⟨rfl, rfl, rfl, rfl, rfl, rfl, rfl, rfl, rfl, rfl, rfl, rfl, rfl, rfl, rfl, rfl, rfl, rfl,
   fun d hd => by simp [State.core_setCore, hd], fun _ h => h⟩

theorem OnlyCore.modCore (s : State) (c : Nat) (f : Core → Core) : OnlyCore s (s.modCore c f) c := OnlyCore.setCore s c _

/-- A posting touches the agenda alone. -/
theorem OnlyCore.post (s : State) (c t r : Nat) (a : Act) : OnlyCore s (s.post t r a) c :=
  ⟨rfl, rfl, rfl, rfl, rfl, rfl, rfl, rfl, rfl, rfl, rfl, rfl, rfl, rfl, rfl, rfl, rfl, rfl, fun _ _ => rfl,
   fun e h => (State.mem_post s t r a e).2 (.inr h)⟩

/-! ### Adding -/

theorem Adds.refl (s : State) : Adds s s [] [] :=
  ⟨OnlyFlight.refl s _, rfl, rfl, by simp [State.ik, State.ic], rfl, rfl, rfl, by simp⟩

/-- After an addition the core, its cycle and what an instruction writes by are the same. -/
theorem Adds.ic {s t : State} {ps ops} (h : Adds s t ps ops) : t.ic = s.ic := by
  simp [State.ic, h.only.apart.issue]

theorem Adds.region {s t : State} {ps ops} (h : Adds s t ps ops) : (t.core s.ic).seq.region = (s.core s.ic).seq.region := by
  rw [h.only.kept]

theorem Adds.cyc {s t : State} {ps ops} (h : Adds s t ps ops) : t.cyc s.ic = s.cyc s.ic :=
  State.cyc_congr h.only.apart.now h.only.apart.regions h.region

theorem Adds.inst {s t : State} {ps ops} (h : Adds s t ps ops) (r : Nat) : t.inst s.ic r = s.inst s.ic r :=
  State.inst_congr r h.only.apart.regions h.region

theorem Adds.writes {s t : State} {ps ops} (h : Adds s t ps ops) (l : Nat) (d : PDest) (v : PVal) :
    writes t l d v = writes s l d v := by
  have hq : t.ik.fl.seq = s.ik.fl.seq := by
    have := h.seq
    simpa [State.ik, State.ic, h.only.apart.issue] using this
  simp only [Safety.writes, h.ic, h.cyc, hq, h.only.apart.issue]

theorem Adds.landsAt {s t : State} {ps ops} (h : Adds s t ps ops) (r : Nat) : landsAt t r = landsAt s r := by
  simp only [Safety.landsAt, h.ic, h.inst, h.only.apart.now]

/-- Additions compose. -/
theorem Adds.trans {s t u : State} {ps qs ops os} (h : Adds s t ps ops) (g : Adds t u qs os) :
    Adds s u (ps ++ qs) (ops ++ os) := by
  have hi := h.ic
  have hk : t.ik = t.core s.ic := by simp [State.ik, State.ic, h.only.apart.issue]
  have g1 := g.only
  have g2 := g.regs
  have gt := g.tags
  have g3 := g.ops
  have g4 := g.frozen
  have g5 := g.stopped
  have g6 := g.seq
  rw [hi] at g1 g2 gt g3 g4 g5 g6
  rw [hk] at g2 gt g3 g4 g5 g6
  refine ⟨h.only.trans g1, ?_, ?_, ?_, g4.trans h.frozen, g5.trans h.stopped, g6.trans h.seq, ?_⟩
  · rw [g2, h.regs, List.foldl_append]
  · rw [gt, h.tags, List.foldl_append]
  · rw [g3, h.ops, List.append_assoc]
  · intro p hp
    rcases List.mem_append.1 hp with hp | hp
    · exact g1.apart.due _ (h.lands p hp)
    · rw [← h.landsAt]
      exact g.lands p hp

/-- A core changed in its units, its claims and its Tilth table adds nothing. -/
theorem Adds.modCore (s : State) (f : Core → Core)
    (hf : f s.ik = { s.ik with
      fl := { s.ik.fl with units := (f s.ik).fl.units, claims := (f s.ik).fl.claims }
      ct := { s.ik.ct with tilth := (f s.ik).ct.tilth } }) : Adds s (s.modCore s.ic f) [] [] := by
  have hk : (s.modCore s.ic f).core s.ic = f s.ik := by simp [State.ik, State.ic]
  refine ⟨⟨OnlyCore.modCore s _ f, ?_⟩, ?_, ?_, ?_, ?_, ?_, ?_, by simp⟩ <;> rw [hk, hf] <;> simp [State.ik, State.ic]

theorem Adds.sWrites {s t : State} {ps ops} (h : Adds s t ps ops) (d : Fin 32) (l : Nat) (x : W64) :
    sWrites t d l x = sWrites s d l x := by
  have hk : t.ik.sDest d = s.ik.sDest d := by
    have : t.ik = t.core s.ic := by simp [State.ik, State.ic, h.only.apart.issue]
    rw [this, h.only.kept]
    rfl
  simp only [Safety.sWrites, h.writes, hk]

theorem Adds.flagWrites {s t : State} {ps ops} (h : Adds s t ps ops) (l : Nat) (f : Flags) :
    flagWrites t l f = flagWrites s l f := by
  simp only [Safety.flagWrites, h.writes]

theorem Issues.next {s t : State} {ps ops} (h : Adds s t ps ops) : Issues s (.next t) ps ops := ⟨t, rfl, h⟩

end Sys2Proof.Safety

namespace Sys2Proof.Machine

open Sys2Proof Sys2Proof.Safety

/-- A pending write adds itself. -/
theorem State.pend_adds (s : State) (l : Nat) (d : PDest) (v : PVal) : Adds s (s.pend s.ic l d v) [writes s l d v] [] := by
  have hk : (s.pend s.ic l d v).core s.ic =
      { s.ik with fl := { s.ik.fl with
        regs := insertPW (writes s l d v) s.ik.fl.regs, vtags := noteTag s.ik.fl.vtags d v } } := by
    simp [State.pend, State.ik, State.ic, Safety.writes]
  refine ⟨⟨(OnlyCore.setCore s _ _).trans (OnlyCore.post _ _ _ _ _), ?_⟩, ?_, ?_, ?_, ?_, ?_, ?_, ?_⟩
  · rw [hk]; rfl
  · rw [hk]; rfl
  · rw [hk]; rfl
  · rw [hk]; simp
  · rw [hk]
  · rw [hk]
  · rw [hk]
  · intro p hp
    rw [List.mem_singleton.1 hp]
    simp only [State.pend, State.postEv, State.mem_post]
    refine .inl ?_
    rfl

/-- An access to the tile store adds itself. -/
theorem State.tileOp_adds (s : State) (l : Nat) (a : TAct) :
    Adds s (s.tileOp s.ic l a) [] [⟨s.cyc s.ic + l, s.ik.fl.seq, s.issue.cur.kind, s.issue.cur.bundle, a⟩] := by
  refine ⟨⟨(OnlyCore.setCore s _ _).trans (OnlyCore.post _ _ _ _ _), ?_⟩, ?_, ?_, ?_, ?_, ?_, ?_, by simp⟩ <;>
    simp [State.tileOp, State.ik, State.ic]

theorem State.claim_adds (s : State) (us : List BankUse) : Adds s (s.claim s.ic us) [] [] := Adds.modCore s _ rfl

theorem State.vTake_adds (s : State) (n p : Nat) (b : Bool) : Adds s (s.vTake n p b) [] [] := by
  unfold State.vTake
  apply Adds.modCore
  simp only [Core.busy, Core.tilth]
  split <;> rfl

theorem State.divTake_adds (s : State) : Adds s s.divTake [] [] := Adds.modCore s _ rfl

/-- A write of an s register adds its pending write, or nothing for s0. -/
theorem State.wrS_adds (s : State) (d : Fin 32) (l : Nat) (x : W64) : Adds s (s.wrS d l x) (sWrites s d l x) [] := by
  unfold State.wrS sWrites
  by_cases h : d = 0
  · subst h
    exact Adds.refl s
  · have : ¬ d.val = 0 := fun e => h (Fin.ext e)
    simp only [h, this, if_false]
    exact State.pend_adds s l _ _

theorem State.wrFlags_adds (s : State) (l : Nat) (f : Flags) : Adds s (s.wrFlags l f) (flagWrites s l f) [] := by
  unfold State.wrFlags flagWrites
  split
  · exact Adds.refl s
  · exact State.pend_adds s l _ _

/-- A scalar result with its flags adds both. -/
theorem State.wrSF_adds (s : State) (d : Fin 32) (l : Nat) (r : W64 × Flags) :
    Adds s (s.wrSF d l r) (sWrites s d l r.1 ++ flagWrites s l r.2) [] := by
  have h := State.wrS_adds s d l r.1
  have g := State.wrFlags_adds (s.wrS d l r.1) l r.2
  rw [h.flagWrites] at g
  exact h.trans g

/-- Sources latched add the writes of the latches. -/
theorem State.latch_adds (s : State) (h : Hold) (a : VReg) (b : Option VReg) :
    Adds s (s.latch h a b) (latchWrites s h a b) [] := by
  unfold State.latch latchWrites
  by_cases hh : h = .latch
  · simp only [hh, if_true]
    have g := State.pend_adds s 1 (.la s.vslot) (.vr a (BitVec.allOnes 1024))
    cases b with
    | none => exact g
    | some b =>
      have g2 := State.pend_adds (s.pend s.ic 1 (.la s.vslot) (.vr a (BitVec.allOnes 1024))) 1 (.lb s.vslot)
        (.vr b (BitVec.allOnes 1024))
      rw [g.writes, g.ic] at g2
      exact g.trans g2
  · simp only [hh, if_false]
    exact Adds.refl s

/-- A write of a mask register adds its pending write, or nothing for k0. -/
theorem State.wrK_adds (s : State) (kd : Fin 8) (l : Nat) (x m : Mask) :
    Adds s (s.wrK kd l x m) (if kd = 0 then [] else [writes s l (.k kd.val) (.mask x m)]) [] := by
  unfold State.wrK
  by_cases h : kd = 0
  · subst h
    exact Adds.refl s
  · have : ¬ kd.val = 0 := fun e => h (Fin.ext e)
    simp only [h, this, if_false]
    exact State.pend_adds s l _ _

/-! ### Outcomes -/

/-- An instruction whose checks pass has its effect. -/
theorem State.checked_pass (s t : State) (c : Check) (h : c = none) : s.checked c t = .next t := by
  subst h; rfl

/-- An instruction of which a check fails raises it. -/
theorem State.checked_fail (s t : State) (c : Check) (code : Nat) (f : W64) (h : c = some (code, f)) :
    Raises s (s.checked c t) code f := by
  subst h; rfl

/-- No check of a list fails when each passes. -/
theorem firstFail_none (l : List Check) : firstFail l = none ↔ ∀ c ∈ l, c = none := by
  induction l with
  | nil => simp [firstFail]
  | cons c r ih =>
    cases c <;> simp [firstFail, ih]

@[simp] theorem failIf_none (b : Bool) (code : Nat) (f : W64) : failIf b code f = none ↔ b = false := by
  cases b <;> simp [failIf]

end Sys2Proof.Machine
end

