-- ==== Sys2Proof/Tests/Slice0.lean ====
section
/-! SUPPORT. Tests. Words decoded, written out from the encodings of R149 to R157; terms that WellFormed refuses; for every statement that
has hypotheses, operands and states that meet them, clause by clause; and small steps with results taken from the spec. -/

namespace Sys2Proof.Tests

open Sys2Proof Sys2Proof.Machine Sys2Proof.Safety

/-! ### States to try things on -/

/-- A core that issues at user privilege. -/
def kRun : Core := { Core.init with seq := { Core.init.seq with st := .run, counting := true, armed := true, pc := 0x100 } }

/-- Core 0 issues a slot of a kind. -/
def at_ (kind : Nat) (k : Core) : State :=
  { State.reset with
    agenda := []
    cores := [(0, k)]
    issue := { Issue.none with active := true, base := 0x100, next := 0x106, s0pc := 0x100, cur := ⟨kind, 0, 0x100⟩ } }

def kStat (x : W64) : Core := { kRun with tr := { kRun.tr with status := x } }
def kPriv : Core := kStat 0x1F
def kInui : Core := kStat 0x8F
def kTimed : Core := kStat 0x2F

/-- An entry: valid, GEN 0, L1, 16 rows of 64 columns, one bank 0, line 0, of a size code and a tag. -/
def ent (eb : Nat) (t : Tag) : TEntry := ⟨BitVec.ofNat 64 (2 ^ 63 + 15 * 2 ^ 42 + 63 * 2 ^ 30 + eb * 2 ^ 28 + t.code * 2 ^ 16), 0⟩

/-- View 7 names entry 1. -/
def kView (e : TEntry) : Core := { kRun with
  tile := { kRun.tile with ents := kRun.tile.ents.set 1 e, views := kRun.tile.views.set 7 ⟨true, 0, 1⟩ } }

/-- Every engine may read and write every view. -/
def open_ (k : Core) : Core :=
  { k with prog := { k.prog with phase := some (0, ⟨false, List.replicate 9 (BitVec.allOnes 256), List.replicate 9 (BitVec.allOnes 256)⟩) } }

def kTile : Core := open_ (kView (ent 3 .fp32))

/-- A core with its s registers given by number. -/
def regs (k : Core) (l : List (Nat × W64)) : Core :=
  { k with sc := { k.sc with s := l.foldl (fun v p => v.setIfInBounds p.1 p.2) k.sc.s } }

/-! ### Witnesses: scalar statements -/

theorem witness_DivideForms :
    (at_ 0 kRun).divBusy = false
    ∧ (at_ 0 { kRun with fl := { kRun.fl with units := { kRun.fl.units with divU := #v[1, 0] } } }).divBusy = true := by decide

theorem witness_ImmediateForms : 64 ≤ (64#14).toNat := by decide

theorem witness_NanResults :
    (FFmt.fp32.fmt.decode 0x7FC00000).isNan = true ∧ (FFmt.bf16.fmt.decode 0x7F81).isNan = true
    ∧ (FFmt.fp32.fmt.decode 0x3F800000).isNan = false := by decide

set_option maxRecDepth 100000 in
theorem witness_TileAccess :
    let k := kTile
    kRun.viewOk 7 = false
    ∧ (kView (ent 0 .none)).viewOk 7 = true ∧ entTag (ent 0 .none) = .none ∧ entTag (ent 0 .sn4) = .sn4
    ∧ k.viewOk 7 = true ∧ entTag (k.vEnt 7) ≠ .none ∧ entTag (k.vEnt 7) ≠ .sn4
    ∧ (kView (ent 3 .fp32)).permits 0 7 true = false ∧ k.permits 0 7 true = true ∧ k.permits 0 7 false = true
    ∧ entRows (k.vEnt 7) * entCols (k.vEnt 7) = 1024
    ∧ k.bankBusy (elemUse (k.vEnt 7) 1 1023) = false
    ∧ ({ k with fl := { k.fl with claims := [⟨1, 0, 5, 0, 0, none⟩] } } : Core).bankBusy (elemUse (k.vEnt 7) 1 0) = true := by decide

theorem witness_TileLoads : entEb (ent 3 .fp32) ≠ 0 ∧ entEb (ent 1 .int8) ≠ 0 := by decide

theorem witness_TileStoreCommit : entEb (ent 2 .bf16) ≠ 0 ∧ Mem.wf kTile.tile.mem = true := by decide

theorem witness_LoopRule :
    let g : Issue := { Issue.none with next := 0x120 }
    let k := { kRun with sc := { kRun.sc with lc := 2, le := 0x120, ls := 0x106 } }
    let last := { kRun with sc := { kRun.sc with lc := 1, le := 0x120, ls := 0x106 } }
    k.sc.lc ≠ 0 ∧ ((at_ 0 kRun).issue.cur.bundle + 2 * (2#14).signExtend 64).toNat < (at_ 0 kRun).issue.next.toNat
    ∧ kRun.sc.lc = 0 ∧ (at_ 0 kRun).issue.next.toNat ≤ ((at_ 0 kRun).issue.cur.bundle + 2 * (3#14).signExtend 64).toNat
    ∧ (at_ 0 kRun).gs 1 = 0 ∧ (at_ 0 (regs kRun [(1, 5)])).gs 1 ≠ 0
    ∧ ({ g with target := some 0x200 } : Issue).target = some 0x200
    ∧ g.target = none ∧ g.next = k.sc.le ∧ 1 < k.sc.lc.toNat ∧ g.next = last.sc.le ∧ last.sc.lc = 1
    ∧ g.next ≠ kRun.sc.le ∧ kRun.sc.lc = 0 := by decide

theorem witness_GroupEnders :
    kInui.inui = true ∧ kInui.priv = false ∧ kRun.inui = false ∧ kRun.priv = false ∧ kPriv.priv = true := by decide

theorem witness_UserWindowOpens : kInui.inui = true ∧ kPriv.priv = true ∧ kRun.inui = false ∧ kRun.priv = false := by decide

/-- Phase 1 lets two engines write view 7; phase 2 lets one; phase 3 is not installed. -/
def kPhases : Core :=
  let w := (1 : BitVec 256) <<< 7
  let no := List.replicate 9 (0 : BitVec 256)
  { kRun with prog := { kRun.prog with descs := [(1, ⟨false, no, w :: w :: List.replicate 7 0⟩), (2, ⟨false, no, w :: List.replicate 8 0⟩)] } }

theorem witness_PhaseChanges :
    let s := at_ 0 kPhases
    AMap.get? s.ik.prog.descs 3 = none
    ∧ (∃ p f, AMap.get? s.ik.prog.descs 1 = some p ∧ s.ik.overlap p s.groupCarries = some f)
    ∧ (∃ p, AMap.get? s.ik.prog.descs 2 = some p ∧ s.ik.overlap p s.groupCarries = none) :=
  ⟨by decide, ⟨_, _, rfl, rfl⟩, ⟨_, rfl, by decide⟩⟩

/-- R270, and the variants of spec/30_program_sum.md with PHASE 3 in the commit cycle of a VST: the store is still in flight. -/
theorem test_phase_in_commit_cycle :
    let k := { kPhases with fl := { kPhases.fl with done := [⟨0, 1, [], [7], []⟩] } }
    let p : PDesc := ⟨false, List.replicate 9 0, (1 <<< 7) :: List.replicate 8 0⟩
    k.overlap p (k.doneCarries 0) = some 0x710 ∧ k.overlap p (k.doneCarries 1) = none := by decide

theorem witness_CheckForms :
    let one := { kRun with ct := { kRun.ct with cc := kRun.ct.cc.set 2 1 } }
    let bad := { one with ct := { one.ct with unraised := [⟨2, 1, 0x11, 0x40⟩] } }
    one.deferred 2 1 = none ∧ (1#32).toNat ≤ (one.ct.cc[2] - one.ccBase 2).toNat
    ∧ kRun.deferred 2 1 = none ∧ (kRun.ct.cc[2] - kRun.ccBase 2).toNat < (1#32).toNat
    ∧ bad.deferred 2 1 = some ⟨2, 1, 0x11, 0x40⟩ := by decide

/-- Gang 5 of core 0 runs. -/
def gang5 : Gang := ⟨3, 0, [0], .running, 0, 0, [], [], [], 0, 0, 0, [], 0, none, 0, false, 0, 0, 0, false⟩

def inGang (g : Gang) (k : Core) : State :=
  let s := at_ 0 { k with seq := { k.seq with gang := some 5, launch := some 3 } }
  { s with gangs := [(5, g)] }

theorem witness_TrapEntry :
    let f : FaultInfo := ⟨0x11, 0x40, 0, false, some 2⟩
    kRun.priv = false ∧ kRun.dbg.attach = false ∧ f.code ≠ 0x17 ∧ f.code < 256 ∧ f.slotres < 16 ∧ ∀ ch ∈ f.defer, ch < 16 := by decide

theorem witness_TimedFaultHaltsGang :
    kTimed.priv = false ∧ kTimed.timed = true ∧ kTimed.dbg.attach = false
    ∧ (inGang gang5 kTimed).gangOf 0 = some (5, gang5) ∧ gang5.st = .running := by decide

theorem witness_DoubleFault : kPriv.priv = true ∧ kPriv.dbg.attach = false ∧ 0x02 < 256 := by decide

theorem witness_SoftwareTraps : (at_ 0 kRun).ik.priv = false ∧ (at_ 0 kRun).ik.dbg.attach = false := by decide

theorem witness_WritesLand :
    kInui.inui = true ∧ kRun.inui = false ∧ (1 : Fin 32) ≠ 0 ∧ (31 : Fin 32).val < 32 := by decide

theorem witness_SystemReads : (at_ 0 kRun).ik.priv = false ∧ (at_ 0 kPriv).ik.priv = true := by decide

theorem witness_SystemWrites : (at_ 0 kRun).ik.priv = false ∧ (at_ 0 kPriv).ik.priv = true := by decide

theorem witness_StatusWriteLands :
    let p : PWrite := ⟨1, 0, 0, 0, .sys .status, .w 0x40⟩
    p.dest = .sys .status ∧ p.val = .w 0x40 := by decide

/-- The operands of a legal HALLOC of entry 2, at bank 1. -/
def kAlloc : Core := regs kTile [(1, 2), (2, (ent 3 .fp32).w0), (3, 0x10000)]

set_option maxRecDepth 100000 in
theorem witness_HandleAllocate :
    let s := at_ 0 kAlloc
    let old := s.ik.ent 2
    let e := formEntry old (s.gs 2) (s.gs 3)
    (s.gs 1).toNat = 2 ∧ getF (s.gs 2) 0 14 = 0 ∧ getF (s.gs 3) 22 42 = 0 ∧ entV old = false
    ∧ entLegal s.ik.tile.ents.toList e = true
    ∧ ¬ (at_ 0 (regs kTile [(1, 256)])).gs 1 < 256 := by decide

set_option maxRecDepth 100000 in
theorem witness_HandleFree :
    (at_ 0 kRun).ik.viewOk 7 = false ∧ (at_ 0 kTile).ik.viewOk 7 = true ∧ (at_ 0 kTile).entryBusy 0 1 = false
    ∧ (at_ 0 { kTile with sub := { kTile.sub with subs := [(1, ⟨7, 1, 0, 2, 3, 0, .active, 0⟩)] } }).entryBusy 0 1 = true := by decide

theorem witness_AddressForms :
    let bad := fun (y : W64) => getF y 62 2 ≠ 0 ∧ getF y 24 24 = 0 ∨ getF y 62 2 = 3 ∧ getF y 24 24 = 6
    bad 0x4000000000000000 ∧ bad 0xC000000006000000 ∧ ¬ bad 0xC000000008000000 := by decide

theorem witness_AddressAdvance :
    let k := { kRun with sc := { kRun.sc with b := kRun.sc.b.set 3 0x4000000008000000 } }
    getF kRun.sc.b[3] 62 2 = 0 ∧ getF k.sc.b[3] 62 2 = 1 ∧ getF k.sc.b[3] 24 24 ≠ 0 := by decide

/-! ### Witnesses: vectors -/

/-- A core with a v register set. -/
def withV (n : Nat) (t : Tag) (k : Core) : Core :=
  { k with vec := { k.vec with v := k.vec.v.setIfInBounds n ⟨[], t, false, 0, []⟩ } }

def kFp : Core := withV 1 .fp32 (withV 2 .fp32 (withV 3 .fp32 kRun))
def kInt : Core := withV 1 .int32 (withV 2 .int32 (withV 3 .int32 kRun))
def kXch : Core := { kRun with x := ⟨true, [], [], false, []⟩ }

theorem witness_VectorArithmetic :
    let s := at_ 3 kFp
    s.vBusy 4 (ports2 .normal) false = false ∧ (s.srcA 1 .normal).tag.isFloat = true ∧ (s.srcA 1 .normal).sc = false
    ∧ (s.srcB 2 .normal).tag = (s.srcA 1 .normal).tag ∧ (s.srcB 2 .normal).sc = false
    ∧ s.ik.lastTag 3 = (.fp32, false, 0) ∧ s.ik.lastTag 4 ≠ (.fp32, false, 0) ∧ (1 : Fin 8) ≠ 0
    ∧ (at_ 3 kXch).vBusy 4 (ports2 .normal) false = true
    ∧ s.vBusy (beats [.fp32, .fp32, .fp32]) (ports2 .normal + 1) true = false ∧ s.vBusy (beats [.fp32]) (ports1 .normal) false = false
    ∧ (s.ik.v 3).tag = .fp32 ∧ (s.ik.v 3).sc = false := by decide

theorem witness_VectorBits :
    let s := at_ 3 kInt
    s.vBusy 4 (ports2 .normal) false = false ∧ (s.srcA 1 .normal).tag = .int32 ∧ Tag.int32.isInt = true
    ∧ (s.srcB 2 .normal).tag = .int32 ∧ (s.srcA 1 .normal).sc = false ∧ s.ik.lastTag 3 = (.int32, false, 0) := by decide

theorem witness_VectorMasks :
    let s := at_ 4 kFp
    s.vBusy 4 (ports2 .normal) false = false ∧ (s.srcA 1 .normal).tag.fmt.isSome = true ∧ (s.srcB 2 .normal).tag = .fp32
    ∧ s.vBusy 1 0 false = false := by decide

theorem witness_VectorSpecials :
    let s := at_ 3 kFp
    (s.srcA 1 .normal).tag.fmt = some fmt32 ∧ s.vBusy 4 (ports1 .normal) false = false ∧ s.ik.lastTag 3 = (.fp32, false, 0)
    ∧ fmt32.decode 0x7FC00000 = .nan false ∧ fmt32.decode 0x7F800000 = .inf false ∧ fmt32.decode 0xFF800000 = .inf true
    ∧ (∃ e, fmt32.decode 0x80000000 = .fin true 0 e) ∧ (∃ m e, fmt32.decode 0xBF800000 = .fin true m e ∧ m ≠ 0) :=
  ⟨by decide, by decide, by decide, by decide, by decide, by decide, ⟨_, rfl⟩, ⟨_, _, rfl, by decide⟩⟩

theorem witness_VectorConversions :
    let s := at_ 3 kFp
    let u := at_ 3 (withV 1 .sn4 kRun)
    s.vBusy 4 (ports1 .normal) false = false ∧ (s.srcA 1 .normal).tag ≠ .none ∧ (s.srcA 1 .normal).tag ≠ .raw32
    ∧ s.ik.lastTag 3 = (.fp32, false, 0) ∧ (s.srcA 1 .normal).tag.isFloat = true
    ∧ u.vBusy 2 (ports1 .normal) false = false ∧ (u.srcA 1 .normal).tag = .sn4
    ∧ (s.srcA 1 .normal).sc = false ∧ Tag.fp32.bytes = Tag.int32.bytes := by decide

theorem witness_VectorMoves :
    let s := at_ 3 kInt
    s.vBusy 4 (ports1 .normal) false = false ∧ s.vBusy 4 (ports2 .normal) false = false ∧ (s.srcA 1 .normal).tag ≠ .none
    ∧ (s.srcA 1 .normal).sc = false ∧ (s.srcB 2 .normal).sc = false ∧ (s.srcB 2 .normal).tag = .int32 ∧ (s.srcB 2 .normal).tag.isInt = true
    ∧ s.vBusy Tag.int8.bytes 0 false = false ∧ s.vBusy 4 0 false = false := by decide

theorem witness_VectorReductions :
    (at_ 3 kFp).vBusy 4 (ports1 .normal) false = false ∧ ((at_ 3 kFp).srcA 1 .normal).tag.isFloat = true
    ∧ ((at_ 3 kFp).srcA 1 .normal).sc = false := by decide

/-- A handle of 16 rows by 64 columns over 32 banks under view 7; v1 carries its tag and v2 indices. -/
def kBlock : Core :=
  open_ (withV 1 .int32 (withV 2 .int32 (kView ⟨BitVec.ofNat 64 (2 ^ 63 + 15 * 2 ^ 42 + 63 * 2 ^ 30 + 3 * 2 ^ 28 + 7 * 2 ^ 16), 0x7C00⟩)))

set_option maxRecDepth 100000 in
theorem witness_VectorAccess :
    let s := at_ 3 kBlock
    let e := s.ik.vEnt 7
    s.vBusy 1 0 false = false ∧ s.vBusy 16 2 false = false ∧ s.ik.viewOk 7 = true ∧ entTag e = .int32 ∧ entScaled e = false
    ∧ s.ik.permits 1 7 false = true ∧ s.ik.permits 1 7 true = true ∧ 0 + 15 * 64 + 63 < entRows e * entCols e
    ∧ (s.ik.v 1).tag = .int32 ∧ (s.ik.v 1).sc = entSc e ∧ (s.ik.v 1).teo = entTeo e ∧ (s.ik.v 2).tag = .int32
    ∧ (1 : Fin 32) ≠ 31 ∧ (at_ 3 kXch).vBusy 1 0 false = true ∧ (at_ 3 kRun).ik.viewOk 7 = false
    ∧ entRows e * entCols e ≤ 1 + 15 * 64 + 63 := by decide

set_option maxRecDepth 100000 in
theorem witness_VectorAccess_block :
    let s := at_ 3 kBlock
    let e := s.ik.vEnt 7
    ∃ l, footprint e 1 2 (blockLines e 0 64 16) = some l ∧ s.ik.bankBusy l = false := ⟨_, rfl, by decide⟩

set_option maxRecDepth 100000 in
theorem witness_VectorAccess_indexed :
    let s := at_ 3 kBlock
    let e := s.ik.vEnt 7
    (∀ n, n < 1024 → ((s.ik.v 2).cell n).toNat = 0)
    ∧ ∃ us : List (List BankUse),
      (List.range 16).map (fun r => footprint e (1 + r) 1 ([0].map (fun n => (0 + ((s.ik.v 2).cell n).toNat) * (entHalf e / 2) / 64))) = us.map some
      ∧ s.ik.bankBusy us.flatten = false :=
  ⟨fun _ _ => rfl, ⟨[[⟨1, 0, 0⟩], [⟨2, 0, 0⟩], [⟨3, 0, 0⟩],
    [⟨4, 0, 0⟩], [⟨5, 0, 0⟩], [⟨6, 0, 0⟩], [⟨7, 0, 0⟩], [⟨8, 0, 0⟩], [⟨9, 0, 0⟩], [⟨10, 0, 0⟩], [⟨11, 0, 0⟩], [⟨12, 0, 0⟩], [⟨13, 0, 0⟩],
    [⟨14, 0, 0⟩], [⟨15, 0, 0⟩], [⟨16, 0, 0⟩]], by decide, by decide⟩⟩

/-! ### Witnesses: the cube -/

/-- A ring of 4 slots, all full; accumulator 0 is FP32; latches 0 to 2 hold BF16 planes of 32 by 32. -/
def kCube (fill : BitVec 16) : Core :=
  let plane : Latch := ⟨32, 32, [], .bf16, false, 0, []⟩
  let k := kTile
  { k with cube := { k.cube with
      rings := k.cube.rings.set 0 ⟨true, 7, 1, 4, 4, 64, fill, 0, []⟩
      acc := k.cube.acc.set 0 ⟨[], .fp32, false⟩
      lat := #v[plane, plane, plane, plane] } }

def pipe0 : PipeCmd := ⟨0, 32, [], none, [], [], [], [1, 1], 0x10, true, 0⟩

def withPipe (p : PipeCmd) (k : Core) : Core := { k with cube := { k.cube with pipe := some p } }

def square (t : Tag) (eb : Nat) : Core :=
  open_ (kView ⟨BitVec.ofNat 64 (2 ^ 63 + 2 ^ 54 + 31 * 2 ^ 42 + 31 * 2 ^ 30 + eb * 2 ^ 28 + t.code * 2 ^ 16), 0x300000⟩)

set_option maxRecDepth 100000 in
theorem witness_CubeControl :
    let s := at_ 5 (kCube 4)
    let q := at_ 5 (square .raw32 3)
    Wf.cfg 0xFFFFFFFF = false ∧ Wf.cfg 0 = true ∧ (at_ 5 kXch).mBusy 0 = true ∧ s.mBusy 0 = false ∧ s.ik.cube.mtile = none
    ∧ s.pipeBusy 0 = false ∧ q.mBusy 0 = false ∧ q.ik.viewOk 7 = true ∧ q.ik.permits 2 7 false = true ∧ entTag (q.ik.vEnt 7) = .raw32
    ∧ 0 + 1 < entRows (q.ik.vEnt 7) * entCols (q.ik.vEnt 7)
    ∧ q.ringRead 0 0 = false ∧ (kCube 4 |> withPipe { pipe0 with rings := [3] } |> at_ 5).ringRead 0 3 = true ∧ entLevel (q.ik.vEnt 7) = 1 ∧ entRows (q.ik.vEnt 7) % (31 + 1) = 0 ∧ entCols (q.ik.vEnt 7) = 32
    ∧ (s.ik.ring 0).bound = true ∧ (s.ik.ring 1).bound = false ∧ (s.ik.ring 0).depth < (s.ik.ring 0).fill + 1
    ∧ ((at_ 5 (kCube 3)).ik.ring 0).fill + 1 ≤ ((at_ 5 (kCube 3)).ik.ring 0).depth
    ∧ (s.ik.ring 0).fill < 5 + s.popsPending 0 0 ∧ 4 + s.popsPending 0 0 ≤ (s.ik.ring 0).fill := by decide

/-- A word that MSETF takes and one that it refuses. -/
theorem witness_CubeControl_images :
    getF (BitVec.ofNat 64 (0x02 * 2 ^ 56 + 0xFFFFF * 2 ^ 36)) 36 20 = 0xFFFFF
    ∧ getF (BitVec.ofNat 64 (0x02 * 2 ^ 56 + 0xFFFFF * 2 ^ 36)) 56 8 = 2 ∧ getF (BitVec.ofNat 64 0) 36 20 ≠ 0xFFFFF := by decide

set_option maxRecDepth 100000 in
theorem witness_CubeSteps :
    let s := at_ 5 (kCube 4)
    let q := at_ 5 (square .fp32 3)
    let A := s.ik.plane (.latch 0)
    let cfg := s.ik.cube.ccfg
    s.mBusy 0 = false ∧ s.ik.cube.mtile = none ∧ s.pipeBusy 0 = false
    ∧ q.mBusy 0 = false ∧ q.ik.cube.mtile = none ∧ q.pipeBusy 0 = false ∧ q.ik.viewOk 7 = true ∧ q.ik.permits 2 7 false = true
    ∧ entTag (q.ik.vEnt 7) = .fp32 ∧ entSc (q.ik.vEnt 7) = false ∧ entRows (q.ik.vEnt 7) = 32 ∧ entCols (q.ik.vEnt 7) = 32
    ∧ entLevel (q.ik.vEnt 7) = 1
    ∧ A.tag = (cfgA cfg).tag ∧ A.sc = (cfgA cfg).c ∧ A.tag = (cfgB cfg).tag ∧ A.sc = (cfgB cfg).c ∧ A.cols = 32 ∧ A.rows = 32
    ∧ okPair (cfgA cfg) (cfgB cfg) = true ∧ 0 + 1 ≤ A.cols
    ∧ A.tag = (cfgW cfg).tag ∧ A.sc = (cfgW cfg).c ∧ cfgBind cfg ≠ 2 ∧ cfgWide cfg = false ∧ (cfgReplaced cfg).f ≠ 4
    ∧ (cfgW cfg).f = (cfgReplaced cfg).f ∧ A.tag ≠ .sn4
    ∧ (s.ik.acc 0).tag = .fp32 ∧ stepInt false cfg = false ∧ stepInt true cfg = false
    ∧ (List.replicate 1024 (0 : W32)).length = 1024
    ∧ stepInt false 0x252 = true ∧ cfgSat 0x252 = false ∧ stepInt true 0x252 = true
    ∧ stepInt false 0x10000252 = true ∧ stepInt true 0x10000252 = true ∧ cfgSat 0x10000252 = true := by decide

/-- A drain descriptor for FP32 without vectors: OTAG 1, KZ 1, all else zero, in the RAW32 handle of view 8; the output is view 7. -/
def drainBytes : Mem := [(65536 * 50 + 3, 8), (65536 * 50 + 16, 1)]

def kDrain : Core :=
  let k := kCube 4
  open_ { k with tile := {
    ents := (k.tile.ents.set 1 ⟨BitVec.ofNat 64 (2 ^ 63 + 31 * 2 ^ 42 + 31 * 2 ^ 30 + 3 * 2 ^ 28 + 1 * 2 ^ 16), 0⟩).set 2
      ⟨BitVec.ofNat 64 (2 ^ 63 + 2 ^ 54 + 15 * 2 ^ 30 + 3 * 2 ^ 28 + Tag.raw32.code * 2 ^ 16), 50 * 2 ^ 16⟩
    views := (k.tile.views.set 7 ⟨true, 0, 1⟩).set 8 ⟨true, 0, 2⟩
    mem := drainBytes } }

set_option maxRecDepth 100000 in
theorem witness_CubeDrains :
    let s := at_ 5 kDrain
    let k := s.ik
    let de := k.vEnt 8
    let oe := k.vEnt 7
    let d := drainDesc (k.imgBytes de 0 64)
    s.mBusy 0 = false ∧ k.cube.mtile = none ∧ s.drainBusy 0 = false ∧ s.accBusy 0 0 = false
    ∧ k.viewOk 8 = true ∧ entTag de = .raw32 ∧ 16 ≤ entRows de * entCols de ∧ k.permits 2 8 false = true
    ∧ d.bias = false ∧ d.zp = false ∧ d.req = false ∧ d.zero = true ∧ d.otag = some .fp32 ∧ d.osc = false ∧ d.ozp = false
    ∧ d.kz = 1 ∧ (k.acc 0).tag = .fp32
    ∧ k.viewOk 7 = true ∧ entTag oe = .fp32 ∧ entSc oe = false ∧ 32 ≤ entCols oe ∧ 0 + 31 * entCols oe + 31 < entRows oe * entCols oe
    ∧ k.permits 2 7 true = true
    ∧ (at_ 5 kXch).mBusy 0 = true ∧ s.pipeBusy 0 = false ∧ mtileBad false (k.imgBytes de 0 64) = true := by decide

/-- A macro tile of one tile in view 9: M, N and K 32, latches 0 and 1, accumulators 0 and 1, output view 7, drain view 8. -/
def kMtile : Core :=
  let k := kDrain
  open_ { k with tile := {
    ents := k.tile.ents.set 3 ⟨BitVec.ofNat 64 (2 ^ 63 + 2 ^ 54 + 15 * 2 ^ 30 + 3 * 2 ^ 28 + Tag.raw32.code * 2 ^ 16), 51 * 2 ^ 16⟩
    views := k.tile.views.set 9 ⟨true, 0, 3⟩
    mem := drainBytes ++ [(65536 * 51, 32), (65536 * 51 + 2, 32), (65536 * 51 + 4, 32), (65536 * 51 + 8, 16), (65536 * 51 + 9, 17),
      (65536 * 51 + 11, 8), (65536 * 51 + 12, 7), (65536 * 51 + 13, 8)] } }

set_option maxRecDepth 100000 in
theorem witness_CubeDrains_tile :
    let s := at_ 5 kMtile
    s.mBusy 0 = false ∧ s.ik.cube.mtile = none ∧ s.drainBusy 0 = false ∧ s.pipeBusy 0 = false ∧ s.ik.viewOk 9 = true
    ∧ mtileBad false (s.ik.imgBytes (s.ik.vEnt 9) 0 64) = false ∧ (s.planMtile 0 false 9 s.byM).chk = none := by decide

/-- The same tile with an M of 33 rows, which is out of range, and with a step and drains whose views and tags are in order. -/
def kBadTile : Core := { kMtile with tile := { kMtile.tile with mem := Mem.write kMtile.tile.mem (65536 * 51) 33 } }

set_option maxRecDepth 100000 in
theorem witness_CubeDrains_shape :
    let s := at_ 5 kBadTile
    let p := s.planMtile 0 false 9 s.byM
    mtileBad false (s.ik.imgBytes (s.ik.vEnt 9) 0 64) = true ∧ s.ik.viewOk 9 = true ∧ entTag (s.ik.vEnt 9) = .raw32
    ∧ (∀ c ∈ p.chks.stale ++ p.chks.tag ++ p.chks.shape.dropLast, c = none) := by decide

/-! ### Witnesses: engines -/

/-- View 8 is a RAW32 handle of one 64-byte row at bank 50; view 7 is FP32, view 10 UINT8, its image at bank 60. -/
def kDesc (bytes : List (Nat × Byte)) : Core :=
  let k := kTile
  open_ { k with tile := {
    ents := (k.tile.ents.set 2 ⟨BitVec.ofNat 64 (2 ^ 63 + 2 ^ 54 + 15 * 2 ^ 30 + 3 * 2 ^ 28 + Tag.raw32.code * 2 ^ 16), 50 * 2 ^ 16⟩).set 3
      ⟨BitVec.ofNat 64 (2 ^ 63 + 2 ^ 54 + 63 * 2 ^ 30 + 1 * 2 ^ 28 + Tag.uint8.code * 2 ^ 16), 60 * 2 ^ 16⟩
    views := (k.tile.views.set 8 ⟨true, 0, 2⟩).set 10 ⟨true, 0, 3⟩
    mem := bytes.map (fun p => (65536 * 50 + p.1, p.2)) ++ [(65536 * 60, 0), (65536 * 60 + 1, 1)] } }

/-- A descriptor of 64 contiguous bytes between VA 0x1000 and view 7. -/
def kCopy : Core := kDesc [(1, 0x10), (16, 64), (20, 1), (22, 1), (40, 7)]

def copyOne : CopyCmd where
  id := 0
  op := .inn
  fol := none
  notify := false
  pc := 0
  priv := false
  g := 0
  view := 8
  desc := copyDesc (List.replicate 64 0)
  dindex := 2
  lindex := 1
  findex := 0
  slot := 0
  waits := []
  started := false
  startC := 0
  pos := 0
  lset := []
  code := 0
  faddr := 0
  buf := []
  bits := []
  rq := none
  acc := false
  offDie := false
  rent := none
  flags := 0
  perf := false
  table := none

def withChan (l : List CopyCmd) (k : Core) : Core := { k with eng := { k.eng with chans := k.eng.chans.set 0 l } }

set_option maxRecDepth 100000 in
theorem witness_CopyIssues :
    let s := at_ 6 kCopy
    8 ≤ ((withChan (List.replicate 8 copyOne) kCopy).eng.chans[0]).length
    ∧ (s.ik.eng.chans[0]).length < 8 ∧ kRun.viewOk 8 = false ∧ s.chkCopy ⟨0, true, 8, .inn, none, none⟩ = none
    ∧ s.chkCopy ⟨0, true, 8, .out, none, none⟩ = none := by decide

def amoOne : AmoCmd where
  id := 1
  op := .addI64
  isLoad := false
  isStore := false
  addr := 0x2000
  opnd := 5
  cmp := 0
  dest := 4
  shadow := false
  notify := true
  pc := 0x100
  priv := false
  g := 1
  waits := []
  w0 := 0
  issued := false
  offDie := false
  performed := false
  old := 0
  code := 0
  faddr := 0
  flags := 0
  rq := none
  seq := 0
  landed := false

def kWheel (l : List AmoCmd) : Core := { kRun with eng := { kRun.eng with wheel := [3, 4095], scs := l } }

theorem witness_OrderIssues :
    (∀ p ∈ (at_ 6 (kWheel [])).ik.eng.wheel, p < 4096)
    ∧ ((at_ 6 (kWheel [])).ik.eng.scs.filter (fun x => !x.performed)).length < 4
    ∧ 4 ≤ ((at_ 6 (kWheel (List.replicate 4 amoOne))).ik.eng.scs.filter (fun x => !x.performed)).length
    ∧ (at_ 6 kRun).ik.eng.wheel = [] ∧ (kWheel []).eng.wheel ≠ [] := by decide

/-- A schedule image with one group and gang, number 1, of cores 0 and 1. -/
def img0 : Image := ⟨7, false, false, [], [], .mesh, [⟨1, [0, 1], true⟩], [], [], [], [], [], [], [], []⟩

def launch0 : Launch := ⟨0, 0, 0, img0, .running, .ok, []⟩

def inLaunch (k : Core) : Core := { k with seq := { k.seq with launch := some 3 } }

/-- Core 0, and core 1 of the same launch and of the same program. -/
def pair (k : Core) (l : Launch) : State :=
  let q := inLaunch k
  { at_ 6 q with cores := [(0, q), (1, inLaunch kRun)], launches := [(3, l)] }

def locked0 : Region := ⟨3, ⟨1, [0], 1, 100, 1, 64, 1000, 16, 100, 1000⟩, .running, 0, 0, 1000, 100, 0, 0, true, 0, none, true, false, false, none, 0⟩

def inRegion (g : Region) (k : Core) : State :=
  { at_ 6 { k with seq := { k.seq with region := some 9 } } with regions := [(9, g)] }

theorem witness_TimeIssues :
    let s := at_ 6 (regs kRun [(4, 900)])
    let p := pair (regs kRun [(4, 900)]) launch0
    ((SemSrc.reg 4 : SemSrc) = .reg 4 ∧ (7#19).signExtend 32 = 7 ∧ (7#19).zeroExtend 32 = 7)
    ∧ (0 : W32).toNat ≤ (s.ik.ct.sem[2]).toNat ∧ (s.ik.ct.sem[2]).toNat < (1 : W32).toNat
    ∧ ((inRegion locked0 kRun).lockedRegion (inRegion locked0 kRun).ik).isSome = true
    ∧ (s.lockedRegion s.ik).isSome = false
    ∧ ¬ (s.gs 4).toNat * tick < s.inst 0 (s.cyc 0)
    ∧ 0 < { s with now := 1 }.inst 0 ({ s with now := 700000 }.cyc 0)
    ∧ (pair kRun { launch0 with img := { img0 with latefault := true } }).latefault 0 = true ∧ s.latefault 0 = false
    ∧ 0 ∈ p.groupOf 0 1 ∧ (∀ m ∈ p.groupOf 0 1, (p.lockedRegion (p.coreIn (p.launchNo 0) m)).isSome = false) ∧ ¬ 0 ∈ p.groupOf 0 2
    ∧ p.now + 788 * tick ≤ (p.gs 4).toNat * tick ∧ (p.gs 5).toNat * tick < p.now + 788 * tick
    ∧ (0x7F#8).toNat < 0x80 ∧ 0x80 ≤ (0x80#8).toNat := by decide

/-- The queued writes of R244: a semaphore set and one grown. -/
theorem witness_TimeIssues_lands :
    (⟨1, 0, 0, 0, .e 2, .semInc 1⟩ : PWrite).dest = .e 2 ∧ (⟨1, 0, 0, 0, .e 2, .semSet 3⟩ : PWrite).val = .semSet 3 := by decide

def sub0 (st : SubSt) : SubEnt := ⟨7, 1, 0, 1, 3, 8, st, 0x100⟩

def withSub (st : SubSt) (k : Core) : Core := { k with sub := { k.sub with subs := [(2, sub0 st)] } }

/-- Crossing 5 of one channel, from island 0 to island 0. -/
def cross0 : Crossing :=
  ⟨3, ⟨5, 0, 0, 1, 16, 4, 1, 1, [], 2000, .hold, none, 8⟩, 0, 0, 0, 0, [], none, [], 0, 0, 0, 0, 0, none, false⟩

set_option maxRecDepth 100000 in
theorem witness_SharingIssues :
    let s := pair kTile launch0
    let p := s.ik
    let w := (pair { kTile with sub := { kTile.sub with mcs := [⟨1, 0, 1, 3, 1, 0x100⟩] } } launch0).ik
    (at_ 6 kRun).ik.viewOk 7 = false ∧ p.viewOk 7 = true
    ∧ s.peer 0 1 = true ∧ s.shareGroup 0 1 = true ∧ p.sub.byView 7 = none ∧ p.sub.subs.length < 32 ∧ (at_ 6 kTile).peer 0 1 = false
    ∧ (withSub .pending kTile).sub.byView 7 = some (2, sub0 .pending) ∧ (withSub .closing kTile).sub.byView 7 = some (2, sub0 .closing)
    ∧ (0 ∈ s.groupOf 0 1 ∧ (∀ w ∈ p.sub.mcs, w.index ≠ p.vIdx 7) ∧ p.sub.mcs.length < 8)
    ∧ s.outside 0 (s.groupOf 0 1) = some 1
    ∧ ({ s with cores := [(0, { p with seq := { p.seq with region := some 9 } }),
        (1, { inLaunch kRun with seq := { (inLaunch kRun).seq with region := some 9 } })] } : State).outside 0 [0, 1] = none
    ∧ ¬ 0 ∈ s.groupOf 0 2 ∧ (∃ x ∈ w.sub.mcs, x.index = w.vIdx 7) := by decide

set_option maxRecDepth 100000 in
theorem witness_SharingIssues_slip :
    let s := { pair kTile launch0 with cross := [(5, cross0)] }
    let k := s.ik
    let e := k.vEnt 7
    k.viewOk 7 = true ∧ entTag e = .fp32 ∧ s.crossingOf 0 5 = some cross0 ∧ cross0.desc.pisl = coreIsland 0 ∧ cross0.desc.cisl = coreIsland 0
    ∧ k.permits 0 7 false = true ∧ k.permits 8 7 true = true
    ∧ 0 + cross0.desc.ch ≤ entRows e * entCols e
    ∧ footprint e 1 1 (linesOf 0 8) = some [⟨1, 0, 0⟩] ∧ k.bankBusy [⟨1, 0, 0⟩] = false
    ∧ entTag ((at_ 6 kCopy).ik.vEnt 8) = .raw32 ∧ 0 + 4 ≤ entRows ((at_ 6 kCopy).ik.vEnt 8) * entCols ((at_ 6 kCopy).ik.vEnt 8) := by decide

/-- A collective's descriptor in view 8: 16 elements, XCID 0, root 0, deadline tick 10^6. -/
def kColl : Core := kDesc [(1, 0x10), (9, 0x20), (16, 16), (24, 0x40), (25, 0x42), (26, 0x0F)]

def withColls (n : Nat) (k : Core) : Core :=
  { k with eng := { k.eng with colls := k.eng.colls.set 0 (List.replicate n ⟨1, 0, 5, false, 0x100, false, 8, 2, 0x1000, 0x2000, 16, [], 0, 0, false, none, 0, 0, 0, true⟩) } }

/-- The instance that core 1 has opened. -/
def inst0 : CollInst := ⟨3, 1, 1, .ar, .sumF32, 16, 0, 0, 1000000, 2, 0, 1, [⟨1, 1, 1, 0x100, none⟩], [], .open_⟩

set_option maxRecDepth 100000 in
theorem witness_CollectiveIssues :
    let s := pair kColl launch0
    let k := s.ik
    let de := k.vEnt 8
    let bs := k.imgBytes de 0 64
    let x : XcidCtx := ⟨0, 0, 1, 2, []⟩
    let field := fun (o m : Nat) => ofLe ((bs.drop o).take m)
    4 ≤ ((withColls 4 kColl).eng.colls[0]).length ∧ (k.eng.colls[0]).length < 4 ∧ (at_ 6 kRun).ik.viewOk 8 = false
    ∧ k.viewOk 8 = true ∧ entTag de = .raw32 ∧ 16 ≤ entRows de * entCols de ∧ 0 ∈ s.groupOf 0 1
    ∧ field 16 4 = 16 ∧ field 32 28 = 0 ∧ s.xcidOf 0 (field 20 2) (s.groupOf 0 1).length = some x ∧ x.m = (s.groupOf 0 1).length
    ∧ field 22 2 < x.count * x.m ∧ k.permits 0 8 true = true ∧ k.bankBusy (descUse de (s.cyc 0 + 1)) = false
    ∧ s.now ≤ (BitVec.ofNat 64 (field 24 8)).toNat * tick
    ∧ (∀ q ∈ s.insts, ¬ (q.2.launch = s.launchNo 0 ∧ q.2.g = 1 ∧ q.2.k = 1))
    ∧ (let t := { s with insts := [(5, inst0)] }
      5 ≠ t.nextKey ∧ t.insts.find? (fun q => q.2.launch = s.launchNo 0 && q.2.g = 1 && q.2.k = 1) = some (5, inst0)
      ∧ inst0.st = .open_ ∧ inst0.count = field 16 4 ∧ inst0.xcid = field 20 2 ∧ inst0.root = field 22 2
      ∧ inst0.deadline = BitVec.ofNat 64 (field 24 8) ∧ inst0.m = (s.groupOf 0 1).length ∧ inst0.devRank = x.rank
      ∧ inst0.devCount = x.count) := by decide

set_option maxRecDepth 100000 in
/-- The first arrival names a ROOT beyond the two ranks; a later one an operation that the first did not. -/
theorem witness_CollectiveIssues_mismatch :
    let s := pair (kDesc [(1, 0x10), (9, 0x20), (16, 16), (22, 2), (24, 0x40), (25, 0x42), (26, 0x0F)]) launch0
    let x : XcidCtx := ⟨0, 0, 1, 2, []⟩
    ¬ ofLe (((s.ik.imgBytes (s.ik.vEnt 8) 0 64).drop 22).take 2) < x.count * x.m ∧ s.insts = [] ∧ ¬ inst0.op = .maxF32 := by decide

/-- Core 0 in an exchange phase, with commands in progress. -/
def inX (l : List XCmd) : Core := withV 1 .fp32 { kRun with x := ⟨true, l, [], false, []⟩ }

theorem witness_ExchangeIssues :
    let s := at_ 4 (inX [])
    let b := at_ 4 (inX [⟨0, 2, 0, 1, 0, 16, 0, 1, 0, 0x100⟩])
    let m : XCmd := ⟨0, 2, 0, 1, 0, 16, 0, 1, 0, 0x100⟩
    s.ik.x.on = true ∧ (at_ 4 kRun).ik.x.on = false ∧ (∀ t ∈ (at_ 4 kRun).ik.fl.units.vU.toList, ¬ 0 < t)
    ∧ (at_ 4 kRun).pipeBusy 0 = false ∧ (at_ 4 kRun).drainBusy 0 = false
    ∧ ¬ (∀ t ∈ ({ kRun with fl := { kRun.fl with units := { kRun.fl.units with vU := kRun.fl.units.vU.set 0 9 } } } : Core).fl.units.vU.toList, ¬ 0 < t)
    ∧ (∃ n ∈ b.ik.x.cmds, n.active 0 = true) ∧ (∀ n ∈ s.ik.x.cmds, n.active 0 = false)
    ∧ (Instr.xtx 2 1 0 16).wellFormed = true ∧ (Instr.xrx 2 1 0 16).wellFormed = true ∧ (Instr.xsel 2 3 4).wellFormed = true
    ∧ b.ik.x.clash m = true ∧ s.ik.x.clash m = false
    ∧ (s.ik.vec.v.toArray.getD 1 .zero).tag ≠ .none ∧ (s.ik.vec.v.toArray.getD 1 .zero).sc = false ∧ (0 + 16 + 15) / 16 = 1
    ∧ (s.ik.vec.v.toArray.getD 2 .zero).tag = .none := by decide

/-! ### Witnesses: launches and gangs -/

/-- A package that has come up, whose partition 0 has die 0. -/
def up : State :=
  { State.reset with
    agenda := []
    pkg := { State.reset.pkg with bootst := 6 }
    ctxs := State.reset.ctxs.set 0 { Ctx.init with dies := [0], pcap := 0xFFFF } }

/-- An image whose gang is core 0 alone, in a timebase region of island 0. -/
def img1 : Image :=
  { img0 with
    regions := [⟨1, [0], 0, 13, 1, 1300, 0, 0, 0, 0⟩]
    groups := [⟨1, [0], true⟩] }

/-- Queue 3, enabled, with two entries at the start of the linear view; the entry at its head names the image there. -/
def queue3 (i : Image) : State :=
  { up with
    queues := [(3, ⟨0x40000000110, 0, 1⟩)]
    images := [(0x48000000000, i)]
    targets := [(9, ⟨[(0x11B, BitVec.ofNat 128 (7 * 2 ^ 64))], []⟩), (10, ⟨[(0x11B, BitVec.ofNat 128 (2 ^ 64))], []⟩)]
    mem := [(0x40000000004, 0x80), (0x40000000005, 4)] }

set_option maxRecDepth 100000 in
theorem witness_LaunchQueues :
    let s := queue3 img1
    let y := s.queue 3
    let base := getF y.ctl 12 52 * 4096
    s.hostUp = true ∧ getB (s.queue 4).ctl 8 = false ∧ y.head ≠ y.tail ∧ getB y.ctl 8 = true
    ∧ 2 ^ getF y.ctl 4 4 < ((5 : W32) - y.head).toNat
    ∧ (¬ base < 0x40000000000 ∧ ¬ 0x40000000000 + 2 ^ 39 ≤ base ∧ ¬ 0x40000000000 + 2 ^ 39 < base + 16 * 2
      ∧ ¬ 2 < ((2 : W32) - y.head).toNat)
    ∧ getF State.reset.pkg.bootst 0 4 ≠ 6 ∧ getF s.pkg.bootst 0 4 = 6 ∧ s.launches.all (fun l => l.2.queue ≠ 3 || l.2.st = .retired) = true
    ∧ 3 / 32 = (0 : Fin 8).val := by decide

/-- The other queues of a partition are not enabled. -/
theorem witness_LaunchQueues_idle : ∀ p, p ≠ 3 → getB ((queue3 img1).queue p).ctl 8 = false := by
  intro p h
  simp [State.queue, queue3, AMap.get?, h]
  rfl

/-- Launch 5 of queue 3, in a state of its own. -/
def launch5 (st : LSt) : Launch := ⟨0, 3, 0, img1, st, .ok, []⟩

set_option maxRecDepth 100000 in
theorem witness_LaunchQueues_heads :
    let s := queue3 img1
    let y := s.queue 3
    let taken := { s with launches := [(5, { launch5 .running with queue := 4 })], cores := [(0, { kRun with seq := { kRun.seq with launch := some 5 } })] }
    s.pkg.lost0 = false ∧ (imageCores img1).any s.coreLost = false ∧ (s.entryImage 3 y.head.toNat).2 = some img1 ∧ s.regionsOk img1 = true
    ∧ (s.launchOk 0 img1 && s.routesOk ⟨0, 3, 0, img1, .admitting, .ok, s.gangsOver img1⟩) = true
    ∧ (({ s with images := [] } : State).entryImage 3 y.head.toNat).2 = none
    ∧ s.agentOk 0x11B 0x40000000000 none .write = true ∧ ({ s with targets := [] } : State).agentOk 0x11B 0x40000000000 none .write = false
    ∧ s.mayTake (getF y.ctl 2 2) img1 = true ∧ taken.mayTake 0 img1 = false := by decide

set_option maxRecDepth 100000 in
theorem witness_LaunchQueues_admitted :
    let x := launch5 .admitting
    let s := { queue3 img1 with launches := [(5, x)] }
    AMap.get? s.launches 5 = some x ∧ x.st = .admitting ∧ x.ctx < 8 ∧ x.preempted = []
    ∧ (∀ c ∈ imageCores x.img, (s.core c).seq.launch = none)
    ∧ s.launchLost x = false ∧ s.routesOk x = true ∧ s.overCap x = false ∧ s.predsDone x = true ∧ s.startPassed x.img = false
    ∧ ({ s with pkg := { s.pkg with lost0 := true } } : State).launchLost x = true := by decide

set_option maxRecDepth 100000 in
theorem witness_LaunchQueues_retires :
    let x := launch5 .running
    let s := { queue3 img1 with
      launches := [(5, x)]
      cores := [(0, { Core.init with seq := { Core.init.seq with launch := some 5 } })] }
    AMap.get? s.launches 5 = some x ∧ (∀ p ∈ s.launchCores 5, p.2.tasked false = false) ∧ s.unfinished 5 x = false := by decide

/-- Gang 5 of core 0, in a state of its own, core 0 being as given. -/
def gangIn (st : GSt) (k : Core) : State := inGang { gang5 with st := st } k

def kTask : TaskEnt := ⟨0x100, 0, false, 0, false⟩

set_option maxRecDepth 100000 in
theorem witness_GangMoves :
    let stop := gangIn .stopping kRun
    let save := gangIn .saving { kRun with seq := { kRun.seq with st := .suspend } }
    let back := { gangIn .restoring kRun with gangs := [(5, { gang5 with st := .restoring, saved := [(0, kRun)] })], cores := [] }
    let wait := gangIn .restoring kRun
    let due := { wait with gangs := [(5, { gang5 with st := .restoring, resumeT := 1 })], now := 5 }
    AMap.get? stop.gangs 5 = some { gang5 with st := .stopping } ∧ gang5.stopT ≤ stop.now
    ∧ (gangIn .stopping kPriv).unsavable gang5 = true ∧ stop.unsavable gang5 = false
    ∧ (∀ d ∈ gang5.cores, stop.lockedRegion (stop.core d) = none ∧ (stop.core d).seq.st = .run)
    ∧ (∀ d ∈ gang5.cores, (save.core d).seq.st = .suspend) ∧ gang5.cores.any save.underWay = false
    ∧ (∀ d ∈ gang5.cores, (back.core d).seq.launch = none)
    ∧ (∀ d ∈ gang5.cores, save.grantsKind (coreDie d) 0x11B .write = false)
    ∧ (let yes := fun (s : State) => { s with targets := [(0, ⟨[(0x11B, BitVec.ofNat 128 (7 * 2 ^ 64 + 1))], []⟩)] }
      ∀ d ∈ gang5.cores, (yes save).grantsKind (coreDie d) 0x11B .write = true ∧ (yes back).grantsKind (coreDie d) 0x11B .read = true)
    ∧ gang5.saved = [] ∧ gang5.cores.any wait.resyncing = false ∧ gang5.resumeT = 0
    ∧ (AMap.get? due.gangs 5).isSome = true ∧ 1 ≤ due.now ∧ gang5.cores.Nodup := by decide

set_option maxRecDepth 100000 in
theorem witness_GangMoves_halts :
    let x := { gang5 with st := .halting, cores := [0, 1], trapped := [0] }
    let s := { inGang x kRun with cores := [(0, kPriv), (1, kRun)] }
    let z := { gang5 with st := .halted, trapped := [0], retts := [(0, 3)] }
    let k := { kPriv with seq := { kPriv.seq with st := .halt } }
    x.haltT ≤ s.now ∧ x.step = 0 ∧ 1 ∉ x.trapped ∧ s.inst 1 (s.first 1 x.haltT) ≤ s.now ∧ (s.core 1).halts = true
    ∧ z.restartT ≤ s.now ∧ z.ready = true ∧ z.retts ≠ [] ∧ ((inGang z k).core 0).seq.st = .halt ∧ (∃ r ∈ z.retts, r.1 = 0)
    ∧ ((inGang z k).core 0).priv = true := by decide

set_option maxRecDepth 100000 in
theorem witness_GangMoves_tasks :
    let k := { Core.init with prog := { Core.init.prog with tasks := [kTask] }, seq := { Core.init.seq with launch := some 3, counting := true } }
    let s := { inGang gang5 kRun with cores := [(0, k)], launches := [(3, launch0)] }
    k.prog.tasks = kTask :: [] ∧ s.launchOf 0 = some (3, launch0) ∧ k.seq.st = .idle ∧ k.prog.cur = none ∧ kTask.start ≤ s.now
    ∧ k.prog.firstDone = false ∧ ({ k.prog with firstDone := true } : Prog).firstDone = true := by decide

/-! ### Witnesses: clocks -/

/-- Region 9 takes its frames of one sample from port 0. -/
def region9 (st : RSt) : Region := ⟨3, ⟨1, [0], 1, 100, 1, 64, 1000, 16, 100, 10⟩, st, 0, 0, 212992, 100, 0, 0, true, 0, none, true, false, false, none, 0⟩

def clocked (g : Region) (p : Port) : State := { up with regions := [(9, g)], ports := State.reset.ports.set 0 p }

def port0 : Port := { Port.init with spcfg := 0x1000001 }

def frame0 : PortFrame := ⟨[1, 2, 3, 4], 1, 0, 1⟩

set_option maxRecDepth 100000 in
theorem witness_ClocksAndSources :
    let s := clocked (region9 .running) port0
    let onPtp := { s.pkg with disc := .ptp 2, ptp := [(1, ⟨128, 6, 33, 0, 128, 7, 1, 7⟩)] }
    s.pkg.disc = .none ∧ s.pkg.bestPort ≠ some 1 ∧ onPtp.bestPort = some 1 ∧ onPtp.disc = .ptp 2 ∧ s.launches = []
    ∧ ({ onPtp with ptp := AMap.del onPtp.ptp 1 } : Pkg).bestPort = none ∧ ({ s.pkg with disc := .pins } : Pkg).disc = .pins
    ∧ ({ s.pkg with disc := .holdover 0 0 } : Pkg).disc = .holdover 0 0
    ∧ (∃ l ∈ ({ s with launches := [(5, launch5 .running)] } : State).launches, l.2.st ≠ .retired)
    ∧ getF ({ s with pkg := { s.pkg with bootst := 4 } } : State).pkg.bootst 0 4 = 4
    ∧ getF ({ s with pkg := { s.pkg with bootst := 4 } } : State).pkg.bootst 8 8 = 0 ∧ s.agenda = []
    ∧ (State.reset.port 0).mode = 0 ∧ port0.mode = 1 ∧ ({ port0 with spcfg := 0x1000002 } : Port).mode = 2
    ∧ (2 : Fin 4).val ≠ getF port0.spcfg 22 2 ∧ (0 : Fin 4).val = getF port0.spcfg 22 2 ∧ 0 * tick ≤ s.now ∧ s.now < 5 * tick ∧ (∀ x ∈ s.ofPort 0, x.2.st = .running ∧ x.2.desc.q = 1) ∧ s.ofPort 0 ≠ []
    ∧ ¬ port0.rx.length + 1 < 1 ∧ port0.rx.length + 1 < 2 ∧ port0.taint = false
    ∧ (∃ x ∈ s.ofPort 0, ∀ y ∈ s.gangsOf x.2, y.2.st = .running) ∧ port0.slots = (.empty, .empty)
    ∧ (region9 .stopped).desc.src = 0 + 1 ∧ (region9 .relocking).st = .relocking ∧ { region9 .relocking with locked := false }.locked = false
    ∧ { region9 .relocking with started := false }.started = false := by decide

set_option maxRecDepth 100000 in
theorem witness_ClocksAndSources_frames :
    let g := region9 .running
    let s := { clocked g port0 with now := instOf (some g) 100 }
    let t := { s with ports := State.reset.ports.set 0 { port0 with slots := (.ready frame0, .empty), ivl := 13000, ivl2 := 13000 } }
    let h := region9 .held
    let stopAt := h.lastLand + h.desc.holdlim * h.desc.q * h.desc.nper * nperUnit
    (0 < stopAt ∧ stopAt ≤ 9 * stopAt) ∧ (∀ d ∈ s.liveIn 9, (s.core d).working (s.cyc d) = false)
    ∧ g.st = .running ∧ s.now = instOf (some g) (g.fbase + g.desc.p) ∧ g.reads = none ∧ s.gangsOf g = []
    ∧ (s.port 0).oldest 0 = none ∧ (t.port 0).oldest 0 = some frame0 ∧ (t.port 0).ivl = g.desc.nper * nperUnit
    ∧ 10000000 * nperUnit = 130000000 ∧ tbCycle * 100 ≤ 130000000 ∧ 130000000 ≤ 2129920 * 100 := by decide

/-- Core 0 of a timebase region with frames of 1300 cycles, in cycle 1300. -/
def framed : State :=
  let g : Region := { region9 .running with desc := ⟨1, [0], 0, 13, 1, 1300, 0, 0, 0, 0⟩ }
  { inRegion g kRun with now := instOf none 1300 }

set_option maxRecDepth 100000 in
theorem witness_ClocksAndSources_timebase :
    let k := framed.core 0
    k.seq.counting = true ∧ framed.frameLen k ≠ 0 ∧ k.cifAt (framed.cyc 0) = BitVec.ofNat 32 (framed.frameLen k)
    ∧ framed.coreLost 0 = false ∧ framed.lockedRegion k = none := by decide

/-! ### Witnesses: the sequencer -/

/-- Core 0 at VA 0x100 with pinned text there, armed for cycle 0. -/
def kText (bs : List Byte) (f : Core → Core) : State :=
  at_ 0 (f { kTimed with prog := { kTimed.prog with text := [(0x100, bs)] } })

/-- A header with STOP and one S slot, then S NOP; the same with a stamp; one with an M slot of stamp 5; one with a reserved bit. -/
def plain : List Byte := [1, 1, 0, 0, 0, 0]
def stampedBy (n : Nat) : List Byte := [0x20, 1, 0, 0, 0, 0] ++ leBytes 4 (n * 16)
def broken : List Byte := [1, 0x11]

set_option maxRecDepth 100000 in
theorem witness_SequencerEvents :
    let s := kText plain id
    let k := s.core 0
    (k.seq.armed = true ∧ k.seq.stepDue = false ∧ k.seq.reach ≤ s.cyc 0 ∧ k.seq.st = .run ∧ k.seq.counting = true)
    ∧ s.headGap 0 k.seq.pc = 0 ∧ k.seq.kind = .none ∧ k.seq.late = none ∧ k.priv = false
    ∧ (kText [1, 3, 0, 0, 0, 0] id).headGap 0 k.seq.pc = 1
    ∧ (kText plain (fun k => { k with seq := { k.seq with late := some 4 } })).ik.seq.late = some 4
    ∧ (kText [1] id).fetch 0 0x100 = .fault 0x101 false ∧ (kText broken id).fetch 0 0x100 = .illegal 0x100
    ∧ s.fetch 0 0x100 = .group [⟨0, 0, 0x100⟩] 0x106 none
    ∧ (k.ui.overrun = false ∧ k.seq.held = [] ∧ startsRett [⟨0, 0, 0x100⟩] = false) ∧ k.seq.reenter = none
    ∧ k.timed = true ∧ k.inui = false ∧ s.fetchHeld 0 0x100 = none ∧ kPriv.priv = true
    ∧ startsRett [⟨0, 0x60000000, 0x100⟩] = true ∧ kPriv.oldsOut = false
    ∧ ({ kPriv with eng := { kPriv.eng with amos := [{ amoOne with priv := true }] } } : Core).oldsOut = true := by decide

set_option maxRecDepth 100000 in
theorem witness_SequencerEvents_stamps :
    let late := fun (st : Nat) => (st + 2 ^ 20 - ((kText (stampedBy st) id).ik.cifAt 0).toNat % 2 ^ 20) % 2 ^ 20
    (kText (stampedBy 5) id).fetch 0 0x100 = .group [⟨5, 343597383680, 0x100⟩] 0x10A (some 5)
    ∧ (kText (stampedBy 0x80005) id).fetch 0 0x100 = .group [⟨5, 36029140616347648, 0x100⟩] 0x10A (some 0x80005)
    ∧ late 5 ≠ 0 ∧ late 5 < 2 ^ 19 ∧ 2 ^ 19 ≤ late 0x80005 ∧ late 0 = 0 := by decide

theorem witness_SequencerEvents_windows :
    let k := { kRun with
      ui := { kRun.ui with win := some 40, opened := 3, pend := [(7, 2), (7, 5)] }
      seq := { kRun.seq with kind := .uiwin } }
    let q := { kRun with seq := { kRun.seq with twLeave := some (5, true), kind := .twait, st := .wait } }
    k.ui.win = some 40 ∧ (7, 2) ∈ k.ui.pend ∧ (∀ p ∈ k.ui.pend, 7 < p.1 ∨ (7 = p.1 ∧ 2 ≤ p.2)) ∧ k.inui = false ∧ k.priv = false
    ∧ k.ui.opened < 8 ∧ k.seq.st = .run ∧ k.seq.kind = .uiwin ∧ kRun.ui.pend = [] ∧ 40 < 41
    ∧ q.seq.twLeave = some (5, true) ∧ q.seq.kind = .twait ∧ q.seq.reach = 0 ∧ q.seq.armed = true ∧ q.seq.st = .wait
    ∧ kRun.seq.twLeave = none ∧ Core.init.seq.armed = false ∧ kRun.seq.stepDue = false ∧ (7 ∈ [7]) ∧ 7 ∉ kRun.seq.realign
    ∧ ({ kRun.seq with held := [(0x17, 0x40, 1)] } : Seq).held = [(0x17, 0x40, 1)] ∧ 0x17 < 256 := by decide

/-! ### Witnesses: engines at work -/

/-- A 1 GiB page maps VA 0 on; the queue of the launch may make every access to it. -/
def mapped (k : Core) : State :=
  { up with
    ctxs := State.reset.ctxs.set 0 { Ctx.init with dies := [0], ptbase := 0x1000 }
    cores := [(0, inLaunch k), (1, inLaunch kTile)]
    launches := [(3, launch0)]
    targets := [(0, ⟨[(0, BitVec.ofNat 128 (7 * 2 ^ 64 + 1))], []⟩)]
    pkg := { up.pkg with keys := [(0, 0)] }
    mem := [(0x1000, 1), (0x1003, 2), (0x2000, 0x7F), (0x2001, 2)] }

def copyDesc0 : CDesc := copyDesc [0, 0x10, 0, 0, 0, 0, 0, 0, 0, 0, 0, 0, 0, 0, 0, 0, 64, 0, 0, 0, 1, 0, 1, 0]

def copyOf (op : CopyOp) : CopyCmd := { copyOne with op := op, started := true, desc := { copyDesc0 with lv := 7, fv := 7, fcore := 1 }, lindex := 1 }

def sends (x : CopyCmd) : State := mapped (withChan [x] kCopy)

def page0 : W64 := 0x27F
def req0 : Req := ⟨0x1000, 0x1000, page0, 30⟩

set_option maxRecDepth 100000 in
theorem witness_CopyEvents :
    let s := sends (copyOf .inn)
    let x := copyOf .inn
    let k := s.core 0
    let t := sends { x with rq := some req0 }
    k.eng.chans[0] = [x] ∧ x.started = true ∧ ({ x with started := false } : CopyCmd).waits = [] ∧ k.seq.st ≠ .suspend
    ∧ ({ Port.init with spcfg := 0x1000003 } : Port).mode = 3 ∧ Port.init.units = []
    ∧ x.desc.total = 64 ∧ x.pos = 0 ∧ x.code = 0 ∧ x.rq = none ∧ (k.nextReq x).1 = 0x1000
    ∧ s.walk (s.ctxOf 0) 0x80000000000000 = none ∧ fld 0x1000 57 7 = 0
    ∧ s.walk (s.ctxOf 0) 0x1000 = some (0, 0, 30, page0)
    ∧ s.through 0 0x1000 (0, 0, 30, page0) .read false = some ⟨0x1000, 0, false, false, 0, 0, page0, 30⟩
    ∧ s.through 0 0x1000 (0, 0, 30, page0 &&& 0xFFFFFFFFFFFFFFFD) .read false = none
    ∧ s.dpa req0.dpa = some (0, 0x1000) ∧ s.migrOf 0x1000 true = none ∧ s.migrOf 0x1000 false = none
    ∧ t.grants 0 (t.masterOf 0) .read (pteKey page0) = true ∧ ({ t with targets := [] } : State).grants 0 (t.masterOf 0) .read 0 = false
    ∧ pteChk page0 = false := by decide

/-- Requests of a core for banks (R85). -/
def asks (l : List BankReq) (k : Core) : Core := { k with fl := { k.fl with reqs := l } }

def taken (k : Core) : Core := { k with fl := { k.fl with claims := [⟨0, 0, 0, 0, 0, none⟩] } }

set_option maxRecDepth 100000 in
/-- A request of a copy, of the descriptor's line at its end and of a beat: it takes part in cycle 0 and is served, or its bank is taken. -/
theorem witness_CopyEvents_banks :
    let s := sends (copyOf .x)
    let le := s.ik.ent 1
    let de := s.ik.ent 2
    let q : BankReq := ⟨(0, 0), entBank le 0, 0, some 0, false, none⟩
    let z : BankReq := ⟨(0, 0), entBank de 0, 0, some 0, false, none⟩
    let b : BankReq := ⟨(5, 0), entBank le 0, 0, some 0, false, some (1, 0, le)⟩
    (∀ c, c < 2 → s.now = s.inst c (s.cyc c)) ∧ s.ik.held = false ∧ s.ik.asking (0, 0) 0 = false
    ∧ (asks [q] s.ik).asking (0, 0) 0 = true ∧ (asks [q] s.ik).served (0, 0) (entBank le (s.ik.localAt (copyOf .x) 0 / 64)) 0 = true
    ∧ (taken (asks [q] s.ik)).served (0, 0) (entBank le (s.ik.localAt (copyOf .x) 0 / 64)) 0 = false
    ∧ (asks [z] s.ik).asking (0, 0) 0 = true ∧ (asks [z] s.ik).served (0, 0) (entBank de 0) 0 = true
    ∧ (asks [b] s.ik).asking (5, 0) 0 = true ∧ (asks [b] s.ik).served (5, 0) (entBank le (0 / 64)) 0 = true
    ∧ (asks [b] s.ik).gotOf (5, 0) = some (1, 0, le) ∧ s.ik.gotOf (5, 0) = none ∧ (asks [b] s.ik).letBy (5, 0) 0 = false
    ∧ (asks [{ b with passed := true }] s.ik).letBy (5, 0) 0 = true
    ∧ (taken (asks [b] s.ik)).served (5, 0) (entBank le (0 / 64)) 0 = false
    ∧ (s.landCore 1).permits 8 7 true = true ∧ ((mapped (kView (ent 3 .fp32))).landCore 0).permits 8 7 true = false
    ∧ s.racing (s.launchNo 0) 0 0 0x1000 = false := by decide

set_option maxRecDepth 100000 in
theorem witness_CopyEvents_beats :
    let x := copyOf .x
    let s := sends x
    let b : Beat := ⟨0, 0, 0, 7, 0, [(0, 1), (1, 2)], none⟩
    let k := s.core 1
    (s.core 0).running 0 = some x ∧ x.id = b.cmd ∧ s.receives 1 = true ∧ k.seq.launch = (s.core 0).seq.launch ∧ x.rent = none
    ∧ k.viewOk 7 = true ∧ k.viewOk 6 = false ∧ 0 + 2 ≤ entSize (k.ent (k.view 7).index.toNat)
    ∧ entSize (k.ent (k.view 7).index.toNat) < 4095 + 2
    ∧ k.permits 8 7 true = true ∧ entTag (k.ent (k.view 7).index.toNat) ≠ cpyaTag .addBf16
    ∧ (at_ 0 { kRun with seq := { kRun.seq with st := .suspend } }).receives 0 = false := by decide

def drain0 : DrainCmd := ⟨0, [], 0x100, some (7, 1), [], [], [⟨0, 9, 0xFF⟩], 0, true, 0, 0⟩

def withCube (f : Cube → Cube) (k : Core) : Core := { k with cube := f k.cube }

set_option maxRecDepth 100000 in
theorem witness_CommandEvents_cube :
    let k := withCube (fun q => { q with pipe := some pipe0, drains := [drain0] }) kRun
    kRun.cube.pipe = none ∧ kRun.cube.mtile = none ∧ kRun.cube.drains = [] ∧ 31 < k.pipeEnd pipe0 ∧ k.pipeEnd pipe0 ≤ 32
    ∧ 23 < k.drainEnd drain0 ∧ k.drainEnd drain0 ≤ 24 ∧ drain0.bytes ≠ [] := by decide

/-- The macro tile of view 9 in its first tile, before a step. -/
def tileAt (step : Nat) (hold : Bool) : MacroTile :=
  ⟨false, 0x100, kMtile.imgBytes (kMtile.vEnt 9) 0 64, 0, 0, step, 0, 1, hold, false, [], 0⟩

/-- A core in an ASYNC phase with a queued cube command. -/
def kFollow (w : W64) : Core :=
  let k := kCube 0
  { k with
    prog := { k.prog with phase := some (0, ⟨true, List.replicate 9 (BitVec.allOnes 256), List.replicate 9 (BitVec.allOnes 256)⟩) }
    cube := { k.cube with queue := [⟨w, 0x100⟩] } }

set_option maxRecDepth 100000 in
theorem witness_CommandEvents_tiles :
    let m := tileAt 1 false
    let td := mtileDesc m.desc
    let k := withCube (fun q => { q with mtile := some m }) kMtile
    let s := { State.reset with agenda := [], cores := [(0, k)], now := tbCycle }
    let step := s.tileStep 0 m.tri td m.q (m.step - 1) ⟨m.pc, 0, m.ccfg, false, m.issued, 0⟩
    m.next ≤ s.cyc 0 ∧ cdiv td.k (Nat.max 1 (k.tileKt td)) = 1 ∧ td.tiles = 1 ∧ m.q + 1 = td.tiles
    ∧ m.q + 1 ≠ ({ td with m := 64 } : TileDesc_).tiles ∧ k.cube.pipe = none ∧ m.step ≤ 1 ∧ firstFail [step.pre, step.chk] = none
    ∧ k.seq.st = .run ∧ k.priv = false ∧ k.dbg.attach = false
    ∧ (let d := { State.reset with agenda := [], cores := [(0, withCube (fun q => { q with mtile := some (tileAt 2 false), drainUntil := 40 }) kMtile)] }
      d.drainBusy 0 = true ∧ (tileAt 2 false).step = 1 + 1)
    ∧ (withCube (fun q => { q with mtile := some m, pipe := some pipe0 }) kMtile).cube.pipe = some pipe0 := by decide

/-- The same tile with INT8 planes under FP32 codes: its first step is refused. -/
def badTile : State :=
  let k := withCube (fun q => { q with mtile := some (tileAt 1 false), lat := Vector.replicate 4 ⟨32, 32, [], .int8, false, 0, []⟩ }) kMtile
  { State.reset with agenda := [], cores := [(0, k)], now := tbCycle }

set_option maxRecDepth 100000 in
theorem witness_CommandEvents_tile_fault :
    let m := tileAt 1 false
    let step := badTile.tileStep 0 m.tri (mtileDesc m.desc) m.q (m.step - 1) ⟨m.pc, 0, m.ccfg, false, m.issued, 0⟩
    (firstFail [step.pre, step.chk]).isSome = true := by decide

/-- A word that is no instruction, and the words of R215's NADV and of MZERO with no stamp. -/
def wBad : W64 := 0xFF00000000000000
def wZero : W64 := 0x02FFFFF100000000
def wAdv : W64 := 0x0DFFFFF000000001
def wDrain : W64 := 0x07FFFFF007080000

set_option maxRecDepth 100000 in
theorem witness_CommandEvents_queue :
    let k := kFollow wBad
    k.async = true ∧ k.seq.st ≠ .suspend ∧ k.cube.queue = [⟨wBad, 0x100⟩] ∧ kRun.async = false ∧ k.cube.mtile = none ∧ k.cube.pipe = none
    ∧ decodeSlot .m wBad.toNat = .bad .illegalOp ∧ decodeSlot .m wZero.toNat = .ok (.mzero 0xFFFFF 1)
    ∧ decodeSlot .m wAdv.toNat = .ok (.nadv 0xFFFFF 0 1) ∧ decodeSlot .m wDrain.toNat = .ok (.mdrain 0xFFFFF 0 7 8 0)
    ∧ (let s := at_ 5 (withPipe { pipe0 with acc := some 0 } k); s.accBusy 0 0 = true ∧ s.drainBusy 0 = false ∧ s.ik.held = false)
    ∧ (k.ring 0).bound = true ∧ (k.ring 0).depth < (k.ring 0).fill + 5 ∧ (k.ring 0).fill + 1 ≤ (k.ring 0).depth := by decide

/-- An atomic of 8 bytes at VA 0x1000 whose request has been translated. -/
def amoAt (va : W64) : AmoCmd := { amoOne with addr := va, issued := true, rq := some req0, dest := 4 }

def kAtomics (amos scs : List AmoCmd) (f : List FenceRec) : Core :=
  { kRun with eng := { kRun.eng with amos := amos, scs := scs, fences := f, tlb := [(0, 0, 30, page0)] } }

set_option maxRecDepth 100000 in
theorem witness_CommandEvents_atomics :
    let x := amoAt 0x1000
    let s := mapped (kAtomics [x] [] [])
    let k := s.core 0
    let done := { x with performed := true }
    k.eng.amos.find? (fun y => y.id = 1) = some x ∧ x.performed = false ∧ x.issued = true ∧ s.dpa req0.dpa = some (0, 0x1000)
    ∧ s.migrOf 0x1000 true = none ∧ s.migrOf 0x1000 false = none
    ∧ s.grants 0 (s.masterOf 0) .atomic (pteKey page0) = true ∧ ({ s with targets := [] } : State).grants 0 (s.masterOf 0) .atomic 0 = false
    ∧ done.landed = false ∧ ({ done with landed := true } : AmoCmd).landed = true
    ∧ (mapped (kAtomics [done] [] [])).ik.eng.amos.find? (fun y => y.id = 1 && y.performed) = some done
    ∧ (mapped (kAtomics [] [done] [])).ik.eng.scs.find? (fun y => y.id = 1 && y.performed) = some done := by decide

set_option maxRecDepth 100000 in
theorem witness_CommandEvents_sc :
    let x := { amoAt 0x1000 with w0 := 12 }
    let y := { amoAt 0x1004 with w0 := 12 }
    let s := { mapped (kAtomics [] [x] []) with now := 268 * tbCycle }
    s.ik.eng.scs.find? (fun y => y.id = 1) = some x ∧ (x.w0 + 256) * tbCycle ≤ s.now ∧ 0 < (x.w0 + 256) * tbCycle ∧ x.waits = [] ∧ y.addr.toNat % y.width ≠ 0
    ∧ x.addr.toNat % x.width = 0 ∧ fld x.addr.toNat 57 7 = 0 ∧ s.tlbLook 0 0x1000 = some (0, 0, 30, page0)
    ∧ s.through 0 0x1000 (0, 0, 30, page0) .atomic x.priv = some ⟨0x1000, 0, false, false, 0, 0, page0, 30⟩
    ∧ s.migrOf 0x1000 true = none ∧ s.migrOf 0x1000 false = none := by decide

theorem witness_CommandEvents_fences :
    let f : FenceRec := ⟨9, .p, [1], 0x100⟩
    let k := kAtomics [amoAt 0x1000] [] [f]
    let q := { kAtomics [] [] [f] with eng := { (kAtomics [] [] [f]).eng with rendez := [⟨9, none, some 5, 0x100⟩] } }
    k.eng.fences.find? (fun y => y.id = 9) = some f ∧ f.covers.all (fun i => k.metBy f.scope i) = false
    ∧ f.covers.all (fun i => q.metBy f.scope i) = true ∧ (q.eng.rendez.find? (fun y : Rendez => y.fence = 9)) = some ⟨9, none, some 5, 0x100⟩
    ∧ (at_ 0 kRun).latefault 0 = false := by decide

/-! ### Witnesses: collectives at work -/

def collOne : CollCmd := ⟨1, 0, 5, true, 0x100, false, 8, 2, 0x3000, 0x4000, 16, [], 0, 0, false, none, 0, 0, 0, true⟩

def withColl (y : CollCmd) (k : Core) : Core := { k with eng := { k.eng with colls := k.eng.colls.set 0 [y] } }

/-- Core 0 alone takes part in instance 5. -/
def collIn (x : CollInst) (y : CollCmd) : State := { mapped (withColl y kColl) with insts := [(5, x)] }

def instOf5 (st : CollSt) : CollInst := { inst0 with m := 1, st := st, parts := [⟨0, 0, 1, 0x100, none⟩] }

set_option maxRecDepth 100000 in
theorem witness_CollectiveEvents :
    let x := instOf5 .open_
    let s := collIn x collOne
    let k := s.core 0
    AMap.get? s.insts 5 = some x ∧ k.collOf 5 = some collOne ∧ k.seq.launch = some x.launch ∧ collOne.ch < 4
    ∧ collOne.sent = false ∧ collOne.code = none ∧ k.seq.st ≠ .suspend
    ∧ (instOf5 .aborted).over_ = some 9 ∧ (instOf5 .mismatch).over_ = some 10 ∧ x.over_ = none ∧ k.heldIds collOne.waits = []
    ∧ ({ k with eng := { k.eng with amos := [amoOne] } } : Core).heldIds [1] ≠ [] := by decide

set_option maxRecDepth 100000 in
/-- A command that is settled, in whose cycle the status word asks for its bank. -/
theorem witness_CollectiveEvents_status :
    let y := { collOne with code := some 9 }
    let s := collIn (instOf5 .aborted) y
    let k := s.core 0
    let q : BankReq := ⟨(7, 5), entBank (k.ent 2) 0, 0, some 0, false, none⟩
    k.collOf 5 = some y ∧ y.code = some 9 ∧ s.now = s.inst 0 (s.cyc 0) ∧ k.asking (7, 5) 0 = false
    ∧ (asks [q] k).asking (7, 5) 0 = true ∧ (asks [q] k).served (7, 5) (entBank (k.ent 2) 0) 0 = true
    ∧ (let w := { asks [q] k with fl := { (asks [q] k).fl with claims := [⟨0, entBank (k.ent 2) 0, 0, 0, 0, none⟩] } }
      w.served (7, 5) (entBank (k.ent 2) 0) 0 = false)
    ∧ up.hostUp = true ∧ ({ up with pkg := { up.pkg with bootst := 0x106 } } : State).hostUp = false := by decide

set_option maxRecDepth 100000 in
/-- Untimed text at VA 0x100 on a page that is locked. -/
theorem witness_SequencerEvents_held :
    let s := { mapped kRun with dies := [(0, { Die.init with migr := [⟨0, 0, 0, 12, 0, 0x80000000000, 0, 1, [], [], []⟩] })] }
    (s.core 0).timed = false ∧ (s.core 0).seq.pc = 0x100 ∧ (s.fetchHeld 0 0x100).isSome = true ∧ s.headGap 0 0x100 = 0 := by decide +kernel

/-- A collective engine may read and write the page whichever I/O die it is on, or none may. -/
def collMay (yes : Bool) : State :=
  { collIn (instOf5 .open_) collOne with
    targets := if yes then [(0, ⟨(List.range 4).map (fun i => (0x104 + i, BitVec.ofNat 128 (7 * 2 ^ 64 + 1))), []⟩)] else [] }

set_option maxRecDepth 100000 in
theorem witness_CollectiveEvents_reads :
    let for_ := fun (io : Nat) => (⟨3, 0, 0, 1, false, 0x100, io⟩ : CollFor)
    let read := fun (s : State) (io : Nat) => ((s.drawn.collSteps 0x07 0 (instOf5 .open_) 0).collRead (for_ io) 0 (bufLines 0x3000 4)).2
    let ok := fun (s : State) (io : Nat) => match read s io with | .ok bs => decide (bs = [0, 0, 0, 0]) | .error _ => false
    let no := fun (s : State) (io : Nat) => match read s io with | .ok _ => false | .error e => decide (e = (3, 0x3000))
    let row := Instr.collContribution 5 0
    let moving := { collMay true with dies := [(0, { Die.init with migr := [⟨0, 0, 0x3000, 12, 0x3000, 0x80000000000, 0, 1, [], [], []⟩] })] }
    (∀ io < 4, ok (collMay true) io = true) ∧ (∀ io < 4, no (collMay false) io = true)
    ∧ (∀ io < 4, ((collMay true).collHeld (for_ io) .read (bufLines 0x3000 4) row).isNone = true)
    ∧ ∀ io < 4, (moving.collHeld (for_ io) .read (bufLines 0x3000 4) row).isSome = true := by decide +kernel

/-- The other devices: two of them, of which this one is number 0. -/
def instFar (st : CollSt) (remote : AMap (List W32)) : CollInst :=
  { instOf5 st with xcid := 4, devCount := 2, remote := remote, parts := [⟨0, 0, 1, 0x100, some [1, 2]⟩] }

def xcid4 : XcidCtx := ⟨4, 0, 2, 1, [3]⟩

set_option maxRecDepth 100000 in
theorem witness_CollectiveEvents_far :
    let x := instFar .open_ []
    let s := { collIn (instFar .sent []) collOne with
      ctxs := State.reset.ctxs.set 0 { Ctx.init with dies := [0], ptbase := 0x1000, xcids := [xcid4] } }
    x.m ≤ x.parts.length ∧ (∀ p ∈ x.parts, p.data ≠ none)
    ∧ [[1, 2], [3, 4]].length = x.devCount ∧ x.devRank < x.devCount ∧ 2 ≤ x.devCount ∧ x.remote = []
    ∧ (AMap.get? (instFar .sent [(1, [3, 4])]).remote 1).isSome = true ∧ AMap.get? x.remote 1 = none ∧ 1 ≠ x.devRank
    ∧ s.xcidOk xcid4 = true ∧ s.xcidOk { xcid4 with m := 3 } = false ∧ s.ctxBusy 1 = false ∧ s.ctxBusy 0 = true
    ∧ x.xcid ≠ 0 ∧ s.onPlane (instFar .sent []) 3 = true := by decide

/-! ### Witnesses: sharing at work -/

/-- Core 0 subscribes view 7 of core 1's image; core 1 holds the forward entry 2. -/
def fwd0 (w : Option BatchWin) : FwdEnt := ⟨0, 2, 7, 1, 0, 8, w, false, 4, 0, none⟩

def shared (e : SubEnt) (f : FwdEnt) : State :=
  let q := inLaunch kTile
  { pair { kTile with sub := { kTile.sub with subs := [(2, e)] } } launch0 with
    cores := [(0, inLaunch { kTile with sub := { kTile.sub with subs := [(2, e)] } }),
      (1, { q with sub := { q.sub with fwds := [(2, f)], syncs := [⟨6, [], false⟩] } })] }

def sub7 (st : SubSt) : SubEnt := ⟨7, 1, 0, 1, 7, 8, st, 0x100⟩
def win0 : BatchWin := ⟨8, [(3, 9), (70, 1)]⟩
def line0 : SubLine := ⟨1, 2, 2, 5, [(3, 9)], false, true⟩

set_option maxRecDepth 100000 in
theorem witness_SharingEvents :
    let s := shared (sub7 .active) (fwd0 (some win0))
    let k := s.core 0
    let q := s.core 1
    AMap.get? k.sub.subs 2 = some (sub7 .active)
    ∧ (q.seq.launch = k.seq.launch ∧ q.viewOk 7 = true ∧ entSize (q.vEnt 7) = entSize (k.ent 1) ∧ q.sub.fwds.length < 32 ∧ s.running 1 = true)
    ∧ (at_ 0 kRun).ik.viewOk 7 = false
    ∧ AMap.get? q.sub.fwds 2 = some (fwd0 (some win0)) ∧ s.cyc 1 < win0.closeAt ∧ win0.closeAt ≤ ({ s with now := 8 * tbCycle } : State).cyc 1
    ∧ k.seq.launch = some 3 ∧ s.now = s.inst 0 (s.cyc 0) ∧ k.asking (4, 2) 0 = false
    ∧ (let w := asks [⟨(4, 2), entBank (k.ent 1) 0, 0, some 0, false, none⟩] k
      w.asking (4, 2) 0 = true ∧ w.served (4, 2) (entBank (k.ent 1) (3 / 64)) 0 = true
      ∧ (taken w).served (4, 2) (entBank (k.ent 1) (3 / 64)) 0 = false ∧ w.letBy (4, 2) 0 = false
      ∧ (asks [⟨(4, 2), entBank (k.ent 1) 0, 0, some 0, true, none⟩] k).letBy (4, 2) 0 = true)
    ∧ q.seq.st ≠ .suspend ∧ k.dropped line0 = false ∧ s.receives 0 = true ∧ k.bankTaken 0 (entBank (k.ent 1) 0) = false
    ∧ ({ k with fl := { k.fl with claims := [⟨0, 0, 0, 0, 0, none⟩] } } : Core).bankTaken 0 (entBank (k.ent 1) 0) = true
    ∧ (s.landCore 0).permits 7 7 true = true ∧ ((mapped (kView (ent 3 .fp32))).landCore 0).permits 7 7 true = false
    ∧ (fwd0 none).fresh = none ∧ q.seq.launch = some 3
    ∧ q.sub.fwds.find? (fun g => g.2.sub = 0 && g.2.slot = 2) = some (2, fwd0 (some win0))
    ∧ (sub7 .closing).st = .closing ∧ s.agenda = [] ∧ q.sub.syncs.find? (fun z => z.id = 6) = some ⟨6, [], false⟩ := by decide

set_option maxRecDepth 100000 in
theorem witness_SharingEvents_multicast :
    let s := shared (sub7 .active) (fwd0 none)
    let m : McStore := ⟨1, 3, 0x100, 7, 4096, []⟩
    s.lowerMc 0 1 = false ∧ s.receives 0 = true ∧ (s.core 0).seq.launch = some m.launch ∧ (s.core 0).viewOk 7 = true
    ∧ entSize ((s.core 0).vEnt 7) = 4096 ∧ (s.landCore 0).permits 8 7 true = true
    ∧ ((mapped (kView (ent 3 .fp32))).landCore 0).permits 8 7 true = false ∧ (s.core m.src).seq.launch = some m.launch
    ∧ (s.core 0).viewOk 6 = false := by decide

set_option maxRecDepth 100000 in
theorem witness_SharingEvents_rows :
    let m := fun (op : Nat) => (⟨op, 1, 0, 1, 0, 16, 0, 0, 0, 0x100⟩ : XCmd)
    let s := fun (op : Nat) => { pair (inX [m op]) launch0 with cores := [(0, inX [m op]), (1, kRun)] }
    let k := fun (op : Nat) => (s op).core 0
    let v : VReg := ⟨List.replicate 64 1, .fp32, false, 0, []⟩
    (k 0).x.on = true ∧ kRun.x.on = false ∧ (k 0).seq.counting = true ∧ (k 0).seq.st = .run ∧ (s 0).stopsNow 0 = false ∧ (k 1).seq.st = .run
    ∧ (s 1).stopsNow 0 = false ∧ Core.init.seq.st = .idle ∧ (k 0).x.cmds.filter (fun n => n.j < n.count && n.at_ = (s 0).cyc 0) = [m 0]
    ∧ (k 1).x.cmds.filter (fun n => n.j < n.count && n.at_ = (s 1).cyc 0) = [m 1] ∧ (s 0).neighbour 0 1 = some (1, 1)
    ∧ ((s 0).core 1).seq.st = .run ∧ (k 1).x.rowAt 1 0 = none ∧ ({ (k 1).x with arrive := [(1, 0, v)] } : Xchg).rowAt 1 0 = some v := by decide

/-- Crossing 5 within a launch with no regions listed: both ends keep the timebase, a sample being SDIV times ten ticks. -/
def crossing (f : Crossing → Crossing) : State := { pair kTile launch0 with cross := [(5, f cross0)], now := 900 * tick }

set_option maxRecDepth 100000 in
theorem witness_SharingEvents_crossings :
    let s := crossing id
    let y := { cross0 with recv := 1 }
    let tp := s.period cross0 0
    AMap.get? s.cross 5 = some cross0 ∧ tp = 80 * tick
    ∧ ((s.now : Int) - ((s.now : Int) + cross0.recv * tp)).tdiv tp = 0 ∧ ((s.now : Int) - ((y.t0 : Int) + y.recv * tp)).tdiv tp ≠ 0
    ∧ s.endState cross0 0 = 0 ∧ cross0.reanchor = false ∧ cross0.nextN < cross0.desc.lat ∧ cross0.desc.lat ≤ ({ cross0 with nextN := 2000 } : Crossing).nextN
    ∧ ({ cross0 with reanchor := true } : Crossing).reanchor = true
    ∧ cross0.missing 0 = true ∧ cross0.missing (-1) = false ∧ cross0.was = none
    ∧ ({ cross0 with was := some ⟨900 * tick, 4, 0, 0, 0⟩ } : Crossing).was = some ⟨900 * tick, 4, 0, 0, 0⟩
    ∧ s.ptc * tick ≤ 900 * tick := by decide

set_option maxRecDepth 100000 in
theorem witness_SharingEvents_reads :
    let r : SlipRes := ⟨9, [], 7, 1, 5, 0, 0, false, true, none, none⟩
    let t := { r with got := some [7, 8] }
    let k := { kTile with eng := { kTile.eng with slips := [r] } }
    k.eng.slips.find? (fun z => z.id = 9) = some r ∧ r.got = none ∧ t.got = some [7, 8]
    ∧ ({ t with todo := some [0] } : SlipRes).todo = some [0] ∧ k.asking (6, 9 * 16) 0 = false
    ∧ (let n := (t.lines 2).getD 0 0
      let w := asks [⟨(6, 9 * 16), entBank (k.ent 1) n, 0, some 0, false, none⟩] k
      w.asking (6, 9 * 16) 0 = true ∧ w.served (6, 9 * 16) (entBank (k.ent 1) n) 0 = true
      ∧ (taken w).served (6, 9 * 16) (entBank (k.ent 1) n) 0 = false) := by decide

/-! ### Witnesses: trace, inputs, shootdowns, migration -/

def record0 : TraceRec := ⟨5, 0x80, 0, 0, 7, 0, 9⟩

def traced (t : TraceSt) : State := { up with dies := [(0, { Die.init with tr := t })] }

set_option maxRecDepth 100000 in
theorem witness_EngineEvents_trace :
    let on : TraceSt := ⟨0x40000000031, 0, 0, false, 0, 0, [], 0⟩
    let full := { on with queue := [(0, record0)] }
    getB on.ctl 0 = true ∧ getB Die.init.tr.ctl 0 = false ∧ on.queue = [] ∧ full.queue = (0, record0) :: []
    ∧ (traced full).dpa (getF full.ctl 12 52 * 4096 + 32 * (0 % 2 ^ (getF full.ctl 1 5 - 5))) = some (9, 0x40000000000)
    ∧ (traced full).migrOf 0x40000000000 true = none ∧ (traced full).heldRow 0x40000000000 32 (.traceRecordPerformed 0) = none
    ∧ up.liveDie 0 = true ∧ up.hostUp = true ∧ getB (0x31 : W64) 0 = true ∧ 24 ≤ getF (0x31 : W64) 1 5 ∧ getF (0x31 : W64) 1 5 ≤ 30
    ∧ getF (0x2F : W64) 1 5 < 24 ∧ 30 < getF (0x3F : W64) 1 5 := by decide

/-- Port 0 in item mode with a queue of two entries; the first names a raw item of 1 by 1 by 1 at the start of die 0. -/
def itemPort : Port := { Port.init with spcfg := 3, iqctl := 0x40000000110, iqtail := 1, splim := 0xF00FF00FF, splim2 := 0xFFFFFFFFFFFF }

def itemed (p : Port) (bs : List (Nat × Byte)) : State :=
  { up with
    ports := State.reset.ports.set 0 p
    targets := [(0, ⟨[(0x100, BitVec.ofNat 128 (2 ^ 64))], []⟩), (9, ⟨[(0x100, BitVec.ofNat 128 (2 ^ 64))], []⟩)]
    mem := bs }

def word0 : List (Nat × Byte) := [(0x40000000000, 0), (0x40000000001, 0x10), (0x40000000008, 9)]
def item1 : List (Nat × Byte) := [(0x1000, 1), (0x1002, 1), (0x1004, 1), (0x1008, 0x55)] ++ word0
def entry1 : List Byte := [0, 0x10, 0, 0, 0, 0, 0, 0, 9, 0, 0, 0, 0, 0, 0, 0]
def raw1 : List Byte := [1, 0, 1, 0, 1, 0, 0, 0, 0x55]

set_option maxRecDepth 100000 in
theorem witness_EngineEvents_items :
    let s := itemed itemPort item1
    let q := itemPort
    let x : Item := ⟨raw1, 0, 3, 0, 0, 0⟩
    getB Port.init.iqctl 8 = false ∧ up.hostUp = true ∧ getB q.iqctl 8 = true ∧ 2 < ((5 : W32) - q.iqhead).toNat
    ∧ ¬ 2 < ((2 : W32) - q.iqhead).toNat ∧ Port.init.mode ≠ 3 ∧ q.mode = 3 ∧ q.iqhead + 0 ≠ q.iqtail
    ∧ ({ s with targets := [] } : State).agentOk 0x100 0x40000000000 none .read = false
    ∧ s.agentOk 0x100 0x40000000000 none .read = true ∧ s.heldRow 0x40000000000 16 (.itemAccept 0) = none
    ∧ s.heldRow 0x1000 9 (.itemAccept 0) = none
    ∧ (({ s with dies := [(9, { Die.init with migr := [⟨0, 0, 0, 12, flatDpa 0x40000000000, 0x80000000000, 0, 1, [], [], []⟩] })] } : State).heldRow
      0x40000000000 16 (.itemAccept 0)).isSome = true
    ∧ s.agentBytes 0x40000000000 16 none = entry1 ∧ descNum entry1 0 8 = 0x1000 ∧ s.dpa 0x1000 ≠ none ∧ s.dpa 0x30000000000 = none
    ∧ s.agentOk 0x100 0x1000 none .read = true ∧ ({ s with targets := s.targets.drop 1 } : State).agentOk 0x100 0x1000 none .read = false
    ∧ ({ s with targets := s.targets.drop 1 } : State).agentOk 0x100 0x40000000000 none .read = true
    ∧ s.agentBytes 0x1000 9 none = raw1 ∧ itemHead raw1 = some ⟨0, 1, 1, 1, none, true⟩ ∧ Port.init.items = []
    ∧ ({ q with items := [x] } : Port).items = [x] ∧ x.code = 0 ∧ ({ x with code := 13 } : Item).code ≠ 0 := by decide +kernel

set_option maxRecDepth 100000 in
theorem witness_EngineEvents_shootdowns :
    let h : Shoot := ⟨4, 0, 0, 4096, [0], [], [], none⟩
    let o : Outst := ⟨0, 1, 0⟩
    let s := { mapped (kAtomics [amoAt 0x1000] [] []) with shoots := [{ h with seen := [0], pend := [(0, o)] }] }
    (up.shoots = []) ∧ [h].filter (fun y => y.id = 4) = [h] ∧ h.dies.contains 0 = true
    ∧ [0].contains 0 = true ∧ s.stillOut o = true
    ∧ h.seen.contains 0 = false ∧ h.pend = [] ∧ up.cores = [] ∧ h.dies.filter (fun e => e ≠ 0) = []
    ∧ ({ h with dies := [0, 1] } : Shoot).dies.filter (fun e => e ≠ 0) ≠ []
    ∧ ({ h with migr := some (0, 0x4000) } : Shoot).migr = some ((0 : Fin 9).val, 0x4000) := by decide

theorem witness_EngineEvents_migration :
    let m := fun (st : Nat) => (⟨0, 0, 0x2000, 12, 0x4000, 0x80000000000, 0, st, [], [], []⟩ : Migr)
    let d : Die := { Die.init with migctl := BitVec.ofNat 64 (2 ^ 48 + 1), ivlEnd := 2000 * tick }
    (getB d.migctl 48 = true ∧ 2000 * tick = d.ivlEnd) ∧ getB Die.init.migctl 48 = false
    ∧ ([m 0] : List Migr) = [m 0] ∧ (m 0).old = 0x4000 ∧ (m 0).st = 0 ∧ (m 1).st = 1 ∧ (m 2).st = 2 ∧ (m 1).dirty = []
    ∧ Die.init.migr = [] := by decide

/-! ### Witnesses: the package -/

def busyCtx : State := { up with launches := [(5, launch5 .running)] }

set_option maxRecDepth 100000 in
theorem witness_PackageEvents_registers :
    let q : Port := { Port.init with iqctl := 0x100, iqtail := 1 }
    State.reset.hostUp = true ∧ ({ up with pkg := { up.pkg with bootst := 0x106 } } : State).hostUp = false
    ∧ busyCtx.ctxBusy 0 = true ∧ up.ctxBusy 0 = false ∧ up.liveDie 0 = true ∧ (5 : W64).toNat ≤ 2 ^ 38 ∧ 2 ^ 38 < (0x4000000001 : W64).toNat
    ∧ 0x404 % 8 ≠ 0 ∧ 0x408 % 8 = 0 ∧ ¬ 0x408 < 0x400 ∧ up.portNamed 0 = false ∧ ({ up with launches := [(5, { launch5 .running with img := { img1 with regions := [(region9 .running).desc] } })] } : State).portNamed 0 = true
    ∧ getF (0 : W64) 0 32 = getF Port.init.augcfg 0 32 ∧ getF (1 : W64) 0 32 ≠ getF Port.init.augcfg 0 32
    ∧ getB Port.init.iqctl 8 = false ∧ getB q.iqctl 8 = true ∧ q.iqhead ≠ q.iqtail ∧ up.liveCore 0 = true
    ∧ getF (2 : W64) 0 4 = 2 ∧ getF (0x80 : W64) 0 4 = 0 ∧ 5 ≤ getF (0xF : W64) 0 4 ∧ up.gangOf 0 = none := by decide

set_option maxRecDepth 100000 in
theorem witness_PackageEvents_memory :
    let yes := { up with targets := [(0, ⟨[(0x11A, BitVec.ofNat 128 (7 * 2 ^ 64 + 1))], []⟩)], pkg := { up.pkg with keys := [(0, 0)] } }
    let w := Instr.hostDma (.write 0x1000 0 [1])
    up.dpa 0x30000000000 = none ∧ up.dpa 0x1000 = some (0, 0x1000) ∧ up.migrOf 0x1000 true = none ∧ up.heldRow 0x1000 1 w = none
    ∧ up.heldRow 0x40000000000 4 (.cxlHostAccess (.hdmRead 0 4)) = none ∧ up.heldRow 0x40000000000 1 (.cxlHostAccess (.hdmWrite 0 [1])) = none ∧ yes.grants 0 0x11A .write 0 = true ∧ up.grants 0 0x11A .write 0 = false
    ∧ yes.grants 0 0x11A .read 0 = true ∧ up.grants 0 0x11A .read 0 = false
    ∧ 0 + 4 ≤ 2 ^ 38 ∧ 2 ^ 38 < 2 ^ 38 + 1 ∧ up.pkg.cxlSize.toNat < 0 + 1 ∧ 0 + 0 ≤ up.pkg.cxlSize.toNat := by decide

set_option maxRecDepth 100000 in
theorem witness_PackageEvents_links :
    let x := launch5 .running
    let s := busyCtx
    let ds := [0]
    linkDownAt (1 : BitVec 36) 0 0 = true ∧ linkDownAt up.pkg.down 0 1 = false
    ∧ AMap.get? s.launches 5 = some x ∧ (∀ z ∈ s.launches, z.1 = 5 → z.2 = x) ∧ up.liveDie 0 = true ∧ up.liveDie up.pkg.hdie = false ∧ s.usesLink x (0, 1) = false
    ∧ (up.ctxBusy 0 = false ∧ ds.length = 1 ∧ (∀ j ∈ ds, j < 9 ∧ j ≠ up.pkg.hdie) ∧ (∀ i, i < 8 → i ≠ 0 → ∀ j ∈ ds, j ∉ (up.ctx i).dies)
      ∧ (fabricLinks .mesh ds ++ up.otherLinks 0).Nodup)
    ∧ ¬ [0, 1, 2].length = 1 ∧ ¬ [0, 1, 2].length = 2 ∧ ¬ [0, 1, 2].length = 4 ∧ ¬ [0, 1, 2].length = 8 := by decide

theorem witness_PackageEvents_keys :
    let s := { up with targets := [(0, ⟨[(0, 0x20)], []⟩)] }
    ((63 : Fin 64).val = 63 ∧ (5 : Fin 64).val ≠ 63) ∧ (∃ z ∈ s.targets, ∃ w ∈ z.2.table, getB w.2 5 = true) ∧ up.targets = []
    ∧ ([] : List Byte).length ≠ 32 ∧ (List.replicate 32 (0 : Byte)).length = 32
    ∧ (⟨63, 0⟩ : KeyPair).slot.val = 63 ∧ (⟨5, 0⟩ : KeyPair).slot.val ≠ 63 := by decide

theorem witness_PackageEvents_ageing :
    up.isDue (.ev (.ageingUpdate (List.range 72) (List.range 36))) = false ∧ (List.range 72).count 3 = 1 ∧ up.liveIsland 3 = true
    ∧ (List.range 36).count 5 = 1 ∧ up.liveDie (5 / 4) = true ∧ 72 ∉ List.range 72 ∧ up.liveIsland 64 = false := by decide

set_option maxRecDepth 100000 in
theorem witness_PackageEvents_records :
    let k := { kRun with fl := { kRun.fl with regs := [⟨4, 2, 0, 0x100, .s 5, .w 9⟩] } }
    let s := { up with cores := [(0, k)] }
    s.liveCore 0 = true ∧ ((s.pendList 0)[0]?).map (fun r => (r.file, r.num, r.value)) = some (0, 5, some 9) := by decide

set_option maxRecDepth 100000 in
theorem witness_PackageEvents_debug :
    let y := { gang5 with st := .halted, byDebug := true }
    let k := { kRun with seq := { kRun.seq with st := .halt } }
    let trapped := { y with trapped := [0] }
    (inGang gang5 kRun).gangOf 0 = some (5, gang5) ∧ gang5.st = .running ∧ (inGang y k).gangOf 0 = some (5, y)
    ∧ (y.st = .halted ∧ y.byDebug = true ∧ y.df = false ∧ y.step = 0 ∧ ∀ r ∈ y.retts, r.1 ≠ 0xFFFF)
    ∧ (∀ i ∈ y.trapped, i ∈ y.ended) ∧ (inGang trapped k).gangOf 0 = some (5, trapped)
    ∧ ¬ (∀ i ∈ trapped.trapped, i ∈ trapped.ended ∨ ∃ r ∈ ([(0xFFFF, 3)] : List (Nat × Nat)), r.1 = i)
    ∧ (inGang y k).ik.seq.st = .halt ∧ kRun.seq.st ≠ .halt ∧ y.dbgT ≤ (inGang y k).now
    ∧ gang5.df = false ∧ gang5.step = 0 ∧ gang5.retts = [] ∧ gang5.byDebug = false ∧ ({ gang5 with df := true } : Gang).df = true
    ∧ (∃ i ∈ trapped.trapped, i ∉ trapped.ended ∧ (∀ r ∈ trapped.retts, r.1 ≠ i) ∧ ((inGang trapped { kPriv with seq := k.seq }).core i).priv = true)
    ∧ (inGang trapped k).ik.priv = false := by decide

/-! ### Witnesses: the machine -/

theorem witness_StepKeepsCanonical : Canonical State.reset := by unfold Canonical; decide

/-- With nothing due a step gives a next state. -/
theorem witness_StepKeepsCanonical_next : ∃ t, step { State.reset with agenda := [] } = .next t := ⟨_, rfl⟩

theorem witness_RoundTrip :
    (Instr.add 1 2 3).wellFormed = true ∧ encode (.add 1 2 3) = some (.s0, 0b00000001000010001000011000000000)
    ∧ decodeSlot .s1 0b00000001000010001000011000000000 = .ok (.add 1 2 3) := by decide

theorem witness_StepRunsDecoded :
    let w : SlotWord := ⟨0, 0b00000001000010001000011000000000, 0x100⟩
    let s := { at_ 0 kRun with issue := { (at_ 0 kRun).issue with slots := [w] } }
    let d : Due := ⟨5, 1, .ev (.groupReach 0)⟩
    s.issue.active = true ∧ s.issue.slots = w :: [] ∧ decodeSlot (kindOf w.kind) w.word = .ok (.add 1 2 3)
    ∧ decodeSlot .s0 0b00000001000010001000011000000001 = .bad .illegalField ∧ (at_ 0 kRun).issue.slots = []
    ∧ State.reset.issue.active = false ∧ ({ State.reset with agenda := [d] } : State).agenda = d :: []
    ∧ ({ State.reset with agenda := [] } : State).agenda = [] := by decide

set_option maxRecDepth 100000 in
theorem witness_GroupFetch :
    let s := kText plain id
    let text := leBytes 2 (1 + 2 ^ 8 + 0 * 2 ^ 9) ++ leBytes 4 0
    (s.core 0).timed = true ∧ 0x101 % 2 = 1 ∧ (s.core 0).pinned 0x106 = none
    ∧ 2 ^ 12 ≤ 0x1101 ∧ ((kText broken id).core 0).pinned 0x100 = some 1 ∧ ((kText broken id).core 0).pinned 0x101 = some 0x11
    ∧ (0 % 2 ^ 8 = 0 ∧ Nat.testBit 0 8 = false)
    ∧ (∀ j, j < text.length → (s.core 0).pinned (0x100 + j) = text[j]?)
    ∧ Nat.testBit 0x60 5 = true ∧ Nat.testBit 0x60 6 = true ∧ 343597383680 / 2 ^ 36 % 2 ^ 20 = 5 := by decide

/-! ### Words, written out from R149 to R157 -/

/-- R152: SR, SI and SU forms in S0 and S1. -/
theorem test_decode_scalar :
    decodeSlot .s0 0b00001111000010001000011000000000 = .ok (.remu 1 2 3)
    ∧ decodeSlot .s1 0b00010111001000010100110001110000 = .ok (.sel 4 5 6 7)
    ∧ decodeSlot .s0 0b00011011010010100000000000000000 = .ok (.brev 9 8)
    ∧ decodeSlot .s0 0b00011101000010001000011000000101 = .ok (.insb 1 2 3 5)
    ∧ decodeSlot .s1 0b00100001001110011011111111111111 = .ok (.andi 7 6 0x3FFF)
    ∧ decodeSlot .s0 0b00100110001110011000000000111111 = .ok (.sari 7 6 63)
    ∧ decodeSlot .s0 0b00101000000111000000000000000001 = .ok (.lui 3 0x40001)
    ∧ decodeSlot .s0 0b00101001000110010011111111111110 = .ok (.muli 3 4 (-2)) := by decide

/-- R152, R150: mode f[8:6], format f[5:4], and f[3:0] of FCMP, FCVTI and FCVTF. -/
theorem test_decode_float :
    decodeSlot .s0 0b00110011000010001000011101100000 = .ok (.ffma .fp16 .sr 1 2 3)
    ∧ decodeSlot .s1 0b00110110000010001000011000000011 = .ok (.fcmp .fp32 .rne .ne 1 2 3)
    ∧ decodeSlot .s0 0b00110111000010001000000001000011 = .ok (.fcvti .fp32 .rtz .u32 1 2)
    ∧ decodeSlot .s0 0b00110000000010001000011000110000 = .bad .illegalField
    ∧ decodeSlot .s0 0b00110000000010001000011110000000 = .bad .illegalField := by decide

/-- R152: SB, SJ and SS forms, legal in S0 alone. -/
theorem test_decode_control :
    decodeSlot .s0 0b01010100000010001000000000000101 = .ok (.bltu 1 2 5)
    ∧ decodeSlot .s0 0b01010111111111111111111111111101 = .ok (.jal (-3))
    ∧ decodeSlot .s0 0b01011000000000100100000000000000 = .ok (.jr 9)
    ∧ decodeSlot .s0 0b01011001001100000000000000001100 = .ok (.loop 6 12)
    ∧ decodeSlot .s0 0b01011010000000000000000000000000 = .ok .endTask
    ∧ decodeSlot .s0 0b01011011000000010000000000001010 = .ok (.chk 4 10)
    ∧ decodeSlot .s0 0b01011101000000000001111111111111 = .ok (.uiwin 8191)
    ∧ decodeSlot .s0 0b01100000000000001100000000000000 = .ok (.rett 3)
    ∧ decodeSlot .s1 0b01011010000000000000000000000000 = .bad .illegalOp
    ∧ decodeSlot .s0 0b01011010000000000000000000000001 = .bad .illegalField := by decide

/-- R152: the handle and special-register forms. -/
theorem test_decode_system :
    decodeSlot .s0 0b01100101000010001000011011001000 = .ok (.halloc 200 1 2 3)
    ∧ decodeSlot .s0 0b01100110000000000000000000000111 = .ok (.hfree 7)
    ∧ decodeSlot .s0 0b01100111001010000000000100001001 = .ok (.hinfo 5 9 1)
    ∧ decodeSlot .s0 0b01100100010000000000000000000000 = .ok (.rdfc 8)
    ∧ decodeSlot .s1 0b01000001000000001000101000001001 = .ok (.sst 9 2 5) := by decide

/-- R153: AI and AR forms. -/
theorem test_decode_address :
    decodeSlot .a 0b00000001001100000001001000110100 = .ok (.amov 3 0x1234)
    ∧ decodeSlot .a 0b00000010010000000100100000000000 = .ok (.aget 9 4)
    ∧ decodeSlot .a 0b00000101000001010011000000000000 = .ok (.asetb 5 6)
    ∧ decodeSlot .a 0b00000111000100100000000000000000 = .ok (.ainc2 1 2)
    ∧ decodeSlot .a 0b00000110000100100000000000000001 = .bad .illegalField := by decide

/-- R154: VR and VS forms. -/
theorem test_decode_vector :
    decodeSlot .v0 0b00000100000010000000011010100101 = .ok (.vfma 1 0 3 2 .fromLA .sr)
    ∧ decodeSlot .v1 0b00000110000010001000000000110000 = .ok (.vmin 1 2 0 0 .fromLB)
    ∧ decodeSlot .v0 0b00011000001110001000011001000001 = .ok (.vcmp 7 2 3 1 .normal .lt)
    ∧ decodeSlot .v0 0b00100101000010001000000000010000 = .ok (.vtanh 1 2 0 .latch)
    ∧ decodeSlot .v0 0b00101000000010001001001000001001 = .ok (.vcvt 1 2 0 .normal .int8 true .rtz)
    ∧ decodeSlot .v0 0b00101001000010001000011000000000 = .ok (.vpack4 1 2 .normal .hy .rne)
    ∧ decodeSlot .v1 0b00110100000010001000101000000001 = .ok (.vbcol 1 2 37 0 .normal)
    ∧ decodeSlot .v0 0b00111001000010001000010000000000 = .ok (.vscanr 1 2 .max 0 .normal)
    ∧ decodeSlot .v0 0b00111100001000000011111111111111 = .ok (.viota 4 0x3FFF)
    ∧ decodeSlot .v0 0b01000000000010001000011000000000 = .ok (.kand 1 2 3)
    ∧ decodeSlot .v0 0b01000100000110100100000000000000 = .ok (.kpop 9 3)
    ∧ decodeSlot .v0 0b01000101000100000000010000000000 = .ok (.kset 2 1024)
    ∧ decodeSlot .v0 0b00000001000010001000011000100000 = .bad .illegalField := by decide

/-- R154: VM forms. -/
theorem test_decode_vector_memory :
    decodeSlot .v1 0b01001011111101111111111111110000 = .ok (.vstx 30 255 15 7)
    ∧ decodeSlot .v0 0b01001100000010000001000110000000 = .ok (.vldb 1 2 3 0)
    ∧ decodeSlot .v0 0b01001010111110000001000110000000 = .bad .illegalField := by decide

/-- R155, R151: MI, MH and MS bodies. -/
theorem test_decode_cube :
    decodeSlot .m 0b0000000111111111111111111111000000000000000000000000001001010010 = .ok (.mcfg 0xFFFFF 0x252)
    ∧ decodeSlot .m 0b0000001100000000000000000111010100001001000000000000000000000000 = .ok (.mload 7 5 9)
    ∧ decodeSlot .m 0b0000010011111111111111111111001100001000000000000000000000000000 = .ok (.mlatch 0xFFFFF 3 8)
    ∧ decodeSlot .m 0b0000011011111111111111111111001011111001010011100011111111000000 = .ok (.mmul3 0xFFFFF 1 (.ring 15) (.latch 2) (.latch 3) true false false 255)
    ∧ decodeSlot .m 0b0000100011111111111111111111001000011111000010000000000000000000 = .ok (.mdrainv 0xFFFFF 2 31 8)
    ∧ decodeSlot .m 0b0000110011111111111111111111111100000111000000000000000000000100 = .ok (.nset 0xFFFFF 15 7 4)
    ∧ decodeSlot .m 0b0000111111111111111111111111000000000000000000000000000000001001 = .ok (.mstep 0xFFFFF 9)
    ∧ decodeSlot .m 0b0000010011111111111111111111010000001000000000000000000000000000 = .bad .illegalField
    ∧ decodeSlot .m 0b0001000011111111111111111111000000000000000000000000000000000000 = .bad .illegalOp := by decide

/-- R156, R151: EC, EA and ES bodies. -/
theorem test_decode_engine :
    decodeSlot .e 0b0000001111111111111111111111100000010010000000000000000000000000 = .ok (.cpyx 0xFFFFF 2 false 9)
    ∧ decodeSlot .e 0b0000011111111111111111111111111111111110000000000000000000000000 = .ok (.cpyc 0xFFFFF 3 true 255)
    ∧ decodeSlot .e 0b0001001111111111111111111111010010000100010000110000000000000000 = .ok (.scamo 0xFFFFF false .cas 1 2 3)
    ∧ decodeSlot .e 0b0001000111111111111111111111100000000100000000110000000000000000 = .ok (.scld 0xFFFFF true 1 3)
    ∧ decodeSlot .e 0b0001100011111111111111111111001100000000000000000000000000000000 = .ok (.fence 0xFFFFF .f)
    ∧ decodeSlot .e 0b0001110011111111111111111111000100000000001000000000000000000000 = .ok (.twait 0xFFFFF 4 true)
    ∧ decodeSlot .e 0b0001111011111111111111111111000011001000001010000000000000000000 = .ok (.realign 0xFFFFF 200 5)
    ∧ decodeSlot .e 0b0001100011111111111111111111010000000000000000000000000000000000 = .bad .illegalField := by decide

/-- R156, R151: EG, EH, EX and ET bodies. -/
theorem test_decode_sharing :
    decodeSlot .e 0b0010000011111111111111111111011110000011100001001010000000000000 = .ok (.coll 0xFFFFF .rs 3 true 7 9 .minF32)
    ∧ decodeSlot .e 0b0010100011111111111111111111000000010000001010001010010111000000 = .ok (.subon 0xFFFFF 1 2 0x8A5 3)
    ∧ decodeSlot .e 0b0010101111111111111111111111000000010000001001001101000000000000 = .ok (.mcwin 0xFFFFF 1 2 77)
    ∧ decodeSlot .e 0b0011000111111111111111111111111111000010010010000000000000000000 = .ok (.slprd 0xFFFFF 63 9 4)
    ∧ decodeSlot .e 0b0011100011111111111111111111100000000010000000000000000000000000 = .ok (.trace 0xFFFFF 0x80 4)
    ∧ decodeSlot .e 0b0011100011111111111111111111011111110010000000000000000000000000 = .bad .illegalField := by decide

/-- R157: XP and XS forms. -/
theorem test_decode_exchange :
    decodeSlot .x 0b00000001000000000000000000000000 = .ok .xbegin
    ∧ decodeSlot .x 0b00000100001111111111100000000001 = .ok (.xrx 3 31 15 1)
    ∧ decodeSlot .x 0b00000101000000111111111111111111 = .ok (.xsel 0 3 65535)
    ∧ decodeSlot .x 0b00000101001000100000000000000001 = .bad .illegalField
    ∧ decodeSlot .x 0b00000110000000000000000000000000 = .bad .illegalOp := by decide


/-- The words that the spec works out (R148, R163, R164, R170, R171, R183, R192, R193, R197, R209 and the worked encodings of the E and X
slots, and of CPYI). -/
theorem test_decode_worked :
    decodeSlot .s0 0x0118C800 = .ok (.add 3 3 4) ∧ decodeSlot .e 0x180000C000000000 = .ok (.fence 12 .c)
    ∧ decodeSlot .s1 0x280848D1 = .ok (.lui 1 0x48D1) ∧ decodeSlot .s0 0x22085678 = .ok (.ori 1 1 0x1678)
    ∧ decodeSlot .s0 0x52217FF6 = .ok (.blt 4 5 (-10)) ∧ decodeSlot .s0 0x5930000F = .ok (.loop 6 15)
    ∧ decodeSlot .a 0x06230000 = .ok (.ainc 2 3) ∧ decodeSlot .v0 0x04184401 = .ok (.vfma 3 1 2 0 .normal .rtz)
    ∧ decodeSlot .v0 0x18104641 = .ok (.vcmp 2 1 3 1 .normal .lt) ∧ decodeSlot .v1 0x29208200 = .ok (.vpack4 4 2 .normal .ef .rne)
    ∧ decodeSlot .m 0x01FFFFF010000250 = .ok (.mcfg 0xFFFFF 0x10000250)
    ∧ decodeSlot .e 0x020002843C000004 = .ok (.cpym 40 1 false 30 .inn 2) ∧ decodeSlot .e 0x10FFFFF108650000 = .ok (.amo 0xFFFFF false .addF32 2 3 5)
    ∧ decodeSlot .e 0x1C00064100200000 = .ok (.twait 100 4 true) ∧ decodeSlot .e 0x20001F4101140000 = .ok (.coll 500 .ar 1 false 2 40 .sumF32)
    ∧ decodeSlot .e 0x28FFFFF0C0702180 = .ok (.subon 0xFFFFF 12 7 33 2) ∧ decodeSlot .x 0x03118010 = .ok (.xtx 1 3 0 16)
    ∧ decodeSlot .e 0x06FFFFF850000005 = .ok (.cpyi 0xFFFFF 2 false 40 5) := by decide

/-- The fourteen bytes of R148's worked group. -/
theorem test_fetch_worked :
    (kText [0x41, 0x01, 0x00, 0xC8, 0x18, 0x01, 0x00, 0x00, 0x00, 0x00, 0xC0, 0x00, 0x00, 0x18] id).fetch 0 0x100
      = .group [⟨0, 0x0118C800, 0x100⟩, ⟨6, 0x180000C000000000, 0x100⟩] 0x10E (some 12) := by decide

/-! ### Terms that WellFormed refuses, one for each check -/

theorem test_wellFormed_scalar :
    (Instr.chk 1 11).wellFormed = false ∧ (Instr.chk 1 10).wellFormed = true ∧ (Instr.phase 64).wellFormed = false
    ∧ (Instr.uiwin 0).wellFormed = false ∧ (Instr.uiwin 8192).wellFormed = false := by decide

theorem test_wellFormed_vector :
    (Instr.vadd 1 2 3 0 .fromLA .rne).wellFormed = false ∧ (Instr.vsub 1 2 3 0 .fromLB .rne).wellFormed = false
    ∧ (Instr.vmin 1 2 3 0 .fromLA).wellFormed = false ∧ (Instr.vcmp 1 2 3 0 .fromLB .eq).wellFormed = false
    ∧ (Instr.vsel 1 2 3 0 .fromLA).wellFormed = false ∧ (Instr.vabs 1 0 0 .fromLB).wellFormed = false
    ∧ (Instr.vrcp 1 2 0 .fromLA).wellFormed = false ∧ (Instr.vcvt 1 2 0 .normal .sn4 false .rne).wellFormed = false
    ∧ (Instr.vcvt 1 2 0 .normal .bf16 true .rne).wellFormed = false ∧ (Instr.vpack4 1 2 .fromLB .ui .rne).wellFormed = false
    ∧ (Instr.vunpack4 1 2 0 .fromLA .rne).wellFormed = false ∧ (Instr.vtag 1 2 0 .normal .none).wellFormed = false
    ∧ (Instr.vmov 1 2 0 .fromLA).wellFormed = false ∧ (Instr.vbcs 1 2 .sn4).wellFormed = false ∧ (Instr.vbrow 1 2 0 0 .fromLA).wellFormed = false
    ∧ (Instr.vbcol 1 2 0 0 .fromLB).wellFormed = false ∧ (Instr.vrotr 1 2 0 0 .fromLB).wellFormed = false
    ∧ (Instr.vrotc 1 2 0 0 .fromLB).wellFormed = false ∧ (Instr.vredr 1 2 .sum 0 .fromLB).wellFormed = false
    ∧ (Instr.vtrn 1 2 0 .fromLB).wellFormed = false ∧ (Instr.kset 1 1025).wellFormed = false ∧ (Instr.kset 1 1024).wellFormed = true
    ∧ (Instr.vldx 31 1 2 0).wellFormed = false ∧ (Instr.vstx 31 1 2 0).wellFormed = false := by decide

theorem test_wellFormed_cube :
    (Instr.mcfg 0 0xFFFFFFFF).wellFormed = false ∧ (Instr.mmul 0 1 (.latch 0) (.ring 1) true false 3).wellFormed = false
    ∧ (Instr.mmul3 0 1 (.ring 0) (.ring 1) (.latch 2) true false true 3).wellFormed = false ∧ (Instr.nset 0 1 2 0).wellFormed = false
    ∧ (Instr.nadv 0 1 0).wellFormed = false ∧ (Instr.nadv 0 1 17).wellFormed = false ∧ (Instr.nchk 0 1 17).wellFormed = false := by decide

theorem test_wellFormed_engines :
    (Instr.coll 0 .ag 1 false 2 3 .maxF32).wellFormed = false ∧ (Instr.trace 0 0x7F 1).wellFormed = false
    ∧ (Instr.xtx 4 0 0 1).wellFormed = false ∧ (Instr.xrx 0 0 0 0).wellFormed = false ∧ (Instr.xtx 0 31 15 2).wellFormed = false
    ∧ (Instr.xtx 0 31 15 1).wellFormed = true ∧ (Instr.xsel 2 2 1).wellFormed = false ∧ (Instr.xsel 0 1 0).wellFormed = false
    ∧ (Instr.xsel 4 1 1).wellFormed = false := by decide

/-! ### What the spec works out -/

/-- R18: core 1401. -/
theorem test_core_ids : coreDie 1401 = 5 ∧ coreRow 1401 = 7 ∧ coreCol 1401 = 9 ∧ coreIsland 1401 = 46 := by decide

/-- R47: with die 4 harvested, the row of die 3. -/
theorem test_die_latency :
    let s := { State.reset with pkg := { State.reset.pkg with hdie := 4 } }
    (List.range 9).map (fun d => s.dieLat 3 d) = [24, 52, 72, 0, 0, 52, 24, 52, 72] := by decide

/-- R318: die 5 harvested, links 0 S, 1 S and 2 S down in that order: IO2 keeps authority. -/
theorem test_authority :
    let down := fun (l : Fin 36) (s : State) => match exec (.linkDown l) s with | .next t => t | _ => s
    let s := { up with pkg := { up.pkg with hdie := 5 } }
    (down 10 (down 6 (down 2 s))).pkg.auth = 2 := by decide +kernel

/-- R82: an SN4 handle of 32 rows of 64 columns in two banks: element (5, 40) lies in byte 180, its scale byte at 1035. -/
theorem test_sn4_layout :
    let e : TEntry := ⟨BitVec.ofNat 64 (2 ^ 63 + 31 * 2 ^ 42 + 63 * 2 ^ 30 + 2 ^ 21 + Tag.sn4.code * 2 ^ 16), 0x400⟩
    entSize e = 1088 ∧ entLines e = 17 ∧ entBcnt e = 2 ∧ entByte e 180 = entBase e * 65536 + (entLine0 e + 1) * 64 + 180 % 64
    ∧ entByte e 1035 = entBase e * 65536 + (entLine0 e + 8) * 64 + 1035 % 64 := by decide

/-- R92: STEER entries 0 to 3 four times, VA 0x0123_5000: die 1. -/
theorem test_steer : homeDie 0x3210321032103210 0x1235000 1 = some 1 := by decide

/-- R105: E4M3F 490. -/
theorem test_saturation :
    fmtE4m3.round .rne 0 (.fin false 490 0) = (0x7F, flNX) ∧ fmtE4m3.round .rup 0 (.fin false 490 0) = (0x7F, flOF ||| flNX) := by decide

/-- R104, R105: halfway cases in E2M1, in units of a half: RNE and RNA. -/
theorem test_ties :
    let rne := fun (n : Bool) (x : Nat) => (roundSn4 .ef .rne 0 (.fin n x (-1))).1
    let rna := fun (n : Bool) (x : Nat) => (roundSn4 .ef .rna 0 (.fin n x (-1))).1
    [1, 3, 5, 7, 10, 14, 20].map (rne false) = [0, 2, 2, 4, 4, 6, 6] ∧ [1, 3, 5, 7, 10, 14, 20].map (rna false) = [1, 2, 3, 4, 5, 6, 7]
    ∧ rne true 3 = 0xA ∧ rna true 3 = 0xA ∧ rne true 1 = 0 ∧ rna true 1 = 9 := by decide

/-- R107: 13.0, -2.6, 0.7, 6.0 and 9.0 packed to EF, as multiples of a tenth that no code tells apart from them (104, 21, 6, 48 and 72
eighths), the rest zero: E 33, NX alone. -/
theorem test_pack :
    let xs : List FVal := [.fin false 104 (-3), .fin true 21 (-3), .fin false 6 (-3), .fin false 48 (-3), .fin false 72 (-3), .fin false 0 0]
    packBlock (.sn4 .ef) .rne 0 [0, 0, 0, 0, 0, 0] xs = (33, [7, 0xB, 1, 5, 6, 0], flNX) := by decide

/-- R107: 2^-40 packed to EF: all zeros, E clamped to 0, with UF. -/
theorem test_pack_small :
    let r := packBlock (.sn4 .ef) .rne 0 [0] [.fin false 1 (-40)]
    r.1 = 0 ∧ r.2.1 = [0] ∧ r.2.2 &&& flUF = flUF := by decide

/-- R117: a chunk of 2^24 and 31 ones is 2^24 + 32. -/
theorem test_chunk : (accFloat 32 (fun k => (if k = 0 then .fin false 1 24 else .fin false 1 0, 0)) 0).1 = 0x4B800010 := by decide

/-- R118: 32 pairs of (1 + 2^-7) squared in BF16 make 32.5. -/
theorem test_pairs :
    let x : FVal := .fin false 129 (-7)
    (accFloat 32 (fun _ => pairFloat fmtBf16 x x) 0).1 = 0x42020000 := by decide

/-- R330: the draws of sample 0 under SEED 0. -/
theorem test_draws : [0, 1, 2, 3].map (genG 0) = [0, 0x11FD02EB, 0xBB2AAFDE, 0xD6A3DEEC] := by decide

/-! ### Single steps -/

/-- What a slot writes to s and a registers. -/
def wrote (i : Instr) (k : Core) : List (PDest × PVal) :=
  match exec i (at_ 0 k) with
  | .next t => (t.core 0).fl.regs.filterMap (fun p => match p.dest with
    | .s n => some (.s n, p.val)
    | .a n => some (.a n, p.val)
    | _ => none)
  | _ => []

def w64 (n : Fin 32) (v : W64) : List (PDest × PVal) := [(.s n.val, .w v)]

/-- R163. -/
theorem test_integer :
    wrote (.add 1 2 3) (regs kRun [(2, BitVec.allOnes 64), (3, 1)]) = w64 1 0
    ∧ wrote (.sub 1 2 1) (regs kRun [(1, 1)]) = w64 1 (BitVec.allOnes 64) ∧ wrote (.add 0 2 3) (regs kRun [(2, 5)]) = []
    ∧ wrote (.shl 1 2 3) (regs kRun [(2, 3), (3, 65)]) = w64 1 6 ∧ wrote (.sar 1 2 3) (regs kRun [(2, 1 <<< 63), (3, 63)]) = w64 1 (BitVec.allOnes 64)
    ∧ wrote (.mulh 1 2 3) (regs kRun [(2, BitVec.allOnes 64), (3, BitVec.allOnes 64)]) = w64 1 0
    ∧ wrote (.mulhu 1 2 3) (regs kRun [(2, BitVec.allOnes 64), (3, BitVec.allOnes 64)]) = w64 1 0xFFFFFFFFFFFFFFFE
    ∧ wrote (.slt 1 2 3) (regs kRun [(2, BitVec.allOnes 64), (3, 1)]) = w64 1 1
    ∧ wrote (.sltu 1 2 3) (regs kRun [(2, BitVec.allOnes 64), (3, 1)]) = w64 1 0 := by decide

set_option maxRecDepth 100000 in
/-- R163. -/
theorem test_bits :
    wrote (.clz 1 2) kRun = w64 1 64 ∧ wrote (.ctz 1 2) (regs kRun [(2, 8)]) = w64 1 3 ∧ wrote (.popc 1 2) (regs kRun [(2, 0xF0F)]) = w64 1 8
    ∧ wrote (.brev 1 2) (regs kRun [(2, 1)]) = w64 1 0x8000000000000000 ∧ wrote (.extb 1 2 1) (regs kRun [(2, 0xABCD)]) = w64 1 0xAB
    ∧ wrote (.insb 1 2 3 1) (regs kRun [(2, 0xFFFFFF), (3, 0x112)]) = w64 1 0xFF12FF
    ∧ wrote (.sel 1 2 3 4) (regs kRun [(2, 5), (3, 6)]) = w64 1 6 := by decide

/-- R164, with LUI and ORI loading 0x1234_5678. -/
theorem test_immediates :
    wrote (.lui 1 0x48D1) kRun = w64 1 0x12344000 ∧ wrote (.ori 1 1 0x1678) (regs kRun [(1, 0x12344000)]) = w64 1 0x12345678
    ∧ wrote (.addi 1 2 0x3FFF) kRun = w64 1 (BitVec.allOnes 64) ∧ wrote (.andi 1 2 0x3FFF) (regs kRun [(2, BitVec.allOnes 64)]) = w64 1 0x3FFF := by decide

/-- R113: a zero divisor gives all ones, and the dividend as the remainder. -/
theorem test_divide :
    wrote (.div 1 2 3) (regs kRun [(2, 7)]) = w64 1 (BitVec.allOnes 64) ∧ wrote (.remu 1 2 3) (regs kRun [(2, 7)]) = w64 1 7
    ∧ wrote (.div 1 2 3) (regs kRun [(2, BitVec.ofInt 64 (-7)), (3, 2)]) = w64 1 (BitVec.ofInt 64 (-3)) := by decide

/-- R166: 1.0 + 2.0 in FP32 and 1.5 × 1.5 in BF16, the upper bits of the operands ignored. -/
theorem test_float :
    (wrote (.fadd .fp32 .rne 1 2 3) (regs kRun [(2, 0xFFFFFFFF3F800000), (3, 0x40000000)])).map (·.2) = [.w 0x40400000]
    ∧ (wrote (.fmul .bf16 .rne 1 2 2) (regs kRun [(2, 0x3FC0)])).map (·.2) = [.w 0x4010] := by decide

/-- R170: `BLT s4, s5` to 20 bytes before the bundle at 0x100. -/
theorem test_branch :
    let k := regs kRun [(4, BitVec.allOnes 64), (5, 1)]
    (match exec (.blt 4 5 (-10)) (at_ 0 k) with | .next t => t.issue.target | _ => none) = some 0xEC
    ∧ (match exec (.bltu 4 5 (-10)) (at_ 0 k) with | .next t => t.issue.target | _ => none) = none := by decide

/-- R292, R293: a PRIV fault of MTS at user privilege enters the handler with EPC, CAUSE and the slot's image. -/
theorem test_trap :
    let s := { at_ 0 kRun with issue := { (at_ 0 kRun).issue with cur := ⟨0, 0x63000000, 0x100⟩ } }
    (match exec (.mts .svec 1) s with
      | .next t => let q := (t.core 0).tr; (q.cause, q.faddr, q.epc, (t.core 0).priv)
      | _ => (0, 0, 0, false)) = (0x18, 0x63000000, 0x100, true) := by decide

/-- R183: AINC steps the address register by the block's step. -/
theorem test_address :
    let k := { kRun with sc := { kRun.sc with a := kRun.sc.a.set 2 10, b := kRun.sc.b.set 3 (BitVec.ofNat 64 (5 * 2 ^ 48)) } }
    (wrote (.ainc 2 3) k).map (·.2) = [.w 15] := by decide

end Sys2Proof.Tests
end

section
/-! PROOFS. The divide class of the S slots (R162, R163, R113): what a division leaves in flight, how long it keeps the divider of its
slot, and the values and flags of the four forms. -/

namespace Sys2Proof.Machine

open Sys2Proof Sys2Proof.Safety

/-! ### Writes leave the units alone -/

@[simp] theorem State.pend_units (s : State) (c l e : Nat) (d : PDest) (v : PVal) :
    ((s.pend c l d v).core e).fl.units = (s.core e).fl.units := by
  simp only [State.pend, State.core_postEv, State.core_setCore]
  split
  next h => rw [h]
  next => rfl

@[simp] theorem State.wrS_units (s : State) (d : Fin 32) (l e : Nat) (x : W64) :
    ((s.wrS d l x).core e).fl.units = (s.core e).fl.units := by
  unfold State.wrS
  split
  · rfl
  · exact State.pend_units ..

@[simp] theorem State.wrFlags_units (s : State) (l e : Nat) (f : Flags) :
    ((s.wrFlags l f).core e).fl.units = (s.core e).fl.units := by
  unfold State.wrFlags
  split
  · rfl
  · exact State.pend_units ..

@[simp] theorem State.wrSF_units (s : State) (d : Fin 32) (l e : Nat) (r : W64 × Flags) :
    ((s.wrSF d l r).core e).fl.units = (s.core e).fl.units := by
  simp [State.wrSF]

/-! ### The divider of a slot -/

@[simp] theorem State.divTake_divU (s : State) :
    (s.divTake.core s.ic).fl.units.divU = s.ik.fl.units.divU.setIfInBounds s.divSlot (s.cyc s.ic + 18) := by
  simp [State.divTake, State.ik, State.ic]

/-- An outcome of the divide class (R162): with the divider of the slot free the value and the flags come 18 cycles later and the
divider is taken until then; with it occupied the slot raises SLOT_BUSY. -/
def Divides (s : State) (o : Out) (d : Fin 32) (r : W64 × Flags) : Prop :=
  (s.divBusy = false → SFResult s o d 18 r
    ∧ ∃ t, o = .next t ∧ (t.core s.ic).fl.units.divU = s.ik.fl.units.divU.setIfInBounds s.divSlot (s.cyc s.ic + 18))
  ∧ (s.divBusy = true → Raises s o 0x04 0)

/-- Taking the divider leaves nothing in flight, so a division adds its value and its flags alone. -/
theorem State.divTake_wrSF_adds (s : State) (d : Fin 32) (r : W64 × Flags) :
    Adds s (s.divTake.wrSF d 18 r) (sWrites s d 18 r.1 ++ flagWrites s 18 r.2) [] := by
  have take := s.divTake_adds
  have write := s.divTake.wrSF_adds d 18 r
  rw [take.sWrites, take.flagWrites] at write
  exact take.trans write

theorem State.divOut_divides (s : State) (d : Fin 32) (r : W64 × Flags) : Divides s (s.divOut d r) d r := by
  constructor
  · intro hfree
    have issued : s.divOut d r = .next (s.divTake.wrSF d 18 r) :=
      State.checked_pass s _ _ ((failIf_none ..).2 hfree)
    rw [issued]
    exact ⟨.next (s.divTake_wrSF_adds d r), _, rfl, by simp⟩
  · intro hbusy
    exact State.checked_fail s _ _ cSlotBusy 0 (by rw [hbusy]; rfl)

/-! ### Values and flags (R113, R163) -/

/-- The flags of a division: DZ for a zero divisor, and for signed overflow none. -/
def divFlags (b : W64) : Flags := if b = 0 then flDZ else 0

theorem divS_eq (a b : W64) :
    divS a b = (if b = 0 then BitVec.allOnes 64 else BitVec.ofInt 64 (a.toInt.tdiv b.toInt), divFlags b) := by
  unfold divS divFlags
  split <;> rfl

theorem divU_eq (a b : W64) : divU a b = (if b = 0 then BitVec.allOnes 64 else a / b, divFlags b) := by
  have quotient : BitVec.ofNat 64 (a.toNat / b.toNat) = a / b := by simp [← BitVec.toNat_udiv]
  unfold divU divFlags
  rw [quotient]
  split <;> rfl

/-- The signed remainder is what the truncated quotient leaves of the dividend. -/
theorem remS_eq (a b : W64) :
    remS a b = (if b = 0 then a else BitVec.ofInt 64 (a.toInt - b.toInt * a.toInt.tdiv b.toInt), divFlags b) := by
  unfold remS divFlags
  rw [Int.tmod_def]
  split <;> rfl

theorem remU_eq (a b : W64) : remU a b = (if b = 0 then a else a % b, divFlags b) := by
  have remainder : BitVec.ofNat 64 (a.toNat % b.toNat) = a % b := by simp [← BitVec.toNat_umod]
  unfold remU divFlags
  rw [remainder]
  split <;> rfl

/-! ### The four forms -/

theorem exec_div (s : State) (d a b : Fin 32) : exec (.div d a b) s = s.divOut d (divS (s.gs a) (s.gs b)) := rfl
theorem exec_divu (s : State) (d a b : Fin 32) : exec (.divu d a b) s = s.divOut d (divU (s.gs a) (s.gs b)) := rfl
theorem exec_rem (s : State) (d a b : Fin 32) : exec (.rem d a b) s = s.divOut d (remS (s.gs a) (s.gs b)) := rfl
theorem exec_remu (s : State) (d a b : Fin 32) : exec (.remu d a b) s = s.divOut d (remU (s.gs a) (s.gs b)) := rfl

/-- Settles O3: each form is a division of the slot, and its value and flags are the ones of R113 and R163. -/
theorem divideForms : Obligations.DivideForms := by
  intro s d a b
  simp only [decide_eq_true_eq, List.forall_mem_cons, List.not_mem_nil, false_imp_iff, implies_true, and_true]
  refine ⟨?div, ?divu, ?rem, ?remu⟩
  case div => rw [exec_div, divS_eq]; exact s.divOut_divides d _
  case divu => rw [exec_divu, divU_eq]; exact s.divOut_divides d _
  case rem => rw [exec_rem, remS_eq]; exact s.divOut_divides d _
  case remu => rw [exec_remu, remU_eq]; exact s.divOut_divides d _

end Sys2Proof.Machine
end

section
/-! PROOFS. The layouts of the S slots (R149): what the decoder reads back from each field, and what it makes of the words of the
immediate forms, of LOOP and of HALLOC. -/

namespace Sys2Proof.Machine

open Sys2Proof

/-! ### Fields of the layouts -/

/-- A field that lies wholly below bit k reads the low part of a number. -/
theorem fld_low (q v k lo n : Nat) (hv : v < 2 ^ k) (h : lo + n ≤ k) : fld (q * 2 ^ k + v) lo n = fld v lo n := by
  refine Nat.eq_of_testBit_eq fun i => ?_
  simp only [fld, Nat.testBit_mod_two_pow, Nat.testBit_div_two_pow, Nat.mul_comm q, Nat.testBit_two_pow_mul_add _ hv]
  by_cases hi : i < n
  · rw [if_pos (by omega)]
  · simp [hi]

/-- A field as wide as the number reads all of it. -/
theorem fld_whole (v n : Nat) (hv : v < 2 ^ n) : fld v 0 n = v := by
  rw [fld, Nat.pow_zero, Nat.div_one, Nat.mod_eq_of_lt hv]

/-- The SI layout read back: opcode, d, a and every field of the immediate. -/
theorem encSI_fields (op v : Nat) (d a : Fin 32) (hop : op < 2 ^ 8) (hv : v < 2 ^ 14) :
    fld (encSI op d a v) 24 8 = op ∧ f5 (encSI op d a v) 19 = d ∧ f5 (encSI op d a v) 14 = a
      ∧ ∀ lo n, lo + n ≤ 14 → fld (encSI op d a v) lo n = fld v lo n := by
  have hd := d.isLt
  have ha := a.isLt
  refine ⟨?op, Fin.ext ?d, Fin.ext ?a, fun lo n h => ?low⟩
  case op => simp only [encSI, fld]; omega
  case d => simp only [encSI, f5, fld]; omega
  case a => simp only [encSI, f5, fld]; omega
  case low =>
    have split : encSI op d a v = (op * 2 ^ 10 + d * 2 ^ 5 + a) * 2 ^ 14 + v := by simp only [encSI]; omega
    rw [split, fld_low _ _ _ _ _ hv h]

/-- The SI layout's immediate read back as a bit vector. -/
theorem fb_encSI (op : Nat) (d a : Fin 32) (imm : BitVec 14) (hop : op < 2 ^ 8) : fb (encSI op d a imm.toNat) 0 14 = imm := by
  obtain ⟨-, -, -, low⟩ := encSI_fields op imm.toNat d a hop imm.isLt
  rw [fb, low 0 14 (by decide), fld_whole _ _ imm.isLt, BitVec.ofNat_toNat, BitVec.setWidth_eq]

/-- The SU layout read back. -/
theorem encSU_fields (op v : Nat) (d : Fin 32) (hop : op < 2 ^ 8) (hv : v < 2 ^ 19) :
    fld (encSU op d v) 24 8 = op ∧ f5 (encSU op d v) 19 = d ∧ fld (encSU op d v) 0 19 = v := by
  have hd := d.isLt
  refine ⟨?op, Fin.ext ?d, ?imm⟩
  case op => simp only [encSU, fld]; omega
  case d => simp only [encSU, f5, fld]; omega
  case imm => simp only [encSU, fld]; omega

/-- The SR layout read back. -/
theorem encSR_fields (op v : Nat) (d a b : Fin 32) (hop : op < 2 ^ 8) (hv : v < 2 ^ 9) :
    fld (encSR op d a b v) 24 8 = op ∧ f5 (encSR op d a b v) 19 = d ∧ f5 (encSR op d a b v) 14 = a ∧ f5 (encSR op d a b v) 9 = b
      ∧ fld (encSR op d a b v) 0 8 = v % 2 ^ 8 ∧ fld (encSR op d a b v) 8 1 = v / 2 ^ 8 := by
  have hd := d.isLt
  have ha := a.isLt
  have hb := b.isLt
  refine ⟨?op, Fin.ext ?d, Fin.ext ?a, Fin.ext ?b, ?byte, ?bit8⟩
  case op => simp only [encSR, fld]; omega
  case d => simp only [encSR, f5, fld]; omega
  case a => simp only [encSR, f5, fld]; omega
  case b => simp only [encSR, f5, fld]; omega
  case byte => simp only [encSR, fld]; omega
  case bit8 => simp only [encSR, fld]; omega

/-! ### Words of the forms -/

/-- A form whose opcode the decoder reads with a signed or unsigned imm14 decodes from its SI word. -/
theorem decodeS_imm14 (op : Nat) (form : Fin 32 → Fin 32 → BitVec 14 → Instr) (d a : Fin 32) (imm : BitVec 14) (hop : op < 2 ^ 8)
    (arm : ∀ w, fld w 24 8 = op → decodeS w = chk5 true (form (f5 w 19) (f5 w 14) (fb w 0 14)))
    (wf : (form d a imm).wellFormed = true) : decodeS (encSI op d a imm.toNat) = .ok (form d a imm) := by
  obtain ⟨hcode, hd, ha, -⟩ := encSI_fields op imm.toNat d a hop imm.isLt
  rw [arm _ hcode, hd, ha, fb_encSI op d a imm hop, chk5, wf]
  rfl

/-- A form whose opcode the decoder reads with a six-bit amount decodes from its SI word when imm14[13:6] is zero; any other
imm14 raises ILLEGAL_FIELD. -/
theorem decodeS_amount (op : Nat) (form : Fin 32 → Fin 32 → Fin 64 → Instr) (d a : Fin 32) (hop : op < 2 ^ 8)
    (arm : ∀ w, fld w 24 8 = op → decodeS w = chk5 (fld w 6 8 = 0) (form (f5 w 19) (f5 w 14) (f6 w 0))) :
    (∀ n : Fin 64, (form d a n).wellFormed = true → decodeS (encSI op d a n) = .ok (form d a n))
    ∧ (∀ v, 64 ≤ v → v < 2 ^ 14 → decodeS (encSI op d a v) = .bad .illegalField) := by
  constructor
  · intro n wf
    obtain ⟨hcode, hd, ha, low⟩ := encSI_fields op n d a hop (by have := n.isLt; omega)
    have hn : f6 (encSI op d a n) 0 = n := Fin.ext ((low 0 6 (by decide)).trans (fld_whole _ _ n.isLt))
    have hz : fld (encSI op d a n) 6 8 = 0 := by
      have := n.isLt
      rw [low 6 8 (by decide), fld]
      omega
    rw [arm _ hcode, hd, ha, hn, hz, chk5, wf]
    rfl
  · intro v hlo hhi
    obtain ⟨hcode, -, -, low⟩ := encSI_fields op v d a hop hhi
    have hz : fld (encSI op d a v) 6 8 ≠ 0 := by
      rw [low 6 8 (by decide), fld]
      omega
    rw [arm _ hcode, chk5, decide_eq_false hz]
    rfl

theorem decodeS_lui (d : Fin 32) (u : BitVec 19) : decodeS (encSU 0x28 d u.toNat) = .ok (.lui d u) := by
  obtain ⟨hcode, hd, himm⟩ := encSU_fields 0x28 u.toNat d (by decide) u.isLt
  simp only [decodeS, hcode, hd, fb, himm, BitVec.ofNat_toNat, BitVec.setWidth_eq]
  rfl

/-- LOOP has its label in imm14 and nothing in the field of a second register (R171). -/
theorem decodeS_loop (a b : Fin 32) (off : BitVec 14) :
    decodeS (encSI 0x59 a b off.toNat) = if b = 0 then .ok (.loop a off) else .bad .illegalField := by
  obtain ⟨hcode, ha, hb, -⟩ := encSI_fields 0x59 off.toNat a b (by decide) off.isLt
  have hz : fld (encSI 0x59 a b off.toNat) 14 5 = b := congrArg Fin.val hb
  simp only [decodeS, hcode, ha, fb_encSI 0x59 a b off (by decide), hz, chk5]
  by_cases h : b = 0
  · subst h
    rfl
  · have : b.val ≠ 0 := fun e => h (Fin.ext e)
    simp [h, this]

/-- HALLOC has its view in f[7:0] and f[8] zero (R180). -/
theorem decodeS_halloc (d a b : Fin 32) (f : Nat) (hf : f < 2 ^ 9) :
    decodeS (encSR 0x65 d a b f) = if f < 2 ^ 8 then .ok (.halloc (Fin.ofNat 256 f) d a b) else .bad .illegalField := by
  obtain ⟨hcode, hd, ha, hb, hview, hbit⟩ := encSR_fields 0x65 f d a b (by decide) hf
  have view : f8 (encSR 0x65 d a b f) 0 = Fin.ofNat 256 f := Fin.ext hview
  simp only [decodeS, hcode, hd, ha, hb, view, hbit, chk5]
  by_cases h : f < 2 ^ 8
  · rw [if_pos h, Nat.div_eq_of_lt h]
    rfl
  · rw [if_neg h, decide_eq_false (by omega)]
    rfl

end Sys2Proof.Machine
end

section
/-! PROOFS. The immediate forms of the S slots (R164): their values, and the words that hold them. -/

namespace Sys2Proof.Machine

open Sys2Proof Sys2Proof.Safety

/-! ### Results of the integer classes -/

theorem State.alu_result (s : State) (d : Fin 32) (x : W64) : SResult s (s.alu d x) d 1 x := .next (s.wrS_adds d 1 x)

theorem State.mulOut_result (s : State) (d : Fin 32) (x : W64) : SResult s (s.mulOut d x) d 3 x := .next (s.wrS_adds d 3 x)

/-! ### Values -/

theorem truth_slt (x y : W64) : truth (x.slt y) = if x.toInt < y.toInt then 1 else 0 := by
  simp only [truth, BitVec.slt, decide_eq_true_eq]

/-- LUI places its immediate above the fourteen bits that another immediate form fills. -/
theorem shiftLeft_14_eq_mul (x : W64) : x <<< 14 = x * 2 ^ 14 := by
  rw [BitVec.shiftLeft_eq_mul_twoPow]
  rfl

/-- The low word of a product is the product of the signed values. -/
theorem mul_eq_ofInt (x y : W64) : x * y = BitVec.ofInt 64 (x.toInt * y.toInt) := by
  rw [BitVec.ofInt_mul, BitVec.ofInt_toInt, BitVec.ofInt_toInt]

/-! ### The forms -/

section
variable (s : State) (d a : Fin 32) (imm : BitVec 14) (n : Fin 64) (u : BitVec 19)

theorem exec_addi : exec (.addi d a imm) s = s.alu d (s.gs a + imm.signExtend 64) := rfl
theorem exec_andi : exec (.andi d a imm) s = s.alu d (s.gs a &&& imm.zeroExtend 64) := rfl
theorem exec_ori : exec (.ori d a imm) s = s.alu d (s.gs a ||| imm.zeroExtend 64) := rfl
theorem exec_xori : exec (.xori d a imm) s = s.alu d (s.gs a ^^^ imm.zeroExtend 64) := rfl
theorem exec_shli : exec (.shli d a n) s = s.alu d (s.gs a <<< n.val) := rfl
theorem exec_shri : exec (.shri d a n) s = s.alu d (s.gs a >>> n.val) := rfl
theorem exec_sari : exec (.sari d a n) s = s.alu d ((s.gs a).sshiftRight n.val) := rfl
theorem exec_slti : exec (.slti d a imm) s = s.alu d (truth ((s.gs a).slt (imm.signExtend 64))) := rfl
theorem exec_lui : exec (.lui d u) s = s.alu d (u.signExtend 64 <<< 14) := rfl
theorem exec_muli : exec (.muli d a imm) s = s.mulOut d (s.gs a * imm.signExtend 64) := rfl

/-- The word of each form with imm14 or imm19 decodes to it. -/
theorem decodeS_immediate :
    decodeS (encSI 0x20 d a imm.toNat) = .ok (.addi d a imm) ∧ decodeS (encSI 0x21 d a imm.toNat) = .ok (.andi d a imm)
    ∧ decodeS (encSI 0x22 d a imm.toNat) = .ok (.ori d a imm) ∧ decodeS (encSI 0x23 d a imm.toNat) = .ok (.xori d a imm)
    ∧ decodeS (encSI 0x27 d a imm.toNat) = .ok (.slti d a imm) ∧ decodeS (encSI 0x29 d a imm.toNat) = .ok (.muli d a imm) := by
  refine ⟨?addi, ?andi, ?ori, ?xori, ?slti, ?muli⟩
  case addi => exact decodeS_imm14 0x20 .addi d a imm (by decide) (fun w h => by simp only [decodeS, h]) rfl
  case andi => exact decodeS_imm14 0x21 .andi d a imm (by decide) (fun w h => by simp only [decodeS, h]) rfl
  case ori => exact decodeS_imm14 0x22 .ori d a imm (by decide) (fun w h => by simp only [decodeS, h]) rfl
  case xori => exact decodeS_imm14 0x23 .xori d a imm (by decide) (fun w h => by simp only [decodeS, h]) rfl
  case slti => exact decodeS_imm14 0x27 .slti d a imm (by decide) (fun w h => by simp only [decodeS, h]) rfl
  case muli => exact decodeS_imm14 0x29 .muli d a imm (by decide) (fun w h => by simp only [decodeS, h]) rfl

end

/-- Settles O4: each form is a result of its class, and its word is an SI or SU word that decodes to it. -/
theorem immediateForms : Obligations.ImmediateForms := by
  intro s d a imm n u
  have shli := decodeS_amount 0x24 .shli d a (by decide) (fun w h => by simp only [decodeS, h])
  have shri := decodeS_amount 0x25 .shri d a (by decide) (fun w h => by simp only [decodeS, h])
  have sari := decodeS_amount 0x26 .sari d a (by decide) (fun w h => by simp only [decodeS, h])
  refine ⟨?addi, ?andi, ?ori, ?xori, ?shli, ?shri, ?sari, ?slti, ?lui, ?muli, ?words⟩
  case addi => rw [exec_addi]; exact s.alu_result d _
  case andi => rw [exec_andi]; exact s.alu_result d _
  case ori => rw [exec_ori]; exact s.alu_result d _
  case xori => rw [exec_xori]; exact s.alu_result d _
  case shli => rw [exec_shli]; exact s.alu_result d _
  case shri => rw [exec_shri]; exact s.alu_result d _
  case sari => rw [exec_sari]; exact s.alu_result d _
  case slti => rw [exec_slti, truth_slt]; exact s.alu_result d _
  case lui => rw [exec_lui, shiftLeft_14_eq_mul]; exact s.alu_result d _
  case muli => rw [exec_muli, mul_eq_ofInt]; exact s.mulOut_result d _
  case words =>
    obtain ⟨waddi, wandi, wori, wxori, wslti, wmuli⟩ := decodeS_immediate d a imm
    refine ⟨waddi, wandi, wori, wxori, shli.1 n rfl, shri.1 n rfl, sari.1 n rfl, wslti, wmuli, decodeS_lui d u, ?_⟩
    intro wide
    simp only [List.forall_mem_cons, List.not_mem_nil, false_imp_iff, implies_true, and_true]
    exact ⟨shli.2 _ wide imm.isLt, shri.2 _ wide imm.isLt, sari.2 _ wide imm.isLt⟩

end Sys2Proof.Machine
end

section
/-! PROOFS. LOOP and its back-edge (R171, R145): what a group may do to its own core, the checks that raise ILLEGAL_FIELD, and where
fetch goes on after a group. -/

namespace Sys2Proof.Machine

open Sys2Proof Sys2Proof.Safety

/-! ### Changes of the issuing core -/

theorem InGroup.mono {s : State} {o : Out} {P Q : State → Prop} (h : InGroup s o P) (imp : ∀ t, P t → Q t) : InGroup s o Q := by
  obtain ⟨t, ho, only, hP⟩ := h
  exact ⟨t, ho, only, imp t hP⟩

/-- An instruction that changes its own core leaves its group alone. -/
theorem State.modCore_inGroup (s : State) (f : Core → Core) :
    InGroup s (.next (s.modCore s.ic f)) fun t => t.issue = s.issue ∧ t.core s.ic = f s.ik :=
  ⟨_, rfl, OnlyCore.modCore s s.ic f, rfl, State.core_modCore_self s s.ic f⟩

theorem State.transfer_transfers (s : State) (target : W64) : Transfers s (.next (s.transfer target)) target :=
  ⟨_, rfl, OnlyCore.setCore { s with issue := (s.transfer target).issue } s.ic _, rfl,
   State.core_setCore_self { s with issue := (s.transfer target).issue } s.ic _⟩

/-! ### Field checks (R148, R293) -/

/-- Two field checks in a row are one check that either condition fails. -/
theorem firstFail_chkField_cons (s : State) (b c : Bool) (r : List Check) :
    firstFail (s.chkField b :: s.chkField c :: r) = firstFail (s.chkField (b || c) :: r) := by
  cases b <;> rfl

theorem firstFail_singleton (c : Check) : firstFail [c] = c := by
  cases c <;> rfl

theorem State.checked_chkField_pass (s t : State) (bad : Bool) (h : bad = false) : s.checked (s.chkField bad) t = .next t :=
  s.checked_pass t _ ((failIf_none ..).2 h)

theorem State.checked_chkField_fail (s t : State) (bad : Bool) (h : bad = true) :
    Raises s (s.checked (s.chkField bad) t) 0x03 s.image :=
  s.checked_fail t _ cIllegalField s.image (by rw [h]; rfl)

/-! ### LOOP -/

theorem State.label_eq {w : Nat} (s : State) (off : BitVec w) : s.label off = s.issue.cur.bundle + 2 * off.signExtend 64 := by
  rw [State.label, BitVec.mul_comm]

/-- LOOP as one check and an effect: it fails inside a loop or for an end within its own group. -/
theorem exec_loop (s : State) (a : Fin 32) (off : BitVec 14) :
    exec (.loop a off) s = s.checked (s.chkField (s.ik.sc.lc ≠ 0 || (s.label off).ult s.issue.next))
      (if s.gs a = 0 then s.transfer (s.label off)
       else s.modCore s.ic fun k => { k with sc := { k.sc with lc := s.gs a, ls := s.issue.next, le := s.label off } }) := by
  rw [← firstFail_singleton (s.chkField (_ || _)), ← firstFail_chkField_cons]
  rfl

theorem loop_raises (s : State) (a : Fin 32) (off : BitVec 14)
    (h : s.ik.sc.lc ≠ 0 ∨ (s.label off).toNat < s.issue.next.toNat) : Raises s (exec (.loop a off) s) 0x03 s.image := by
  rw [exec_loop]
  exact s.checked_chkField_fail _ _ (by simpa [BitVec.ult] using h)

/-- A loop that may be entered is skipped for a count of 0 and armed for any other. -/
theorem loop_enters (s : State) (a : Fin 32) (off : BitVec 14) (outside : s.ik.sc.lc = 0)
    (ahead : s.issue.next.toNat ≤ (s.label off).toNat) :
    exec (.loop a off) s = .next (if s.gs a = 0 then s.transfer (s.label off)
      else s.modCore s.ic fun k => { k with sc := { k.sc with lc := s.gs a, ls := s.issue.next, le := s.label off } }) := by
  rw [exec_loop]
  exact s.checked_chkField_pass _ _ (by simpa [BitVec.ult, outside] using ahead)

/-! ### Where fetch goes on -/

section
variable (k : Core) (g : Issue)

theorem Core.follow_transfer (t : W64) (h : g.target = some t) : k.follow g = (t, k) := by
  simp only [Core.follow, h]

/-- The end of the body is reached inside a loop: another pass while LC > 1, else the loop is over. -/
theorem Core.follow_end (hnone : g.target = none) (hend : g.next = k.sc.le) (hlc : k.sc.lc ≠ 0) :
    k.follow g = if 1 < k.sc.lc.toNat then
        (k.sc.ls, { k with sc := { k.sc with lc := k.sc.lc - 1 }, tr := { k.tr with ngp := k.sc.ls } })
      else (k.sc.le, { k with sc := { k.sc with lc := 0 }, tr := { k.tr with ngp := k.sc.le } }) := by
  have back : (decide (g.next = k.sc.le) && decide (k.sc.lc ≠ 0)) = true := by
    rw [decide_eq_true hend, decide_eq_true hlc, Bool.and_self]
  simp only [Core.follow, hnone, back, BitVec.ult, decide_eq_true_eq, if_true]
  rfl

theorem Core.follow_onward (hnone : g.target = none) (h : g.next ≠ k.sc.le ∨ k.sc.lc = 0) : k.follow g = (g.next, k) := by
  have within : (decide (g.next = k.sc.le) && decide (k.sc.lc ≠ 0)) = false := by
    rcases h with h | h <;> simp [h]
  simp only [Core.follow, hnone, within, Bool.false_eq_true, if_false]

end

/-- Settles O11: the checks of LOOP, its two effects, the cases of the back-edge, and the word. -/
theorem loopRule : Obligations.LoopRule := by
  intro s a off k g
  simp only [← State.label_eq]
  refine ⟨loop_raises s a off, fun outside ahead => ⟨?skipped, ?armed⟩, k.follow_transfer g,
    fun hnone hend hlc => ⟨?again, ?last⟩, k.follow_onward g, fun b => decodeS_loop a b off⟩
  case skipped =>
    intro zero
    rw [loop_enters s a off outside ahead, if_pos zero]
    exact s.transfer_transfers _
  case armed =>
    intro nonzero
    rw [loop_enters s a off outside ahead, if_neg nonzero]
    exact s.modCore_inGroup _
  case again =>
    intro more
    rw [k.follow_end g hnone hend hlc, if_pos more]
  case last =>
    intro one
    rw [k.follow_end g hnone hend hlc, one]
    rfl

end Sys2Proof.Machine
end

section
/-! PROOFS. HALLOC (R180): the entry that it forms, and its checks. -/

namespace Sys2Proof.Machine

open Sys2Proof Sys2Proof.Safety

/-! ### Bits of a register with a field set -/

/-- A field set reads as the number's bits inside it; every other bit is kept. -/
theorem getB_setF {w : Nat} (x : BitVec w) (lo n v i : Nat) (hi : i < w) :
    getB (setF x lo n v) i = if lo ≤ i ∧ i < lo + n then v.testBit (i - lo) else getB x i := by
  simp only [getB, setF, BitVec.getLsbD_or, BitVec.getLsbD_and, BitVec.getLsbD_not, BitVec.getLsbD_ofNat, Nat.testBit_mul_two_pow,
    Nat.testBit_mod_two_pow, Nat.testBit_two_pow_sub_one]
  by_cases hin : lo ≤ i ∧ i < lo + n
  · have inside : i - lo < n := by omega
    simp [hin, hi, inside]
  · have outside : lo ≤ i → ¬ i - lo < n := by omega
    rw [if_neg hin]
    by_cases hlo : lo ≤ i <;> simp [hi, hlo, outside]

/-- A field set inside a register reads as the number. -/
theorem getF_setF_self {w : Nat} (x : BitVec w) (lo n v : Nat) (h : lo + n ≤ w) (hv : v < 2 ^ n) : getF (setF x lo n v) lo n = v := by
  refine Nat.eq_of_testBit_eq fun i => ?_
  simp only [getF, fld, Nat.testBit_mod_two_pow, Nat.testBit_div_two_pow, BitVec.testBit_toNat]
  by_cases hi : i < n
  · have bit := getB_setF x lo n v (lo + i) (by omega)
    rw [getB, if_pos (by omega), Nat.add_sub_cancel_left] at bit
    simp [hi, bit, Nat.add_comm]
  · have high : v.testBit i = false := Nat.testBit_lt_two_pow (Nat.lt_of_lt_of_le hv (Nat.pow_le_pow_right (by decide) (by omega)))
    simp [hi, high]

/-! ### The entry -/

theorem entV_formEntry (old : TEntry) (a b : W64) : entV (formEntry old a b) = true := by
  simp [entV, formEntry, setB, getB_setF, b2n]

theorem entGen_formEntry (old : TEntry) (a b : W64) : entGen (formEntry old a b) = entGen old :=
  getF_setF_self _ 55 8 _ (by decide) (fld_lt _ _ _)

/-- The bits of a from 55 on are ignored, and those below it are word 0's own. -/
theorem formEntry_w0_low (old : TEntry) (a b : W64) (j : Nat) (hj : j < 55) : getB (formEntry old a b).w0 j = getB a j := by
  rw [formEntry, setB, getB_setF _ _ _ _ _ (by omega), if_neg (by omega), getB_setF _ _ _ _ _ (by omega), if_neg (by omega)]

/-! ### The instruction -/

/-- What HALLOC leaves of its core: the entry in the table and the view bound to it with the entry's generation. -/
theorem Core.install_formEntry (k : Core) (i : Nat) (h : Fin 256) (old : TEntry) (a b : W64) :
    k.install i h.val (formEntry old a b) = { k with tile := { k.tile with
      ents := k.tile.ents.setIfInBounds i (formEntry old a b)
      views := k.tile.views.set h.val ⟨true, BitVec.ofNat 8 (entGen old), BitVec.ofNat 8 i⟩ } } := by
  have bound : ∀ v, k.tile.views.setIfInBounds h.val v = k.tile.views.set h.val v := by
    intro v
    simp [Vector.setIfInBounds, Vector.set, Array.setIfInBounds]
  rw [Core.install, entGen_formEntry, bound]

/-- HALLOC as one check and an effect. -/
theorem exec_halloc (s : State) (h : Fin 256) (d a b : Fin 32) :
    let i := (s.gs d).toNat
    let e := formEntry (s.ik.ent i) (s.gs a) (s.gs b)
    exec (.halloc h d a b) s = s.checked (s.chkField (((256 ≤ i || (getF (s.gs a) 0 14 ≠ 0 || getF (s.gs b) 22 42 ≠ 0))
      || entV (s.ik.ent i)) || !entLegal s.ik.tile.ents.toList e)) (s.modCore s.ic fun k => k.install i h.val e) := by
  intro i e
  rw [← firstFail_singleton (s.chkField (_ || _)), ← firstFail_chkField_cons, ← firstFail_chkField_cons, ← firstFail_chkField_cons]
  rfl

/-- Settles O24: HALLOC is one check, whose conditions are those of R180, and the installation of the entry that it forms. -/
theorem handleAllocate : Obligations.HandleAllocate := by
  intro s h d a b k i old e ok word
  have hlt := h.isLt
  have passes : ok ↔ (((256 ≤ i || (getF (s.gs a) 0 14 ≠ 0 || getF (s.gs b) 22 42 ≠ 0)) || entV old)
      || !entLegal k.tile.ents.toList e) = false := by
    simp [ok, and_assoc]
  refine ⟨?word, ?bit8, fun pass => ?installs, fun fail => ?raises⟩
  case word =>
    have named := decodeS_halloc d a b h.val (by omega)
    rw [if_pos (by omega), Fin.ofNat_val_eq_self] at named
    exact named
  case bit8 =>
    have refused := decodeS_halloc d a b (h.val + 2 ^ 8) (by omega)
    rw [if_neg (by omega), encSR, ← Nat.add_assoc] at refused
    exact refused
  case installs =>
    rw [exec_halloc, s.checked_chkField_pass _ _ (passes.1 pass)]
    refine InGroup.mono (s.modCore_inGroup _) fun t ⟨issue, core⟩ => ⟨issue, ?_, entV_formEntry .., entGen_formEntry ..,
      formEntry_w0_low _ _ _, rfl⟩
    rw [core, Core.install_formEntry]
  case raises =>
    rw [exec_halloc]
    exact s.checked_chkField_fail _ _ (by simpa only [Bool.not_eq_false] using mt passes.2 fail)

end Sys2Proof.Machine
end
